-- ==== Sys2Proof/Word.lean ====
section
/-! DEFINITION. The byte, the smallest unit that the KF318's floor line and record store carry, and the plainest counting
arithmetic of its manual: a count that holds at the top of its range. Quantities the manual counts, measures or divides
are natural numbers or integers in this model; only what a station sees as bits is a bit vector. -/

namespace Sys2Proof

/-- One byte of a frame or of the record store. -/
abbrev Byte := BitVec 8

/-- One more, held at `top`: the counts that "hold at" their maximum (R22, R100, R107, R163 and others). -/
def holdInc (top n : Nat) : Nat := if n < top then n + 1 else n

/-- A sum held at `top`: the totals of R53 and the merges of R151. -/
def holdAdd (top a b : Nat) : Nat := min (a + b) top

end Sys2Proof
end

