-- ==== Sys2Proof/Config.lean ====
section
/-! DEFINITION. What one KF318 has that no rule of the manual fixes: its identity area (R184, fixed at manufacture) and the
free value of the model. Each is a constant with no body: nothing in Lean can evaluate it, so a claim that is proved
holds whatever it is. -/

namespace Sys2Proof

/-- The vendor code of the identity area (R184). -/
opaque Config.vendorCode : BitVec 16

/-- The part code of the identity area (R184). -/
opaque Config.partCode : BitVec 16

/-- The revision of the identity area (R184). -/
opaque Config.revision : BitVec 8

/-- The serial number of the identity area (R184). -/
opaque Config.serialNumber : BitVec 32

/-- FREE VALUE (log entry 8). R151 gives the lay windows of a twist part as its windows less its stalled. A part received
in a frame may carry more stalled windows than windows; the manual states no result there. -/
opaque Config.layWindowsBelowZero (windows stalled : Nat) : Nat

/-- FREE VALUE (log entry 17). Table 5-6 gives every knot count the range 0–4,294,967,295, and R88 and R89 add to missed knots
and head faults as long as sampled rows has not reached it. The manual states no result for a sum above it. -/
opaque Config.knotCountAbove (count added : Nat) : Nat

/-- FREE VALUE (log entry 19). The quotients of R45 and R93 are 0 for an advance of less than half a µm a turn or row, and every
lay and mesh lies in 1–16,777,215 µm. The manual states no result there. -/
opaque Config.layBelowOne (delta n : Nat) : Nat

/-- FREE VALUE (log entry 40). R64 scales a voltage to a result and does not say how a voltage between two results is rounded: a
level in thousandths of a result that is no whole result reads as the one below it, or as the one above where this is
true. -/
opaque Config.conversionRoundsUp (level : Nat) : Bool

end Sys2Proof
end

