-- ==== Sys2Proof/Syntax.lean ====
section
/-! DEFINITION. The commands of the KF318 Line Node: one constructor of `Instr` for every row of spec/opcode_table.json, in
the table's order, with the operands the row's rule names. The types of those operands are declared before it, in the
manual's own names. -/

namespace Sys2Proof

/-- A station number of the floor line: 1–31, with 0 for all or none (Table 0-3). -/
abbrev Station := Fin 32

/-- Encoder A or encoder B (2.1). -/
inductive EncoderId where
  | a | b
  deriving DecidableEq, Repr

/-- The modes of Table 1-1 that a start request may carry (R5); OFF is the absence of one. -/
inductive RunMode where
  | interval | count | period | width | delay | pulse
  deriving DecidableEq, Repr

/-- The tick units of Table 1-1. -/
inductive TickUnit where
  | us1 | us10 | us100 | ms1 | edges
  deriving DecidableEq, Repr

/-- The mark kinds of a MARK frame (Table 6-2). -/
inductive MarkKind where
  | cut | splice
  deriving DecidableEq, Repr

/-- What moves a channel from ARMED to RUNNING (Table 1-1). -/
inductive Trigger where
  | owner
  | input
  | chain (source : Fin 8)
  | line (kind : MarkKind)
  deriving DecidableEq, Repr

/-- What reaches an ARMED channel as its trigger (R7). -/
inductive TriggerEvent where
  | input
  | chain (source : Fin 8)
  | line (kind : MarkKind)
  deriving DecidableEq, Repr

/-- What a channel does to its output pin (Table 1-1). -/
inductive OutputAction where
  | none | toggle | drive
  deriving DecidableEq, Repr

/-- An owner's start request (R5). -/
structure StartRequest where
  mode : RunMode
  unit : TickUnit
  reload : BitVec 24
  drive : Option (BitVec 24)
  trigger : Trigger
  action : OutputAction
  deriving DecidableEq, Repr

/-- The four flags of the arithmetic status (Table 2-7). -/
inductive ArithFlag where
  | ovf | unf | dvz | rng
  deriving DecidableEq, Repr

/-- The origins of Table 2-8. -/
inductive Origin where
  | none | meterA | meterB | speed | slip | drift | lay (spindle : Fin 4) | follow | mesh | convert
  deriving DecidableEq, Repr

/-- A set of the four arithmetic flags. -/
structure ArithFlags where
  ovf : Bool
  unf : Bool
  dvz : Bool
  rng : Bool
  deriving DecidableEq, Repr

/-- The permit states (Table 7-1). -/
inductive Permit where
  | unset | standby | running | halting | halted
  deriving DecidableEq, Repr

/-- The seventeen causes of Table 7-3, in code order. -/
inductive Cause where
  | operator | breakChain | tension | strand | lay | knot | mesh | phase | slip | drift | arith | coilEnd | cutter
  | paceLost | supply | lineFailed | store
  deriving DecidableEq, Repr

/-- The pace part of a PRESENCE (Table 10-5): speed in mm/s and line length in mm. -/
structure PacePart where
  v : BitVec 16
  length : BitVec 32
  deriving DecidableEq, Repr

/-- The halt part of a PRESENCE (Table 10-5). -/
structure HaltPart where
  serial : Byte
  cause : Byte
  deriving DecidableEq, Repr

/-- What a PRESENCE carries for the peer list (R108, Table 10-5): the roles as the settings mask has them. -/
structure PresenceInfo where
  roles : Byte
  permit : Byte
  causes : BitVec 24
  coil : BitVec 32
  pace : Option PacePart
  halt : Option HaltPart
  deriving DecidableEq, Repr

/-- An accepted frame as the peer list takes it (R109, R110). -/
structure HeardFrame where
  station : Station
  sequence : Byte
  presence : Option PresenceInfo
  deriving DecidableEq, Repr

/-- A whole frame as the receiver has taken it (R97, R99): the four header bytes, the payload (its length is the length
byte) and the two check bytes. -/
structure RawFrame where
  h0 : Byte
  h1 : Byte
  h2 : Byte
  h3 : Byte
  payload : List Byte
  check : BitVec 16
  deriving DecidableEq, Repr

/-- The twist node totals of Table 3-6. -/
structure TwistTotals where
  windows : Nat
  outOfBand : Nat
  stalled : Nat
  layFaults : Nat
  minLay : Option Nat
  maxLay : Option Nat
  meanLay : Option Nat
  deriving DecidableEq, Repr

/-- The eight knot counts of Table 5-6. -/
structure KnotCounts where
  sampledRows : Nat
  unseenRows : Nat
  inchRows : Nat
  missedKnots : Nat
  headFaults : Nat
  meshWindows : Nat
  meshOutOfBand : Nat
  meshFaults : Nat
  deriving DecidableEq, Repr

/-- The part a monitor hands to the coil builder at the end of a segment (R53, R95). -/
inductive SegmentPart where
  | twist (totals : TwistTotals)
  | knot (counts : KnotCounts)
  deriving DecidableEq, Repr

/-- The content of a TALLY (Table 10-7). The origin is kept as the byte that the frame carries. -/
structure Tally where
  coil : BitVec 32
  halts : Byte
  flags : ArithFlags
  origin : Byte
  twist : Option TwistTotals
  knot : Option KnotCounts
  deriving DecidableEq, Repr

/-- Bytes of the store that take another value than the one a step writes (log entry 5): an address and the value that the
memory holds there once the step has written it. A completion with none is one in which the memory took every byte. -/
abbrev Wear := List (Nat × Byte)

/-- How far the step of the store operation in flight had come when a reset abandoned it (R165, R168, R171; log entry 5). -/
structure Torn where
  /-- bytes of the bank under erasure in which bits had been erased, with those bits -/
  erased : List (Nat × Byte)
  /-- bytes of the program step written in full, in ascending order (R158), or sectors that a COLLECTED run has gone through (R168) -/
  written : Nat
  /-- what the byte after them reads: its bits programmed so far -/
  partly : Byte
  deriving DecidableEq, Repr

/-- One command of the node: one row of the opcode table. -/
inductive Instr where
  | reset (station : Station) (commission : Bool) (torn : Torn)
  | startEvent
  | channelStartRequest (channel : Fin 8) (request : StartRequest)
  | channelStopRequest (channel : Fin 8)
  | setNextReload (channel : Fin 8) (reload : BitVec 24)
  | channelTrigger (channel : Fin 8) (event : TriggerEvent)
  | intervalExpiry (channel : Fin 8)
  | periodCapture (channel : Fin 8)
  | encoderTransition (encoder : EncoderId) (line1 line2 : Bool)
  | speedEvaluation
  | pacePartToMetering (length : BitVec 32)
  | flagSetRequest (flag : ArithFlag) (origin : Origin)
  | spindleTurn (spindle : Fin 4)
  | twistRunningEntry
  | twistRunningExit
  | stallCheck
  | twistSegmentRequest (coil : BitVec 32)
  | pacePartToTwist (v : BitVec 16)
  | paceSourceSilent
  | paceHoldExpiry
  | paceSourceHeard
  | scanStart
  | conversionComplete (result : BitVec 12)
  | samplerRunningEntry
  | samplerRunningExit
  | tensionClearQuestion
  | tensionClearNotice
  | phaseCodeChange (code : BitVec 3)
  | windowOpen (lines : BitVec 32)
  | knotSample (lines : BitVec 32)
  | windowClose
  | drawWidthCapture (capture : BitVec 24) (saturated : Bool)
  | knotRunningEntry
  | knotRunningExit
  | knotSegmentRequest (coil : BitVec 32)
  | frameReceived (frame : RawFrame)
  | brokenFrame (byIdle : Bool)
  | presenceTimerExpiry
  | permitStateNotice (permit : Permit)
  | withdrawRequest (serial : Byte)
  | transmitterJoin
  | attemptBegin
  | attemptSuccess
  | collision
  | peerListFrame (frame : HeardFrame)
  | peerAgeing (station : Station)
  | start
  | stop
  | breakOpen
  | breakClose
  | alarmReset
  | raiseCause (cause : Cause)
  | clearCause (cause : Cause)
  | haltTimerExpiry
  | withdrawAnswer (sent : Bool) (serial : Byte)
  | haltFrame (station : Station) (cause serial : Byte) (length : BitVec 32)
  | resumeFrame (station : Station) (serial : Byte)
  | presenceHaltPart (station : Station) (halt : Option HaltPart)
  | tensionAnswer (yes : Bool)
  | cutEndedAnswer (ended : Bool)
  | heldBackAnswer (heldBack : Bool)
  | coilHoldSet
  | coilHoldClear
  | supplyWarning
  | supplyRecovery
  | refusalBlinkEnd
  | coilRunningEntry
  | cutRequest
  | restTimerExpiry
  | cutDriveStart
  | cutPulseExpiry
  | cutTimerExpiry
  | cutEndedQuestion
  | cutDone
  | segmentStatisticsAnswer (coil : BitVec 32) (part : SegmentPart)
  | reasonNotice (code : Byte) (station : Station) (stopped : Bool)
  | splice
  | markSpliceReceived (station : Station)
  | markCutReceived (station : Station) (coil : BitVec 32)
  | tallyReceived (station : Station) (tally : Tally)
  | tallyWaitExpiry
  | keepReport (coil : BitVec 32) (kept : Bool)
  | heldBackQuestion
  | supplyNotice
  | programHeaderComplete (wear : Wear)
  | keepComplete (wear : Wear)
  | markCollectedComplete (wear : Wear)
  | eraseBankComplete (wear : Wear)
  | checkComplete
  | readComplete
  | lostCompletion (wear : Wear)
  | commitComplete (wear : Wear)
  | query (source : Station) (page : Byte)
  | recall (source : Station) (coil : BitVec 32) (parts : Byte)
  | collected (source : Station) (coil : BitVec 32)
  | key (source : Station) (value : Byte)
  | erase (source : Station) (bank : Byte)
  | check (source : Station) (first count : Byte)
  | setting (source : Station) (index : Byte) (data : List Byte)
  | settingCommit (source : Station)
  | target (source : Station) (length : BitVec 32)
  | clearflags (source : Station)
  | phaseCandidate (code : BitVec 3)
  | receiverEntersPass
  | passIdle
  | alarmFlash
  deriving DecidableEq, Repr

end Sys2Proof
end

