-- ==== Sys2Proof/Decode.lean ====
section
/-! DEFINITION. The command that a word spells. The node is a block, not a processor: its opcode table gives none of its 106
commands any bits, so no word spells one. (The bytes of the frames that carry requests are read in Machine/Layout.lean
and handed to their owners by the command FRAME_RECEIVED.) -/

namespace Sys2Proof

/-- The command that the table's bits spell: none, since no row of the table has bits. -/
def decodeTableWord (_nbits _w : Nat) : Option Instr := none

end Sys2Proof
end

