-- ==== Sys2Proof/Machine/State.lean ====
section
/-! DEFINITION. The state of the KF318 Line Node as plain data: every record that the manual's chapters give a block, the
record store's memory, the pins, the settings and straps in use, the commands that wait (`pending`) and the events that one
block has given another and that are not taken yet (`due`, log entry 1). `State.reset` is the node right after reset. -/

namespace Sys2Proof.Machine

/-- No condition of the KF318 stops the node: every fault that the manual describes is a cause, a flag, a count or an answer,
and the node goes on. So no constructor is declared, and no command of this model ends in a fault. Safe. -/
inductive Fault where
  deriving DecidableEq, Repr

/-- Why the model gives a command no meaning. -/
inductive Refusal where
  /-- Raised by an arm of `exec` whose command has no meaning in the model yet; no arm raises it now. Safe: a refusal proves
  nothing about the node. -/
  | notModelled (mnemonic : String)
  deriving DecidableEq, Repr

/-! ### Settings (Table 10-10), straps and pins -/

/-- The settings of one encoder (Table 2-1). -/
structure EncoderSettings where
  enabled : Bool
  invert : Bool
  n : Nat
  d : Nat
  deriving DecidableEq, Repr

/-- The settings of one spindle (Table 3-1). -/
structure SpindleSettings where
  fitted : Bool
  pulses : Nat
  turnsPerWindow : Nat
  target : Nat
  tolerance : Nat
  runLimit : Nat
  deriving DecidableEq, Repr

/-- The window modes of Table 4-3. -/
inductive ScanMode where
  | off | low | high | band
  deriving DecidableEq, Repr

/-- The settings of one scan list entry (Table 4-2). -/
structure ScanSettings where
  input : Nat
  mode : ScanMode
  protect : Bool
  blankInTie : Bool
  filterCount : Nat
  lowLimit : Nat
  highLimit : Nat
  deriving DecidableEq, Repr

/-- The settings sector in its own units (Table 10-10). -/
structure Settings where
  group : Nat
  twist : Bool
  knot : Bool
  coil : Bool
  paceSource : Nat
  pacePublish : Bool
  driftCheck : Bool
  follow : Bool
  autoResume : Bool
  layEscalate : Bool
  meshEscalate : Bool
  arithEscalate : Bool
  consecutiveStop : Bool
  wrap : Bool
  encA : EncoderSettings
  encB : EncoderSettings
  slipStep : Nat
  slipLimit : Nat
  driftLimit : Nat
  takeUpRatio : Nat
  spindles : Vector SpindleSettings 4
  stallPeriod : Nat
  pref : Nat
  paceHold : Nat
  fittedHeads : BitVec 32
  phaseFilter : Nat
  openDelay : Nat
  windowSpan : Nat
  headFilter : Nat
  suspectThreshold : Nat
  meshRows : Nat
  meshTarget : Nat
  meshTolerance : Nat
  meshRunLimit : Nat
  scanPeriod : Nat
  scan : Vector ScanSettings 8
  haltTimeout : Nat
  coilTarget : Nat
  cutDelay : Nat
  cutPulse : Nat
  cutDoneTimeout : Nat
  tallyWait : Nat
  deriving DecidableEq, Repr

/-- The settings in use on a node whose sector 0 is invalid: none, every field 0 (log entry 10). The node makes no use of
them, since it stays UNSET. -/
def Settings.blank : Settings where
  group := 0
  twist := false
  knot := false
  coil := false
  paceSource := 0
  pacePublish := false
  driftCheck := false
  follow := false
  autoResume := false
  layEscalate := false
  meshEscalate := false
  arithEscalate := false
  consecutiveStop := false
  wrap := false
  encA := { enabled := false, invert := false, n := 0, d := 0 }
  encB := { enabled := false, invert := false, n := 0, d := 0 }
  slipStep := 0
  slipLimit := 0
  driftLimit := 0
  takeUpRatio := 0
  spindles := Vector.replicate 4
    { fitted := false, pulses := 0, turnsPerWindow := 0, target := 0, tolerance := 0, runLimit := 0 }
  stallPeriod := 0
  pref := 0
  paceHold := 0
  fittedHeads := 0
  phaseFilter := 0
  openDelay := 0
  windowSpan := 0
  headFilter := 0
  suspectThreshold := 0
  meshRows := 0
  meshTarget := 0
  meshTolerance := 0
  meshRunLimit := 0
  scanPeriod := 0
  scan := Vector.replicate 8
    { input := 0, mode := .off, protect := false, blankInTie := false, filterCount := 0, lowLimit := 0, highLimit := 0 }
  haltTimeout := 0
  coilTarget := 0
  cutDelay := 0
  cutPulse := 0
  cutDoneTimeout := 0
  tallyWait := 0

/-- The levels of the input pins that the node reads as levels (Table 0-5), as the last command that read them or the last
sample showed them (log entry 4). -/
structure Pins where
  /-- ENC-A line 1, line 2 as taken: the pair read on two successive samples (R21) -/
  encA : Bool × Bool
  /-- ENC-B line 1, line 2 as taken -/
  encB : Bool × Bool
  /-- ENC-A line 1, line 2 as the last sample read them (R21) -/
  readA : Bool × Bool
  /-- ENC-B line 1, line 2 as the last sample read them -/
  readB : Bool × Bool
  /-- PH2, PH1, PH0 read as one code (R75) -/
  phase : BitVec 3
  /-- KS0–KS31, bit n for KSn -/
  ks : BitVec 32
  /-- the voltages at AI0–AI7, in thousandths of a conversion result: 10 V is 4,095,000 (R64) -/
  ai : Vector Int 8
  /-- the BREAK chain is open -/
  breakOpen : Bool
  /-- SP1–SP4 as the last sample read them, bit n for SPn+1 (R4) -/
  sp : BitVec 4
  /-- SP1–SP4 as taken: the level read on two successive samples (R4) -/
  spTaken : BitVec 4
  /-- the voltage of the supply, in mV (R133) -/
  supply : Nat
  /-- for how many µs the supply has read below 17.0 V, held at 1 ms (R133) -/
  supplyLow : Nat
  /-- for how many µs the supply has read above 18.0 V, held at 100 ms (R133) -/
  supplyHigh : Nat
  deriving DecidableEq, Repr

/-- The levels that a coming µs brings to the inputs that the node reads by time (R4, R21, R64, R75, R84, R133). -/
structure Levels where
  /-- ENC-A line 1, line 2 at the four samples of the µs -/
  encA : Vector (Bool × Bool) 4
  /-- ENC-B line 1, line 2 at the four samples of the µs -/
  encB : Vector (Bool × Bool) 4
  phase : BitVec 3
  ks : BitVec 32
  sp : BitVec 4
  ai : Vector Int 8
  /-- the voltage of the supply, in mV -/
  supply : Nat
  deriving DecidableEq, Repr

/-- A byte that other stations will put on the line (R97, R99). -/
structure LineByte where
  /-- µs of idle before its start bit -/
  wait : Nat
  value : Byte
  /-- its stop bit reads low -/
  stopLow : Bool
  deriving DecidableEq, Repr

/-- What the receiver reads back of an attempt (R106): bytes as they were sent, then one as it was read, which is a collision
where it differs from the byte sent. -/
structure Readback where
  /-- how many bytes of the attempt read back correctly -/
  good : Nat
  /-- the value that the next byte read as -/
  value : Byte
  /-- its stop bit read low -/
  stopLow : Bool
  deriving DecidableEq, Repr

/-- What the surroundings will bring as time passes (log entry 39): no state of the node. Time takes the first of each list as it
comes, and the end of an attempt takes its reading. -/
structure Surroundings where
  /-- the levels of the coming µs, one entry each; the last stays -/
  levels : List Levels
  /-- the bytes of other stations, in the order they come -/
  line : List LineByte
  /-- how the coming attempts read back: with a byte that may differ, or as sent -/
  readings : List (Option Readback)
  /-- the store's worn bytes, as the steps that time ends meet them (log entry 5) -/
  wear : Wear
  deriving DecidableEq, Repr

/-- Surroundings that bring nothing. -/
def Surroundings.still : Surroundings where
  levels := []
  line := []
  readings := []
  wear := []

/-- What the start sequence has read (R181) and the staged settings image (R183). -/
structure StartRecord where
  station : Station
  commission : Bool
  settingsValid : Bool
  /-- the start event has been taken: the floor line interface has begun -/
  started : Bool
  staged : List Byte
  stagedParts : BitVec 8
  deriving DecidableEq, Repr

/-! ### Count channels (Table 1-1) -/

/-- The channel states of Table 1-2. -/
inductive ChannelState where
  | idle | armed | running | driving
  deriving DecidableEq, Repr

/-- The signals of Table 1-3 whose edges a channel uses. -/
inductive InputSignal where
  | none
  | spindle (n : Fin 4)
  | inDraw
  deriving DecidableEq, Repr

/-- The channel record (R1). `mode` is absent for OFF; `divider` is the tick divider of R3, in µs into the present tick. -/
structure Channel where
  mode : Option RunMode
  state : ChannelState
  unit : TickUnit
  count : BitVec 24
  reload : BitVec 24
  drive : Option (BitVec 24)
  pendingReload : Option (BitVec 24)
  capture : BitVec 24
  captureSaturated : Bool
  trigger : Trigger
  input : InputSignal
  action : OutputAction
  level : Bool
  divider : Nat
  deriving DecidableEq, Repr

/-- A channel after reset (Table 1-1, last column). -/
def Channel.reset : Channel where
  mode := none
  state := .idle
  unit := .us1
  count := 0
  reload := 0
  drive := none
  pendingReload := none
  capture := 0
  captureSaturated := false
  trigger := .owner
  input := .none
  action := .none
  level := false
  divider := 0

/-! ### Metering (chapter 2) -/

/-- The state fields of the encoder record (Table 2-1); its settings stand in `Settings`. -/
structure EncoderRecord where
  reference : Bool × Bool
  length : Int
  residue : Nat
  errors : Nat
  limitReached : Bool
  deriving DecidableEq, Repr

/-- An encoder after reset; the reference pair is the one read when counting begins (R20). -/
def EncoderRecord.reset : EncoderRecord where
  reference := (false, false)
  length := 0
  residue := 0
  errors := 0
  limitReached := false

/-- The metering unit: encoders, speed (R26–R28), slip (R31), drift (R33) and the arithmetic status (R35). -/
structure Metering where
  encA : EncoderRecord
  encB : EncoderRecord
  keptLength : Int
  speed : Nat
  reverse : Bool
  zeroRun : Nat
  atRest : Bool
  /-- µs to the next speed evaluation; absent while the metering unit has not begun -/
  evaluationLeft : Option Nat
  slipA : Int
  slipB : Int
  slipRun : Nat
  lastSlip : Nat
  /-- peer length in mm and own length in µm, when a reference is present -/
  driftReference : Option (Nat × Int)
  driftRun : Nat
  lastDrift : Nat
  flags : ArithFlags
  origin : Origin
  deriving DecidableEq, Repr

/-- No flag set. -/
def clearFlags : ArithFlags := { ovf := false, unf := false, dvz := false, rng := false }

/-- The metering unit after reset. -/
def Metering.reset : Metering where
  encA := .reset
  encB := .reset
  keptLength := 0
  speed := 0
  reverse := false
  zeroRun := 3
  atRest := true
  evaluationLeft := none
  slipA := 0
  slipB := 0
  slipRun := 0
  lastSlip := 0
  driftReference := none
  driftRun := 0
  lastDrift := 0
  flags := clearFlags
  origin := .none

/-! ### Twist supervision (chapter 3) -/

/-- The classes of a closed window (Table 3-1). -/
inductive LayClass where
  | none | within | below | above | stalled
  deriving DecidableEq, Repr

/-- The segment statistics of a spindle (Table 3-5). -/
structure SpindleStats where
  windows : Nat
  within : Nat
  below : Nat
  above : Nat
  stalled : Nat
  layFaults : Nat
  minLay : Option Nat
  maxLay : Option Nat
  sumLay : Nat
  deriving DecidableEq, Repr

/-- Statistics at zero, extremes absent (R52). -/
def SpindleStats.zero : SpindleStats where
  windows := 0
  within := 0
  below := 0
  above := 0
  stalled := 0
  layFaults := 0
  minLay := none
  maxLay := none
  sumLay := 0

/-- The state fields of the spindle record (Table 3-1). -/
structure Spindle where
  /-- the window state is OPEN -/
  windowOpen : Bool
  turns : Nat
  startLength : Int
  lastTurnLength : Int
  closedMark : Bool
  lastLay : Option Nat
  lastClass : LayClass
  bandRun : Nat
  stallRun : Nat
  bandLow : Nat
  bandHigh : Nat
  stats : SpindleStats
  deriving DecidableEq, Repr

/-- A spindle record after reset; its band is computed at start (R46). -/
def Spindle.reset : Spindle where
  windowOpen := false
  turns := 0
  startLength := 0
  lastTurnLength := 0
  closedMark := false
  lastLay := none
  lastClass := .none
  bandRun := 0
  stallRun := 0
  bandLow := 0
  bandHigh := 0
  stats := .zero

/-- The source conditions of R54. -/
inductive PaceCondition where
  | tracking | holding | lost
  deriving DecidableEq, Repr

/-- The twist monitor: four spindle records and the follow record (R40, R54). -/
structure Twist where
  spindles : Vector Spindle 4
  halfPeriod : Option Nat
  flowing : Bool
  condition : PaceCondition
  /-- the hold timer, in µs left; absent when stopped -/
  holdLeft : Option Nat
  deriving DecidableEq, Repr

/-- The twist monitor after reset. -/
def Twist.reset : Twist where
  spindles := Vector.replicate 4 .reset
  halfPeriod := none
  flowing := false
  condition := .tracking
  holdLeft := none

/-! ### Sense sampling (chapter 4) -/

/-- The state fields of a scan list entry (Table 4-2). -/
structure ScanEntry where
  result : Nat
  filterRun : Nat
  tripped : Bool
  tripCount : Nat
  tripValue : Option Nat
  locked : Bool
  deriving DecidableEq, Repr

/-- A scan list entry after reset. -/
def ScanEntry.reset : ScanEntry where
  result := 0
  filterRun := 0
  tripped := false
  tripCount := 0
  tripValue := none
  locked := false

/-- The sense sampler (Table 4-1): the scan state is SCANNING while a position is present. -/
structure Sampler where
  position : Option (Fin 8)
  overruns : Nat
  runningView : Bool
  /-- µs left of the conversion in progress -/
  conversionLeft : Option Nat
  /-- what the conversion in progress sampled at its start (R64) -/
  sampled : BitVec 12
  entries : Vector ScanEntry 8
  deriving DecidableEq, Repr

/-- The sampler after reset. -/
def Sampler.reset : Sampler where
  position := none
  overruns := 0
  runningView := false
  conversionLeft := none
  sampled := 0
  entries := Vector.replicate 8 .reset

/-! ### Knot supervision (chapter 5) -/

/-- The shaft sectors of Table 5-3, in forward order. -/
inductive Sector where
  | s0 | s1 | s2 | s3 | s4 | s5
  deriving DecidableEq, Repr

/-- What a row's window found (Table 5-2). -/
inductive RowOutcome where
  | none | seen | short | unseen
  deriving DecidableEq, Repr

/-- The states of the sampling window (Table 5-2). -/
inductive WindowState where
  | idle | pending | opened | closed
  deriving DecidableEq, Repr

/-- The states of the mesh window (Table 5-2). -/
inductive MeshState where
  | idle | waiting | opened
  deriving DecidableEq, Repr

/-- An entry of the row history (R88). -/
structure RowEntry where
  number : Nat
  missed : BitVec 32
  short : Bool
  unseen : Bool
  deriving DecidableEq, Repr

/-- The eight counts at zero (R95). -/
def zeroCounts : KnotCounts where
  sampledRows := 0
  unseenRows := 0
  inchRows := 0
  missedKnots := 0
  headFaults := 0
  meshWindows := 0
  meshOutOfBand := 0
  meshFaults := 0

/-- The knot monitor (Table 5-2). A row in progress is VALID while `rowValid` is yes. -/
structure Knot where
  candidate : Option (BitVec 3)
  /-- µs for which the candidate has been read -/
  filterTime : Nat
  takenCode : Option (BitVec 3)
  takenSector : Option Sector
  phaseFaults : Nat
  runningView : Bool
  rowValid : Bool
  rowOutcome : RowOutcome
  rowMissed : BitVec 32
  rowCounter : Nat
  window : WindowState
  samples : Nat
  /-- µs to the next sample; absent while the sample timer is stopped -/
  sampleLeft : Option Nat
  headRuns : Vector Nat 32
  tight : BitVec 32
  drawWidth : BitVec 24
  drawSaturated : Bool
  history : List RowEntry
  suspects : BitVec 32
  mesh : MeshState
  meshStart : Int
  meshCounted : Nat
  lastMesh : Option Nat
  meshRun : Nat
  meshLow : Nat
  meshHigh : Nat
  stats : KnotCounts
  deriving DecidableEq, Repr

/-- The knot monitor after reset. -/
def Knot.reset : Knot where
  candidate := none
  filterTime := 0
  takenCode := none
  takenSector := none
  phaseFaults := 0
  runningView := false
  rowValid := false
  rowOutcome := .none
  rowMissed := 0
  rowCounter := 0
  window := .idle
  samples := 0
  sampleLeft := none
  headRuns := Vector.replicate 32 0
  tight := 0
  drawWidth := 0
  drawSaturated := false
  history := []
  suspects := 0
  mesh := .idle
  meshStart := 0
  meshCounted := 0
  lastMesh := none
  meshRun := 0
  meshLow := 0
  meshHigh := 0
  stats := zeroCounts

/-! ### The floor line and the peer list (chapter 6) -/

/-- The nine service kinds (R173). -/
inductive ServiceKind where
  | query | recall | collected | key | erase | check | setting | target | clearflags
  deriving DecidableEq, Repr

/-- What a queued frame carries. The content of a PRESENCE and of a STATUS reply is taken when an attempt begins (R108,
R175), so the queue holds none for them. -/
inductive FrameContent where
  | presence
  | halt (cause serial : Byte) (length : BitVec 32)
  | resume (serial : Byte)
  | mark (kind : MarkKind) (coil length : BitVec 32)
  | tally (destination : Station) (tally : Tally)
  | reply (kind : ServiceKind) (destination : Station) (payload : List Byte)
  | status (destination : Station) (page : Byte)
  deriving DecidableEq, Repr

/-- A queued frame (R102). -/
structure QueuedFrame where
  content : FrameContent
  attempts : Nat
  sequence : Option Byte
  onLine : Bool
  /-- marked for withdrawal while on the line (R104) -/
  withdrawn : Bool
  deriving DecidableEq, Repr

/-- The receiver states of R99. -/
inductive RxState where
  | hunt | frame | check | pass
  deriving DecidableEq, Repr

/-- The transmitter states of R105. -/
inductive TxState where
  | quiet | starting | ready | gap | sending
  deriving DecidableEq, Repr

/-- The floor line interface (R99–R107). -/
structure FloorLine where
  rx : RxState
  tx : TxState
  /-- the idle count, in bit times -/
  idle : Nat
  /-- µs into the present bit time -/
  idleSub : Nat
  /-- the bytes of the frame that the receiver is taking, after its sync byte (R99) -/
  taken : List Byte
  /-- µs left of another station's byte on the line -/
  byteLeft : Option Nat
  /-- the byte on the line began after an idle of more than 15 bit times, or is the first one seen (R99) -/
  began : Bool
  /-- no byte has been seen since reset (R99) -/
  unseen : Bool
  counter : Byte
  queue : List QueuedFrame
  /-- the presence timer, in µs left; absent when stopped -/
  presenceLeft : Option Nat
  /-- the bytes of the attempt in progress -/
  sending : List Byte
  /-- µs left of the attempt in progress -/
  sendLeft : Option Nat
  accepted : Nat
  broken : Nat
  checkErrors : Nat
  invalid : Nat
  sent : Nat
  collisions : Nat
  drops : Nat
  overruns : Nat
  deriving DecidableEq, Repr

/-- The floor line interface after reset. -/
def FloorLine.reset : FloorLine where
  rx := .hunt
  tx := .quiet
  idle := 0
  idleSub := 0
  taken := []
  byteLeft := none
  began := false
  unseen := true
  counter := 0
  queue := []
  presenceLeft := none
  sending := []
  sendLeft := none
  accepted := 0
  broken := 0
  checkErrors := 0
  invalid := 0
  sent := 0
  collisions := 0
  drops := 0
  overruns := 0

/-- A peer entry (Table 6-6). `age` is the time since its last frame, in µs. -/
structure Peer where
  station : Station
  roles : Byte
  permit : Byte
  causes : BitVec 24
  coil : BitVec 32
  pace : Option PacePart
  halt : Option HaltPart
  sequence : Byte
  heard : Bool
  age : Nat
  deriving DecidableEq, Repr

/-! ### Protection (chapter 7) -/

/-- An entry of the halt table (R130). -/
structure HaltEntry where
  station : Station
  cause : Byte
  serial : Byte
  length : Option (BitVec 32)
  /-- set by HALT (yes) or by PRESENCE (no) -/
  byHalt : Bool
  deriving DecidableEq, Repr

/-- Where the node's own halt stands toward the line (R127). -/
inductive Episode where
  | quiet | standing | closing
  deriving DecidableEq, Repr

/-- The decided ALARM patterns of R114. -/
inductive AlarmPattern where
  | dark | steady | flashing
  deriving DecidableEq, Repr

/-- The ALARM lamp: its decided pattern, its level and the time to its next change (R114). -/
structure Lamp where
  pattern : AlarmPattern
  lit : Bool
  flashLeft : Option Nat
  deriving DecidableEq, Repr

/-- The protection record (Table 7-1). RUN and BRAKE follow the permit state (R113) and are not stored. -/
structure Protection where
  permit : Permit
  causes : List Cause
  table : List HaltEntry
  serial : Nat
  episode : Episode
  latest : Option Cause
  sentSerial : Option Nat
  outstanding : Nat
  eligible : Bool
  /-- the halt timer, in µs left; absent when stopped -/
  haltLeft : Option Nat
  coilHold : Bool
  /-- the supply state is WARNING -/
  supplyWarning : Bool
  /-- the refusal blink, in µs left; absent when inactive -/
  blinkLeft : Option Nat
  lamp : Lamp
  deriving DecidableEq, Repr

/-- The protection record after reset. -/
def Protection.reset : Protection where
  permit := .unset
  causes := []
  table := []
  serial := 0
  episode := .quiet
  latest := none
  sentSerial := none
  outstanding := 0
  eligible := false
  haltLeft := none
  coilHold := false
  supplyWarning := false
  blinkLeft := none
  lamp := { pattern := .dark, lit := false, flashLeft := none }

/-! ### Coil building (chapter 8) -/

/-- Where a record stands (Table 8-2). -/
inductive RecordState where
  | opened | ending | cutting | ended | gathering | sealing | held
  deriving DecidableEq, Repr

/-- Why a coil ended (Table 8-2). -/
inductive EndReason where
  | target | manual | supply
  deriving DecidableEq, Repr

/-- An entry of the halt list: a cause code, or 0x20 for a SPLICE-NOTE (Table 10-9). -/
structure HaltNote where
  code : Byte
  station : Station
  offset : Nat
  stopped : Bool
  deriving DecidableEq, Repr

/-- The statuses of a contributor (R137). -/
inductive ContributorStatus where
  | expected | received | missing
  deriving DecidableEq, Repr

/-- A contributor entry (R137). -/
structure Contributor where
  station : Station
  listed : Bool
  status : ContributorStatus
  halts : Nat
  flags : ArithFlags
  origin : Byte
  deriving DecidableEq, Repr

/-- The merged twist part of a record, with the sum of lay and lay windows kept for the mean (R151). -/
structure TwistMerge where
  windows : Nat
  outOfBand : Nat
  stalled : Nat
  layFaults : Nat
  minLay : Option Nat
  maxLay : Option Nat
  sumLay : Nat
  layWindows : Nat
  deriving DecidableEq, Repr

/-- A coil record (Table 8-2). -/
structure CoilRecord where
  state : RecordState
  heldBack : Bool
  station : Station
  group : Nat
  /-- the unit kind is NET -/
  net : Bool
  coil : Nat
  startLength : Nat
  startMicrometres : Int
  target : Nat
  anchor : Option Nat
  endReason : Option EndReason
  cutDriven : Bool
  segment : Option Nat
  halts : List HaltNote
  haltCount : Nat
  splices : List Nat
  spliceCount : Nat
  ownHalts : Nat
  lateCount : Nat
  twist : Option TwistMerge
  knot : Option KnotCounts
  contributors : List Contributor
  flags : ArithFlags
  /-- the twist monitor has been asked for its statistics and has not answered (R144) -/
  awaitTwist : Bool
  /-- the knot monitor has been asked for its counts and has not answered (R144) -/
  awaitKnot : Bool
  deriving DecidableEq, Repr

/-- The segment tally of a node without COIL (Table 8-3). -/
structure SegmentTally where
  begun : Bool
  startLength : Int
  halts : Nat
  lastCoil : BitVec 32
  lastSegment : Nat
  deriving DecidableEq, Repr

/-- A TALLY that is formed and waits for the parts asked of the monitors (R148 step 3). -/
structure FormingTally where
  destination : Station
  tally : Tally
  needTwist : Bool
  needKnot : Bool
  deriving DecidableEq, Repr

/-- The coil builder (Table 8-1). `next` is absent for EXHAUSTED. -/
structure CoilBuilder where
  openSlot : Option CoilRecord
  closingSlot : Option CoilRecord
  heldSlot : Option CoilRecord
  next : Option Nat
  pendingTarget : Nat
  /-- the rest timer, in µs left; absent when stopped -/
  restLeft : Option Nat
  /-- the cut timer, in µs left; absent when stopped -/
  cutLeft : Option Nat
  tally : SegmentTally
  forming : List FormingTally
  deriving DecidableEq, Repr

/-- The coil builder after reset, before the scan gives the next coil number and the settings the target. -/
def CoilBuilder.reset : CoilBuilder where
  openSlot := none
  closingSlot := none
  heldSlot := none
  next := some 1
  pendingTarget := 0
  restLeft := none
  cutLeft := none
  tally := { begun := false, startLength := 0, halts := 0, lastCoil := 0, lastSegment := 0 }
  forming := []

/-! ### Record store (chapter 9) -/

/-- The 64 KiB non-volatile memory: address and byte pairs in rising order, none of them 0xFF, which is what every address
that is not listed reads as (an erased byte; log entry 2). -/
abbrev Memory := List Host.Cell

/-- The sector classes of Table 9-2. -/
inductive SectorClass where
  | erased | openOnly | sealed | lost | void | damaged
  deriving DecidableEq, Repr

/-- An entry of the sector table (Table 9-1). -/
structure SectorEntry where
  cls : SectorClass
  station : Station
  coil : Nat
  collected : Bool
  deriving DecidableEq, Repr

/-- The entry of an erased sector. -/
def SectorEntry.blank : SectorEntry where
  cls := .erased
  station := 0
  coil := 0
  collected := false

/-- The operations of Table 9-3 and the settings commit of R183, with what each was handed. -/
inductive StoreOp where
  | programHeader (coil : Nat) (image : List Byte)
  | keep (coil : Nat)
  | markCollected (upTo : Nat) (source : Station)
  | eraseBank (bank : Nat) (source : Station)
  | checkRange (first last : Nat) (source : Station)
  | readRecord (coil : Nat) (parts : Byte) (source : Station)
  | lostRecord (sector : Nat)
  | commit (image : List Byte) (source : Station)
  deriving DecidableEq, Repr

/-- A step of an operation (R160, R163 to R165, Table 9-3). -/
inductive StoreStep where
  /-- the whole of an operation that neither programs a sector nor searches for one -/
  | work
  /-- a search found no sector, and nothing is programmed -/
  | nothing
  /-- a bank is erased; `judged` banks of a search have been judged, this one among them -/
  | erase (bank judged : Nat)
  /-- bytes are programmed in a sector -/
  | program (sector : Nat)
  /-- the VOID-MARK of a failed sector -/
  | void (sector : Nat)
  deriving DecidableEq, Repr

/-- The operation in flight: its present step, whether a keep is in its retry (R164), and the µs left of the step. -/
structure InFlight where
  op : StoreOp
  step : StoreStep
  retry : Bool
  left : Nat
  deriving DecidableEq, Repr

/-- The states of the key (R166). -/
inductive KeyState where
  | locked | half | opened | frozen
  deriving DecidableEq, Repr

/-- The record store (Table 9-1). The first four of `waiting` are the queue, the rest the internal waiting list (R159). -/
structure Store where
  full : Bool
  fault : Bool
  /-- the store mode is WRAP -/
  wrap : Bool
  pointer : Nat
  inFlight : Option InFlight
  waiting : List StoreOp
  key : KeyState
  keyStation : Option Station
  /-- entry i is ring sector 16 + i -/
  table : List SectorEntry
  addressErrors : Nat
  dataErrors : Nat
  /-- OPEN-ONLY sectors that the start-up scan has still to complete after the one in flight (R172) -/
  scanLeft : List Nat
  deriving DecidableEq, Repr

/-- The record store after a start-up scan of an erased memory (R171, R172). -/
def Store.reset : Store where
  full := false
  fault := false
  wrap := false
  pointer := 16
  inFlight := none
  waiting := []
  key := .locked
  keyStation := none
  table := List.replicate 240 .blank
  addressErrors := 0
  dataErrors := 0
  scanLeft := []

/-! ### The whole node -/

/-- The state of the node. -/
structure State where
  /-- commands that wait, first in, first out -/
  pending : List Instr
  /-- events that a step has given to a block and that no step has taken yet, in the order given (log entry 1) -/
  due : List Instr
  pins : Pins
  startRec : StartRecord
  settings : Settings
  channels : Vector Channel 8
  meter : Metering
  twist : Twist
  sampler : Sampler
  knot : Knot
  line : FloorLine
  peers : List Peer
  prot : Protection
  coil : CoilBuilder
  store : Store
  memory : Memory
  /-- what comes from outside as time passes (log entry 39) -/
  world : Surroundings
  deriving DecidableEq, Repr

/-- The pins at power-on: every line low, the BREAK chain closed, the supply at 24 V (log entry 4). -/
def Pins.reset : Pins where
  encA := (false, false)
  encB := (false, false)
  readA := (false, false)
  readB := (false, false)
  phase := 0
  ks := 0
  ai := Vector.replicate 8 0
  breakOpen := false
  sp := 0
  spTaken := 0
  supply := 24000
  supplyLow := 0
  supplyHigh := 0

/-- The staged image after reset: every byte 0xFF, no part marked (R183). -/
def StartRecord.reset : StartRecord where
  station := 0
  commission := false
  settingsValid := false
  started := false
  staged := List.replicate 256 0xFF
  stagedParts := 0

/-- The node right after reset with an erased store and no strap fitted (R181; log entries 2, 4 and 9): every block at its reset
values, sector 0 found invalid, the start-up scan over with nothing to complete, the start event due. -/
def State.reset : State where
  pending := []
  due := [.startEvent]
  pins := .reset
  startRec := .reset
  settings := .blank
  channels := Vector.replicate 8 .reset
  meter := .reset
  twist := .reset
  sampler := .reset
  knot := .reset
  line := .reset
  peers := []
  prot := .reset
  coil := .reset
  store := .reset
  memory := []
  world := .still

end Sys2Proof.Machine
end

