-- ==== Sys2Proof/Machine/Operands.lean ====
section
/-! DEFINITION. The forms that values take in frames, sectors and STATUS pages: byte order (0.4), the check of R98, the code
tables of chapters 6, 7, 9 and 10, and the classes of the causes (Table 7-3). -/

namespace Sys2Proof

/-! ### Codes and classes of the commands' own types -/

/-- The seventeen causes in code order. -/
def Cause.all : List Cause :=
  [.operator, .breakChain, .tension, .strand, .lay, .knot, .mesh, .phase, .slip, .drift, .arith, .coilEnd, .cutter,
    .paceLost, .supply, .lineFailed, .store]

/-- The code of a cause. -/
def Cause.code : Cause → Nat
  | .operator => 1
  | .breakChain => 2
  | .tension => 3
  | .strand => 4
  | .lay => 5
  | .knot => 6
  | .mesh => 7
  | .phase => 8
  | .slip => 9
  | .drift => 10
  | .arith => 11
  | .coilEnd => 12
  | .cutter => 13
  | .paceLost => 14
  | .supply => 15
  | .lineFailed => 16
  | .store => 17

/-- Whether a cause is latching; the others are recovering. -/
def Cause.latching : Cause → Bool
  | .coilEnd => false
  | .paceLost => false
  | .supply => false
  | _ => true

/-- Causes 1 to 13 are group-wide: their raising is told to the line by HALT (7.3). -/
def Cause.groupWide (c : Cause) : Bool := c.code ≤ 13

/-- A cause as a byte of a frame or record. -/
def Cause.byte (c : Cause) : Byte := BitVec.ofNat 8 c.code

/-- The origin codes of Table 10-8. -/
def Origin.code : Origin → Nat
  | .none => 0
  | .meterA => 1
  | .meterB => 2
  | .speed => 3
  | .slip => 4
  | .drift => 5
  | .lay n => 6 + n.val
  | .follow => 10
  | .mesh => 11
  | .convert => 12

/-- The permit state codes of R176. -/
def Permit.code : Permit → Nat
  | .unset => 0
  | .standby => 1
  | .running => 2
  | .halting => 3
  | .halted => 4

/-- The mark kind codes of Table 10-6. -/
def MarkKind.code : MarkKind → Nat
  | .cut => 1
  | .splice => 2

/-- The µs of one tick of a channel; input edges are no time (Table 1-1). -/
def TickUnit.micros : TickUnit → Option Nat
  | .us1 => some 1
  | .us10 => some 10
  | .us100 => some 100
  | .ms1 => some 1000
  | .edges => none

end Sys2Proof

namespace Sys2Proof.Machine

/-! ### Byte order -/

/-- `n` in `k` bytes, most significant first (0.4, Multi-byte fields). -/
def bytesBE : Nat → Nat → List Byte
  | 0, _ => []
  | k + 1, n => BitVec.ofNat 8 (n / 256 ^ k) :: bytesBE k n

/-- The number that bytes carry, most significant first. -/
def natBE (bytes : List Byte) : Nat := bytes.foldl (fun n b => n * 256 + b.toNat) 0

/-- A signed value in `k` bytes of two's complement (0.4). -/
def intBE (k : Nat) (x : Int) : List Byte := bytesBE k (x % (256 ^ k : Nat)).toNat

/-- A yes or no in one byte (R176). -/
def boolByte (b : Bool) : Byte := if b then 1 else 0

/-- An absent value whose range holds no 0 (R176). -/
def optZero (k : Nat) (v : Option Nat) : List Byte := bytesBE k (v.getD 0)

/-- An absent value whose range holds 0: every bit set (R176). -/
def optOnes (k : Nat) (v : Option Nat) : List Byte :=
  match v with
  | some n => bytesBE k n
  | none => List.replicate k 0xFF

/-- A timer's remaining time in whole ms from its µs (log entry 3). -/
def msLeft (t : Option Nat) : Option Nat := t.map (fun us => (us + 999) / 1000)

/-! ### The frame check (R98) -/

/-- One data bit: shift, and combine with 0x8005 if the bit that leaves differs from the data bit. -/
def crcBit (reg : BitVec 16) (bit : Bool) : BitVec 16 :=
  if reg.msb != bit then (reg <<< 1) ^^^ 0x8005 else reg <<< 1

/-- One byte, most significant bit first. -/
def crcByte (reg : BitVec 16) (b : Byte) : BitVec 16 :=
  [7, 6, 5, 4, 3, 2, 1, 0].foldl (fun r i => crcBit r (b.getLsbD i)) reg

/-- The CRC of R98 over bytes, from a register value. -/
def crcFrom (reg : BitVec 16) (bytes : List Byte) : BitVec 16 := bytes.foldl crcByte reg

/-- The CRC of R98 from 0xFFFF. -/
def crc (bytes : List Byte) : BitVec 16 := crcFrom 0xFFFF bytes

/-- A check as two bytes, the high byte first. -/
def crcBytes (c : BitVec 16) : List Byte := bytesBE 2 c.toNat

/-! ### Causes (Table 7-3) -/

/-- A set of causes as a bit set, cause c at bit c − 1 (R176). -/
def causeSet (causes : List Cause) : BitVec 24 :=
  causes.foldl (fun m c => m ||| ((1 : BitVec 24) <<< (c.code - 1))) 0

/-- A cause joined to a set, which is kept in code order. -/
def addCause (c : Cause) (causes : List Cause) : List Cause :=
  Cause.all.filter (fun d => d == c || causes.contains d)

/-- A cause taken out of a set. -/
def dropCause (c : Cause) (causes : List Cause) : List Cause := causes.filter (fun d => d != c)

/-! ### Codes of named values -/

/-- The flags as bits 3–0 of a TALLY's byte 5 (Table 10-7). -/
def flagNibble (f : ArithFlags) : Nat :=
  (if f.ovf then 8 else 0) + (if f.unf then 4 else 0) + (if f.dvz then 2 else 0) + (if f.rng then 1 else 0)

/-- The flags that bits 3–0 of a TALLY's byte 5 carry (Table 10-7). -/
def flagsOfByte (b : Byte) : ArithFlags :=
  { ovf := b.getLsbD 3, unf := b.getLsbD 2, dvz := b.getLsbD 1, rng := b.getLsbD 0 }

/-- A channel mode in the order of Table 1-1, OFF first (R176). -/
def modeCode : Option RunMode → Nat
  | none => 0
  | some .interval => 1
  | some .count => 2
  | some .period => 3
  | some .width => 4
  | some .delay => 5
  | some .pulse => 6

/-- A channel state in the order of Table 1-2. -/
def ChannelState.code : ChannelState → Nat
  | .idle => 0
  | .armed => 1
  | .running => 2
  | .driving => 3

/-- A lay class in the order of Table 3-1. -/
def LayClass.code : LayClass → Nat
  | .none => 0
  | .within => 1
  | .below => 2
  | .above => 3
  | .stalled => 4

/-- A source condition in the order of R54. -/
def PaceCondition.code : PaceCondition → Nat
  | .tracking => 0
  | .holding => 1
  | .lost => 2

/-- A scan mode in the order of Table 4-2. -/
def ScanMode.code : ScanMode → Nat
  | .off => 0
  | .low => 1
  | .high => 2
  | .band => 3

/-- A sector in the order of Table 5-3. -/
def Sector.code : Sector → Nat
  | .s0 => 0
  | .s1 => 1
  | .s2 => 2
  | .s3 => 3
  | .s4 => 4
  | .s5 => 5

/-- A row outcome in the order of Table 5-2. -/
def RowOutcome.code : RowOutcome → Nat
  | .none => 0
  | .seen => 1
  | .short => 2
  | .unseen => 3

/-- A window state in the order of Table 5-2. -/
def WindowState.code : WindowState → Nat
  | .idle => 0
  | .pending => 1
  | .opened => 2
  | .closed => 3

/-- A mesh window state in the order of Table 5-2. -/
def MeshState.code : MeshState → Nat
  | .idle => 0
  | .waiting => 1
  | .opened => 2

/-- A transmitter state in the order of R105. -/
def TxState.code : TxState → Nat
  | .quiet => 0
  | .starting => 1
  | .ready => 2
  | .gap => 3
  | .sending => 4

/-- An episode in the order of Table 7-1. -/
def Episode.code : Episode → Nat
  | .quiet => 0
  | .standing => 1
  | .closing => 2

/-- The ALARM pattern codes of R176, before the refusal blink's 3. -/
def AlarmPattern.code : AlarmPattern → Nat
  | .dark => 0
  | .steady => 1
  | .flashing => 2

/-- A record state in the order of Table 8-2. -/
def RecordState.code : RecordState → Nat
  | .opened => 0
  | .ending => 1
  | .cutting => 2
  | .ended => 3
  | .gathering => 4
  | .sealing => 5
  | .held => 6

/-- The coil states of Table 0-3, coded 0 to 5: NONE, OPEN, ENDING, CUTTING, ENDED, SEALING. GATHERING and HELD records never
stand in the OPEN slot. -/
def coilStateCode : Option CoilRecord → Nat
  | none => 0
  | some r =>
    match r.state with
    | .opened => 1
    | .ending => 2
    | .cutting => 3
    | .ended => 4
    | .gathering => 4
    | .sealing => 5
    | .held => 5

/-- An end reason code of Table 10-9, 0 while absent (R176). -/
def endReasonCode : Option EndReason → Nat
  | none => 0
  | some .target => 1
  | some .manual => 2
  | some .supply => 3

/-- A contributor status code of Table 10-9. -/
def ContributorStatus.code : ContributorStatus → Nat
  | .expected => 0
  | .received => 1
  | .missing => 2

/-- A store operation code of R176. -/
def StoreOp.code : StoreOp → Nat
  | .programHeader _ _ => 0
  | .keep _ => 1
  | .markCollected _ _ => 3
  | .eraseBank _ _ => 4
  | .checkRange _ _ _ => 5
  | .readRecord _ _ _ => 6
  | .lostRecord _ => 7
  | .commit _ _ => 8

/-- The key state codes of R177. -/
def KeyState.code : KeyState → Nat
  | .locked => 0
  | .half => 1
  | .opened => 2
  | .frozen => 3

/-- The results of Table 10-1. -/
inductive Result where
  | done | busy | locked | frozen | state | bad | absent | damaged
  deriving DecidableEq, Repr

/-- The result codes of Table 10-1. -/
def Result.byte : Result → Byte
  | .done => 0
  | .busy => 1
  | .locked => 2
  | .frozen => 3
  | .state => 4
  | .bad => 5
  | .absent => 6
  | .damaged => 7

/-- The kind codes of the service kinds (Table 10-3). -/
def ServiceKind.code : ServiceKind → Nat
  | .query => 6
  | .recall => 7
  | .collected => 8
  | .key => 9
  | .erase => 10
  | .check => 11
  | .setting => 12
  | .target => 13
  | .clearflags => 14

end Sys2Proof.Machine
end

