-- ==== Sys2Proof/Machine/Flags.lean ====
section
/-! DEFINITION. The arithmetic status (R35 to R37): the four sticky flags, their summary ANY, the origin of the first flag,
setting one, merging and clearing them. The model sets a flag in the event whose computation asks for it (log entry 6). -/

namespace Sys2Proof

/-- ANY (Table 2-7). -/
def ArithFlags.any (f : ArithFlags) : Bool := f.ovf || f.unf || f.dvz || f.rng

/-- The flags with one more set. -/
def ArithFlags.set (f : ArithFlags) (flag : ArithFlag) : ArithFlags :=
  match flag with
  | .ovf => { f with ovf := true }
  | .unf => { f with unf := true }
  | .dvz => { f with dvz := true }
  | .rng => { f with rng := true }

/-- The flags set in either (combined flags, R151). -/
def ArithFlags.union (f g : ArithFlags) : ArithFlags :=
  { ovf := f.ovf || g.ovf, unf := f.unf || g.unf, dvz := f.dvz || g.dvz, rng := f.rng || g.rng }

end Sys2Proof

namespace Sys2Proof.Machine

/-- Events given to blocks, to be taken later in the order given (log entry 1). -/
def State.emit (s : State) (events : List Instr) : State := { s with due := s.due ++ events }

/-- An event that is being taken is no longer due (log entry 1). -/
def State.take (s : State) (event : Instr) : State := { s with due := s.due.erase event }

/-- As `take`, for an event recognised by its kind alone. -/
def State.takeLike (s : State) (p : Instr → Bool) : State := { s with due := s.due.eraseP p }

/-- The node has left UNSET: its jobs have begun (R181). -/
def State.begun (s : State) : Bool := s.prot.permit != .unset

/-- A request to set a flag (R35), with the escalation of R37. -/
def setFlag (flag : ArithFlag) (origin : Origin) (s : State) : State :=
  let fresh := !s.meter.flags.any
  let s1 := { s with meter := { s.meter with
    flags := s.meter.flags.set flag
    origin := if fresh then origin else s.meter.origin } }
  if fresh && s.settings.arithEscalate then s1.emit [.raiseCause .arith] else s1

/-- The status cleared (R36). -/
def clearStatus (s : State) : State :=
  { s with meter := { s.meter with flags := clearFlags, origin := .none } }

end Sys2Proof.Machine
end

