-- ==== Sys2Proof/Machine/Ops.lean ====
section
/-! DEFINITION. The shared operations that the blocks' steps are written with: the store's memory (R158, R163, R165), the
roles in force, the line length and its conversion (R25, R29, R30), and the timers of the node's one time base. -/

namespace Sys2Proof.Machine

/-! ### The store's memory -/

/-- What an erased byte reads (R158), and so what an address that is not listed reads. -/
def erasedByte : Byte := 0xFF

/-- The byte at an address. -/
def Memory.read : Memory → Nat → Byte
  | [], _ => erasedByte
  | (a, b) :: m, x => if a = x then b else Memory.read m x

/-- The memory with a byte stored at an address, in canonical form. -/
def Memory.write : Memory → Nat → Byte → Memory
  | [], x, v => if v = erasedByte then [] else [(x, v)]
  | (a, b) :: m, x, v =>
    if x < a then (if v = erasedByte then (a, b) :: m else (x, v) :: (a, b) :: m)
    else if x = a then (if v = erasedByte then m else (x, v) :: m)
    else (a, b) :: Memory.write m x v

/-- The canonical form: addresses strictly rising, no entry that reads as an erased byte. -/
abbrev Memory.wf (m : Memory) : Prop :=
  m.Pairwise (fun c d => c.1 < d.1) ∧ ∀ c ∈ m, c.2 ≠ erasedByte

/-- `n` bytes from an address up. -/
def Memory.readRange (m : Memory) : Nat → Nat → List Byte
  | _, 0 => []
  | a, n + 1 => Memory.read m a :: Memory.readRange m (a + 1) n

/-- The value that a step's write leaves at an address: programming turns bits from 1 to 0 only (R158), and a worn byte takes
another value than the one written. -/
def burnt (wear : Wear) (old : Byte) (a : Nat) (v : Byte) : Byte :=
  match wear.lookup a with
  | some w => old &&& w
  | none => old &&& v

/-- One byte programmed. -/
def Memory.burn (m : Memory) (wear : Wear) (a : Nat) (v : Byte) : Memory :=
  m.write a (burnt wear (m.read a) a v)

/-- Bytes programmed in ascending order (R158). -/
def Memory.burnAll (m : Memory) (wear : Wear) : Nat → List Byte → Memory
  | _, [] => m
  | a, v :: vs => Memory.burnAll (m.burn wear a v) wear (a + 1) vs

/-- How a program step ends (R163). -/
inductive StepResult where
  | good | addressError | dataError
  deriving DecidableEq, Repr

/-- A program step (R163): nothing is written unless every byte reads erased, and every byte is read back. -/
def Memory.program (m : Memory) (wear : Wear) (a : Nat) (bytes : List Byte) : Memory × StepResult :=
  if (m.readRange a bytes.length).all (· == erasedByte) then
    let m1 := m.burnAll wear a bytes
    (m1, if m1.readRange a bytes.length = bytes then .good else .dataError)
  else (m, .addressError)

/-- The memory without the bytes from `lo` up to, not including, `hi`: all of them then read erased. -/
def Memory.clearRange (m : Memory) (lo hi : Nat) : Memory :=
  m.filter (fun c => c.1 < lo || hi ≤ c.1)

/-- A bank erase (R165): every byte set to 0xFF, but for the bytes that do not take it. -/
def Memory.eraseBank (m : Memory) (wear : Wear) (bank : Nat) : Memory :=
  (wear.filter (fun c => bank * 4096 ≤ c.1 && c.1 < bank * 4096 + 4096)).foldl (fun m c => m.write c.1 c.2)
    (m.clearRange (bank * 4096) (bank * 4096 + 4096))

/-- The first address of a sector. -/
def sectorBase (p : Nat) : Nat := p * 256

/-- Whether all 256 bytes of a sector read 0xFF. -/
def Memory.sectorErased (m : Memory) (p : Nat) : Bool :=
  m.all (fun c => c.1 < sectorBase p || sectorBase p + 256 ≤ c.1 || c.2 == erasedByte)

/-! ### Roles -/

/-- The roles with TWIST on a node that has left UNSET. -/
def State.twistNode (s : State) : Bool := s.begun && s.settings.twist

/-- The roles with KNOT on a node that has left UNSET. -/
def State.knotNode (s : State) : Bool := s.begun && s.settings.knot

/-- The roles with COIL on a node that has left UNSET. -/
def State.coilNode (s : State) : Bool := s.begun && s.settings.coil

/-- The station number of the straps. -/
def State.station (s : State) : Station := s.startRec.station

/-! ### Line length -/

/-- The line length (R25): encoder A's where A is enabled, else encoder B's. -/
def State.lineLength (s : State) : Int :=
  if s.settings.encA.enabled then s.meter.encA.length else s.meter.encB.length

/-- A length or a difference of lengths in µm as mm (R29, R30): truncated, and 0 where it is negative (log entry 20). -/
def mmOf (micrometres : Int) : Nat := micrometres.toNat / 1000

/-- The flag that a conversion sets (R29, R30). -/
def convertFlag (micrometres : Int) (s : State) : State :=
  if micrometres < 0 then setFlag .rng .convert s else s

/-- A length of 4 bytes in mm. -/
def mmField (micrometres : Int) : BitVec 32 := BitVec.ofNat 32 (mmOf micrometres)

/-! ### Channels as records -/

/-- A channel's record. -/
def State.channel (s : State) (i : Fin 8) : Channel := s.channels[i]

/-- The node with a channel's record replaced. -/
def State.setChannel (s : State) (i : Fin 8) (c : Channel) : State := { s with channels := s.channels.set i c }

/-- The node with its pins replaced. -/
def State.withPins (s : State) (p : Pins) : State := { s with pins := p }

/-! ### Timers -/

/-- A timer of `n` ms, in µs (log entry 3). -/
def ofMs (n : Nat) : Nat := n * 1000

/-- A timer one µs on, and whether it expires (log entry 3). A timer at 0 stays expired until its event is taken. -/
def timerTick : Option Nat → Option Nat × Bool
  | none => (none, false)
  | some 0 => (some 0, true)
  | some (n + 1) => (some n, n == 0)

end Sys2Proof.Machine
end

