-- ==== Sys2Proof/Machine/Layout.lean ====
section
/-! DEFINITION. The byte layouts of chapter 10: frame headers and payloads (Tables 10-3 to 10-8), the coil record sector
(Table 10-9) and the settings sector with its validity (Table 10-10, R182). -/

namespace Sys2Proof.Machine

/-! ### Frame payloads -/

/-- The twist part of a TALLY or a record (Table 10-7): an absent lay is 0 (Table 3-6, note). -/
def twistPartBytes (t : TwistTotals) : List Byte :=
  bytesBE 4 t.windows ++ bytesBE 4 t.outOfBand ++ bytesBE 4 t.stalled ++ bytesBE 4 t.layFaults ++
    optZero 3 t.minLay ++ optZero 3 t.maxLay ++ optZero 3 t.meanLay

/-- The knot part of a TALLY or a record (Table 10-7), and the counts of Table 5-6 in order. -/
def knotPartBytes (k : KnotCounts) : List Byte :=
  bytesBE 4 k.sampledRows ++ bytesBE 4 k.unseenRows ++ bytesBE 4 k.inchRows ++ bytesBE 4 k.missedKnots ++
    bytesBE 4 k.headFaults ++ bytesBE 4 k.meshWindows ++ bytesBE 4 k.meshOutOfBand ++ bytesBE 4 k.meshFaults

/-- A TALLY payload (Table 10-7). -/
def tallyPayload (t : Tally) : List Byte :=
  let parts := (if t.twist.isSome then 128 else 0) + (if t.knot.isSome then 64 else 0)
  bytesBE 4 t.coil.toNat ++ [t.halts, BitVec.ofNat 8 (parts + flagNibble t.flags), t.origin] ++
    (t.twist.map twistPartBytes).getD [] ++ (t.knot.map knotPartBytes).getD []

/-- A lay or mesh of 3 bytes, 0 for absent. -/
def lay3 (bytes : List Byte) : Option Nat := if natBE bytes = 0 then none else some (natBE bytes)

/-- The twist part that 25 bytes carry (Table 10-7). -/
def twistPartOf (b : List Byte) : TwistTotals :=
  { windows := natBE (b.take 4), outOfBand := natBE ((b.drop 4).take 4), stalled := natBE ((b.drop 8).take 4),
    layFaults := natBE ((b.drop 12).take 4), minLay := lay3 ((b.drop 16).take 3), maxLay := lay3 ((b.drop 19).take 3),
    meanLay := lay3 ((b.drop 22).take 3) }

/-- The knot part that 32 bytes carry (Table 10-7). -/
def knotPartOf (b : List Byte) : KnotCounts :=
  { sampledRows := natBE (b.take 4), unseenRows := natBE ((b.drop 4).take 4), inchRows := natBE ((b.drop 8).take 4),
    missedKnots := natBE ((b.drop 12).take 4), headFaults := natBE ((b.drop 16).take 4),
    meshWindows := natBE ((b.drop 20).take 4), meshOutOfBand := natBE ((b.drop 24).take 4),
    meshFaults := natBE ((b.drop 28).take 4) }

/-- The byte at a place of a payload, 0 past its end. -/
def byteAt (b : List Byte) (i : Nat) : Byte := b.getD i 0

/-- A field of 4 bytes at a place of a payload. -/
def wordAt (b : List Byte) (i : Nat) : BitVec 32 := BitVec.ofNat 32 (natBE ((b.drop i).take 4))

/-- A field of 2 bytes at a place of a payload. -/
def halfAt (b : List Byte) (i : Nat) : BitVec 16 := BitVec.ofNat 16 (natBE ((b.drop i).take 2))

/-- The TALLY that a payload carries (Table 10-7). -/
def tallyOf (b : List Byte) : Tally :=
  { coil := wordAt b 0, halts := byteAt b 4, flags := flagsOfByte (byteAt b 5), origin := byteAt b 6,
    twist := if (byteAt b 5).getLsbD 7 then some (twistPartOf (b.drop 7)) else none,
    knot := if (byteAt b 5).getLsbD 6 then some (knotPartOf (b.drop 7)) else none }

/-- The PRESENCE that a payload carries (Table 10-5). -/
def presenceOf (b : List Byte) : PresenceInfo :=
  let b0 := byteAt b 0
  let at_ := if b0.getLsbD 2 then 15 else 9
  { roles := b0 &&& 0xE0, permit := byteAt b 1, causes := BitVec.ofNat 24 (natBE ((b.drop 2).take 3)), coil := wordAt b 5,
    pace := if b0.getLsbD 2 then some { v := halfAt b 9, length := wordAt b 11 } else none,
    halt := if b0.getLsbD 1 then some { serial := byteAt b at_, cause := byteAt b (at_ + 1) } else none }

/-- The length that the part flags of a PRESENCE call for (Table 10-5). -/
def presenceLength (b0 : Byte) : Nat := 9 + (if b0.getLsbD 2 then 6 else 0) + (if b0.getLsbD 1 then 2 else 0)

/-- The length that the part flags of a TALLY call for (Table 10-7); both set is no length (R180). -/
def tallyLength (b5 : Byte) : Option Nat :=
  match b5.getLsbD 7, b5.getLsbD 6 with
  | false, false => some 7
  | true, false => some 32
  | false, true => some 39
  | true, true => none

/-! ### Frame headers (Table 10-4) -/

/-- The kind code of a header. -/
def frameKind (f : RawFrame) : Nat := f.h0.toNat / 16

/-- The reply bit. -/
def frameIsReply (f : RawFrame) : Bool := f.h0.getLsbD 3

/-- The group. -/
def frameGroup (f : RawFrame) : Nat := f.h0.toNat % 8

/-- The source station. -/
def frameSource (f : RawFrame) : Station := ⟨f.h1.toNat % 32, Nat.mod_lt _ (by decide)⟩

/-- The destination station. -/
def frameDestination (f : RawFrame) : Station := ⟨f.h2.toNat % 32, Nat.mod_lt _ (by decide)⟩

/-- The bytes that the check of a frame covers (R98): header, length byte and payload. -/
def frameChecked (f : RawFrame) : List Byte :=
  [f.h0, f.h1, f.h2, f.h3, BitVec.ofNat 8 f.payload.length] ++ f.payload

/-- The lengths of Table 10-3 for a kind and reply flag. -/
def lengthAllowed (kind : Nat) (reply : Bool) (n : Nat) : Bool :=
  match kind, reply with
  | 1, false => n == 9 || n == 11 || n == 15 || n == 17
  | 2, false => n == 6
  | 3, false => n == 1
  | 4, false => n == 9
  | 5, false => n == 7 || n == 32 || n == 39
  | 6, false => n == 1
  | 6, true => 2 ≤ n && n ≤ 40
  | 7, false => n == 5
  | 7, true => n == 1 || n == 34
  | 8, false => n == 4
  | 8, true => n == 1 || n == 2
  | 9, false => n == 1
  | 9, true => n == 2
  | 10, false => n == 1
  | 10, true => n == 1
  | 11, false => n == 2
  | 11, true => n == 1 || n == 5
  | 12, false => n == 33 || n == 1
  | 12, true => n == 2
  | 13, false => n == 4
  | 13, true => n == 1
  | 14, false => n == 0
  | 14, true => n == 1
  | _, _ => false

/-- Whether the destination suits the kind (Table 6-2): none for kinds 1 to 4, a station for the others. -/
def destinationSuits (kind : Nat) (destination : Station) : Bool :=
  if kind ≤ 4 then destination == 0 else destination != 0

/-- Whether the payload of a frame suits its kind (R180, last three cases). -/
def payloadSuits (f : RawFrame) : Bool :=
  match frameKind f with
  | 1 => f.payload.length == presenceLength (byteAt f.payload 0)
  | 4 => byteAt f.payload 0 == 1 || byteAt f.payload 0 == 2
  | 5 => tallyLength (byteAt f.payload 5) == some f.payload.length
  | _ => true

/-- Whether a frame is valid (R100 case 4, R180). -/
def frameValid (f : RawFrame) : Bool :=
  (frameKind f) != 0 && (frameKind f) != 15 && f.h1.toNat < 32 && f.h2.toNat < 32 && (frameSource f) != 0 &&
    lengthAllowed (frameKind f) (frameIsReply f) f.payload.length && destinationSuits (frameKind f) (frameDestination f) && payloadSuits f

/-! ### The coil record sector (Table 10-9) -/

/-- The first 16 bytes of a header. -/
def headerFields (r : CoilRecord) : List Byte :=
  [0xA5, BitVec.ofNat 8 r.station.val, BitVec.ofNat 8 r.group, if r.net then 2 else 1] ++ bytesBE 4 r.coil ++
    bytesBE 4 r.startLength ++ bytesBE 4 r.target

/-- The header of a record as it is programmed at the open (R158, R162). -/
def headerBytes (r : CoilRecord) : List Byte :=
  let tail : List Byte := List.replicate 13 0xFF
  headerFields r ++ [0xFF] ++ crcBytes (crc (headerFields r ++ tail)) ++ tail

/-- Bytes padded with 0xFF to a length (unused list entries, 10.4). -/
def padTo (n : Nat) (b : List Byte) : List Byte := b ++ List.replicate (n - b.length) 0xFF

/-- An entry of the halt list. -/
def haltNoteBytes (h : HaltNote) : List Byte :=
  [h.code, BitVec.ofNat 8 h.station.val] ++ bytesBE 4 h.offset ++ [boolByte h.stopped]

/-- An entry of the contributor list. -/
def contributorBytes (c : Contributor) : List Byte :=
  [BitVec.ofNat 8 ((if c.listed then 128 else 0) + c.station.val), BitVec.ofNat 8 (c.status.code * 64 + flagNibble c.flags),
    BitVec.ofNat 8 c.halts, c.origin]

/-- The totals that a merged twist part stands for (R151): the mean is the sum of lay div the lay windows. -/
def TwistMerge.totals (t : TwistMerge) : TwistTotals :=
  { windows := t.windows, outOfBand := t.outOfBand, stalled := t.stalled, layFaults := t.layFaults, minLay := t.minLay,
    maxLay := t.maxLay, meanLay := if t.layWindows = 0 then none else some (t.sumLay / t.layWindows) }

/-- Bytes 32 to 252 of a record's sector. -/
def bodyFields (r : CoilRecord) : List Byte :=
  [BitVec.ofNat 8 (endReasonCode r.endReason),
    BitVec.ofNat 8 ((if r.cutDriven then 128 else 0) + (if r.twist.isSome then 64 else 0) + (if r.knot.isSome then 32 else 0))] ++
    optOnes 4 r.segment ++ bytesBE 2 r.haltCount ++ bytesBE 2 r.spliceCount ++ bytesBE 1 r.ownHalts ++ bytesBE 2 r.lateCount ++
    [BitVec.ofNat 8 (flagNibble r.flags), BitVec.ofNat 8 (r.halts.length * 16 + r.splices.length)] ++
    padTo 56 (r.halts.flatMap haltNoteBytes) ++ padTo 32 (r.splices.flatMap (bytesBE 4)) ++
    ((r.twist.map (fun t => twistPartBytes t.totals)).getD (List.replicate 25 0)) ++
    ((r.knot.map knotPartBytes).getD (List.replicate 32 0)) ++
    [BitVec.ofNat 8 r.contributors.length] ++ padTo 60 (r.contributors.flatMap contributorBytes)

/-- The seal markers of Table 10-9. -/
def sealedMarker : Byte := 0x5C

/-- The LOST marker. -/
def lostMarker : Byte := 0x3A

/-- The VOID marker: no bit set, so that it can be programmed over any other (R158). -/
def voidMarker : Byte := 0x00

/-- The body of a record as a seal programs it: fields, body check and the SEALED marker last (R158). -/
def bodyBytes (r : CoilRecord) : List Byte := bodyFields r ++ crcBytes (crc (bodyFields r)) ++ [sealedMarker]

/-- The whole sector of a record. -/
def recordBytes (r : CoilRecord) : List Byte := headerBytes r ++ bodyBytes r

/-- Bytes 32 to 252 of the LOST body that the start-up scan writes (R172, 10.4 note): end reason 4, no segment, empty lists,
absent parts, clear flags, no contributor. -/
def lostFields : List Byte :=
  [4, 0] ++ bytesBE 4 0 ++ bytesBE 2 0 ++ bytesBE 2 0 ++ [0] ++ bytesBE 2 0 ++ [0, 0] ++ padTo 56 [] ++ padTo 32 [] ++
    List.replicate 25 0 ++ List.replicate 32 0 ++ [0] ++ padTo 60 []

/-- The LOST body with its body check and the LOST marker last. -/
def lostBytes : List Byte := lostFields ++ crcBytes (crc lostFields) ++ [lostMarker]

/-- Whether a header in the memory is valid (R158). -/
def headerValid (m : Memory) (p : Nat) : Bool :=
  let h := m.readRange (sectorBase p) 32
  byteAt h 0 == 0xA5 && crcBytes (crc (h.take 16 ++ h.drop 19)) == (h.drop 17).take 2

/-- Whether a body check in the memory matches (R158, R170). -/
def bodyMatches (m : Memory) (p : Nat) : Bool :=
  crcBytes (crc (m.readRange (sectorBase p + 32) 221)) == m.readRange (sectorBase p + 253) 2

/-- The class that a sector reads as (Table 9-2). -/
def classify (m : Memory) (p : Nat) : SectorClass :=
  if m.sectorErased p then .erased
  else if headerValid m p then
    let marker := m.read (sectorBase p + 255)
    if marker = erasedByte then .openOnly
    else if marker = sealedMarker then .sealed
    else if marker = lostMarker then .lost
    else if marker = voidMarker then .void
    else .damaged
  else .damaged

/-- An entry of a class, with the station, the coil number and the collected field of a sector's header where that is valid
(R171), and blank where it is not. -/
def headedEntry (m : Memory) (p : Nat) (cls : SectorClass) : SectorEntry :=
  if headerValid m p then
    let h := m.readRange (sectorBase p) 32
    { cls := cls, station := ⟨(byteAt h 1).toNat % 32, Nat.mod_lt _ (by decide)⟩, coil := (wordAt h 4).toNat,
      collected := byteAt h 16 == 0 }
  else { SectorEntry.blank with cls := cls }

/-- The entry that the start-up scan gives a sector (R171). -/
def scanEntry (m : Memory) (p : Nat) : SectorEntry := headedEntry m p (classify m p)

/-! ### The settings sector (Table 10-10) -/

/-- A field of `k` bytes at a place of the settings image. -/
def fieldAt (img : List Byte) (i k : Nat) : Nat := natBE ((img.drop i).take k)

/-- An encoder's settings. -/
def encoderOf (img : List Byte) (enableBit : Nat) (i : Nat) : EncoderSettings :=
  { enabled := (byteAt img 6).getLsbD enableBit, invert := (byteAt img 6).getLsbD (enableBit - 1),
    n := fieldAt img i 3, d := fieldAt img (i + 3) 2 }

/-- The settings of spindle n + 1. -/
def spindleOf (img : List Byte) (n : Nat) : SpindleSettings :=
  let i := 24 + 8 * n
  { fitted := (byteAt img 23).getLsbD n, pulses := fieldAt img i 2, turnsPerWindow := fieldAt img (i + 2) 1,
    target := fieldAt img (i + 3) 3, tolerance := fieldAt img (i + 6) 1, runLimit := fieldAt img (i + 7) 1 }

/-- The scan mode of bits 7–6. -/
def scanModeOf (b : Byte) : ScanMode :=
  match b.getLsbD 7, b.getLsbD 6 with
  | false, false => .off
  | false, true => .low
  | true, false => .high
  | true, true => .band

/-- The settings of scan list entry n. -/
def scanSettingsOf (img : List Byte) (n : Nat) : ScanSettings :=
  let i := 81 + 6 * n
  let b := byteAt img (i + 1)
  { input := fieldAt img i 1, mode := scanModeOf b, protect := b.getLsbD 5, blankInTie := b.getLsbD 4,
    filterCount := b.toNat % 16, lowLimit := fieldAt img (i + 2) 2, highLimit := fieldAt img (i + 4) 2 }

/-- The settings that a settings sector holds. -/
def settingsOf (img : List Byte) : Settings :=
  let roles := byteAt img 2
  let options := halfAt img 4
  { group := fieldAt img 1 1
    twist := roles.getLsbD 7
    knot := roles.getLsbD 6
    coil := roles.getLsbD 5
    paceSource := fieldAt img 3 1
    pacePublish := options.getLsbD 15
    driftCheck := options.getLsbD 14
    follow := options.getLsbD 13
    autoResume := options.getLsbD 12
    layEscalate := options.getLsbD 11
    meshEscalate := options.getLsbD 10
    arithEscalate := options.getLsbD 9
    consecutiveStop := options.getLsbD 8
    wrap := options.getLsbD 7
    encA := encoderOf img 7 7
    encB := encoderOf img 5 12
    slipStep := fieldAt img 17 2
    slipLimit := fieldAt img 19 1
    driftLimit := fieldAt img 20 1
    takeUpRatio := fieldAt img 21 2
    spindles := #v[spindleOf img 0, spindleOf img 1, spindleOf img 2, spindleOf img 3]
    stallPeriod := fieldAt img 56 2
    pref := fieldAt img 58 2
    paceHold := fieldAt img 60 2
    fittedHeads := wordAt img 62
    phaseFilter := fieldAt img 66 1
    openDelay := fieldAt img 67 2
    windowSpan := fieldAt img 69 2
    headFilter := fieldAt img 71 1
    suspectThreshold := fieldAt img 72 1
    meshRows := fieldAt img 73 1
    meshTarget := fieldAt img 74 3
    meshTolerance := fieldAt img 77 1
    meshRunLimit := fieldAt img 78 1
    scanPeriod := fieldAt img 79 2
    scan := #v[scanSettingsOf img 0, scanSettingsOf img 1, scanSettingsOf img 2, scanSettingsOf img 3, scanSettingsOf img 4,
      scanSettingsOf img 5, scanSettingsOf img 6, scanSettingsOf img 7]
    haltTimeout := fieldAt img 129 1
    coilTarget := fieldAt img 130 4
    cutDelay := fieldAt img 134 2
    cutPulse := fieldAt img 136 2
    cutDoneTimeout := fieldAt img 138 2
    tallyWait := fieldAt img 140 2 }

/-- A value within a range of Table 11-1. -/
def within (lo hi n : Nat) : Bool := lo ≤ n && n ≤ hi

/-- Table 11-1: encoder N and D, for an enabled encoder. -/
def encoderValid (e : EncoderSettings) : Bool := !e.enabled || (within 1 16777215 e.n && within 1 65535 e.d)

/-- Table 11-1: the settings of a fitted spindle. -/
def spindleValid (p : SpindleSettings) : Bool :=
  !p.fitted || (within 1 4095 p.pulses && within 1 255 p.turnsPerWindow && within 1 16777215 p.target &&
    within 1 250 p.tolerance && within 1 15 p.runLimit)

/-- Tables 11-1 and 11-2: a scan entry that is not OFF. -/
def scanValid (e : ScanSettings) : Bool :=
  e.mode == .off || (e.input ≤ 7 && within 1 15 e.filterCount && e.lowLimit ≤ 4095 && e.highLimit ≤ 4095 &&
    (e.mode != .band || e.lowLimit ≤ e.highLimit))

/-- The mesh tolerance (R94). -/
def meshTol (g : Settings) : Nat := g.meshTarget * g.meshTolerance / 1000

/-- Tables 11-1 and 11-2: the settings of a KNOT node. -/
def knotValid (g : Settings) : Bool :=
  !g.knot || (within 0 65535 g.openDelay && within 25 65535 g.windowSpan && within 1 8 g.headFilter &&
    within 2 16 g.suspectThreshold && within 1 16 g.meshRows && within 1 16777215 g.meshTarget && within 1 250 g.meshTolerance &&
    within 1 15 g.meshRunLimit && g.fittedHeads != 0 && 25 * g.headFilter ≤ g.windowSpan && meshTol g + 1 ≤ g.meshTarget)

/-- Tables 11-1 and 11-2: the settings of a TWIST node. -/
def twistValid (g : Settings) : Bool :=
  !g.twist || (g.spindles.toList.all spindleValid && within 100 10000 g.stallPeriod && g.spindles.toList.any (·.fitted))

/-- Tables 11-1 and 11-2: FOLLOW. -/
def followValid (g : Settings) : Bool :=
  !g.follow || (g.twist && within 1 31 g.paceSource && within 1 4095 g.pref && within 0 5000 g.paceHold &&
    within 1 16777215 g.spindles[0].target)

/-- Table 11-1: the settings of a COIL node. -/
def coilValid (g : Settings) : Bool :=
  !g.coil || (within 1 4294967295 g.coilTarget && within 0 10000 g.cutDelay && within 50 5000 g.cutPulse &&
    within 1000 60000 g.cutDoneTimeout && within 200 10000 g.tallyWait)

/-- The ranges and combined conditions of Tables 11-1 and 11-2, with the roles of Table 0-2. -/
def Settings.valid (g : Settings) : Bool :=
  !(g.twist && g.knot) && within 1 7 g.group && within 0 31 g.paceSource && encoderValid g.encA && encoderValid g.encB &&
    (g.encA.enabled || g.encB.enabled) &&
    (!(g.encA.enabled && g.encB.enabled) || (within 1 65535 g.slipStep && within 1 250 g.slipLimit)) &&
    (!g.driftCheck || (within 1 250 g.driftLimit && within 500 2000 g.takeUpRatio)) &&
    twistValid g && followValid g && knotValid g && within 1 1000 g.scanPeriod && g.scan.toList.all scanValid &&
    within 1 60 g.haltTimeout && coilValid g

/-- The bit positions that Table 10-10 does not name, in the bytes that have any, read 0 (R182). -/
def unnamedBitsZero (img : List Byte) : Bool :=
  byteAt img 2 &&& 0x1F == 0 && byteAt img 5 &&& 0x7F == 0 && byteAt img 6 &&& 0x0F == 0 && byteAt img 23 &&& 0xF0 == 0

/-- Whether a settings image is valid (R182). -/
def imageValid (img : List Byte) : Bool :=
  crcBytes (crc (img.take 254)) == (img.drop 254).take 2 && byteAt img 0 == 0x31 &&
    ((img.drop 142).take 112).all (· == 0xFF) && unnamedBitsZero img && (settingsOf img).valid

end Sys2Proof.Machine
end

