-- ==== Sys2Proof/Machine/Status.lean ====
section
/-! DEFINITION. What stations see: the pages of the STATUS reply (R175, R176, Table 10-2 and the rules it names), the content
of a PRESENCE (R108), and the bytes of a frame (R97). Every function here reads the state and changes nothing. -/

namespace Sys2Proof.Machine

/-- The settings mask of the roles (Table 10-10, byte 2), 0 on a node in UNSET (R108). -/
def State.rolesByte (s : State) : Byte :=
  if s.begun then
    BitVec.ofNat 8 ((if s.settings.twist then 128 else 0) + (if s.settings.knot then 64 else 0) + (if s.settings.coil then 32 else 0))
  else 0

/-- The current coil number (R156), 0 on a node in UNSET (R136). -/
def State.currentCoil (s : State) : BitVec 32 :=
  if !s.begun then 0
  else if s.settings.coil then
    match s.coil.openSlot with
    | some r => BitVec.ofNat 32 r.coil
    | none => 0
  else s.coil.tally.lastCoil

/-- The standing own halt that the protection unit reports (R127). -/
def State.haltPart (s : State) : Option HaltPart :=
  if s.prot.episode = .standing then
    some { serial := BitVec.ofNat 8 s.prot.serial, cause := (s.prot.latest.map Cause.byte).getD 0 }
  else none

/-- Whether a PRESENCE carries a pace part (R108). -/
def State.publishes (s : State) : Bool := s.begun && s.settings.pacePublish

/-- The pace part of a PRESENCE (R108, R29). -/
def State.pacePart (s : State) : PacePart :=
  { v := BitVec.ofNat 16 s.meter.speed, length := mmField s.lineLength }

/-- A PRESENCE payload (R108, Table 10-5). -/
def presencePayload (s : State) : List Byte :=
  let flags := (s.rolesByte &&& 0xE0).toNat + (if s.publishes then 16 else 0) + (if s.meter.reverse then 8 else 0) +
    (if s.publishes then 4 else 0) + (if s.haltPart.isSome then 2 else 0)
  [BitVec.ofNat 8 flags, BitVec.ofNat 8 s.prot.permit.code] ++ bytesBE 3 (causeSet s.prot.causes).toNat ++
    bytesBE 4 s.currentCoil.toNat ++
    (if s.publishes then bytesBE 2 s.pacePart.v.toNat ++ bytesBE 4 s.pacePart.length.toNat else []) ++
    (match s.haltPart with
      | some h => [h.serial, h.cause]
      | none => [])

/-! ### Values of the pages -/

/-- The four flags, each a yes or no, and the origin (R39, R176, Table 10-8). ANY, their summary (Table 2-7), is not carried:
R39 names the flags and Table 10-2 has no place for it. DESIGN CHOICE (log entry 7). -/
def flagBytes (f : ArithFlags) (o : Origin) : List Byte :=
  [boolByte f.ovf, boolByte f.unf, boolByte f.dvz, boolByte f.rng, BitVec.ofNat 8 o.code]

/-- A small value in one byte. -/
def byte1 (n : Nat) : Byte := BitVec.ofNat 8 n

/-- Page 0: identity and the node as a whole (R184, Table 10-2). FULL and FAULT are carried as on page 88 (log entry 7). -/
def page0 (s : State) : List Byte :=
  bytesBE 2 Config.vendorCode.toNat ++ bytesBE 2 Config.partCode.toNat ++ [Config.revision] ++
    bytesBE 4 Config.serialNumber.toNat ++
    [byte1 s.station.val, boolByte s.startRec.commission, boolByte s.startRec.settingsValid, byte1 s.settings.group, s.rolesByte,
      byte1 s.prot.permit.code] ++
    bytesBE 3 (causeSet s.prot.causes).toNat ++ [byte1 (coilStateCode s.coil.openSlot)] ++ bytesBE 4 s.currentCoil.toNat ++
    [byte1 s.store.key.code, byte1 ((s.store.keyStation.map Fin.val).getD 0), boolByte s.store.inFlight.isSome,
      boolByte s.store.full, boolByte s.store.fault]

/-- Pages 1 and 2: an encoder, with the N and D that its residue and L are reported together with (R39). DEDUCED (log entry 7): N
and D stand last, as R39 names them after its list. -/
def encoderPage (g : EncoderSettings) (e : EncoderRecord) : List Byte :=
  [boolByte g.enabled] ++ intBE 5 e.length ++ bytesBE 2 e.residue ++ [byte1 e.errors, boolByte e.limitReached] ++ bytesBE 3 g.n ++
    bytesBE 2 g.d

/-- Page 3: line length, speed, slip, drift and the arithmetic status (R39). -/
def meterPage (s : State) : List Byte :=
  intBE 5 s.lineLength ++ bytesBE 2 s.meter.speed ++ [boolByte s.meter.reverse, boolByte s.meter.atRest] ++
    bytesBE 2 s.meter.lastSlip ++ [byte1 s.meter.slipRun] ++ bytesBE 2 s.meter.lastDrift ++ [byte1 s.meter.driftRun] ++
    flagBytes s.meter.flags s.meter.origin

/-- Pages 4 to 11: a channel (R19). A channel that is not allocated stays at its reset values (R2), which are those R19 names. -/
def channelPage (c : Channel) : List Byte :=
  [byte1 (modeCode c.mode), byte1 c.state.code] ++ bytesBE 3 c.reload.toNat ++ bytesBE 3 c.capture.toNat ++
    [boolByte c.captureSaturated]

/-- Pages 12 to 15: a spindle without its statistics (R59). -/
def spindlePage (g : SpindleSettings) (p : Spindle) : List Byte :=
  [boolByte g.fitted, boolByte p.windowOpen, byte1 p.turns] ++ intBE 5 p.startLength ++ optZero 3 p.lastLay ++
    [byte1 p.lastClass.code, byte1 p.bandRun, byte1 p.stallRun] ++ bytesBE 3 p.bandLow ++ bytesBE 4 p.bandHigh

/-- Pages 16 to 19: a spindle's segment statistics (Table 3-5). -/
def statsPage (t : SpindleStats) : List Byte :=
  bytesBE 4 t.windows ++ bytesBE 4 t.within ++ bytesBE 4 t.below ++ bytesBE 4 t.above ++ bytesBE 4 t.stalled ++
    bytesBE 4 t.layFaults ++ optZero 3 t.minLay ++ optZero 3 t.maxLay ++ bytesBE 7 t.sumLay

/-- Page 20: the follow record (R59). -/
def followPage (s : State) : List Byte :=
  [boolByte s.settings.follow] ++ optZero 3 s.twist.halfPeriod ++ [boolByte s.twist.flowing, byte1 s.twist.condition.code]

/-- Page 21: the scan record (R73). -/
def scanPage (s : State) : List Byte :=
  [boolByte s.sampler.position.isSome] ++ optOnes 1 (s.sampler.position.map Fin.val) ++ bytesBE 2 s.sampler.overruns ++
    bytesBE 2 s.settings.scanPeriod

/-- Pages 22 to 29: a scan list entry (R73). -/
def scanEntryPage (g : ScanSettings) (e : ScanEntry) : List Byte :=
  [byte1 g.input, byte1 g.mode.code] ++ bytesBE 2 g.lowLimit ++ bytesBE 2 g.highLimit ++
    [byte1 g.filterCount, boolByte g.protect, boolByte g.blankInTie] ++ bytesBE 2 e.result ++
    [byte1 e.filterRun, boolByte e.tripped] ++ bytesBE 2 e.tripCount ++ optOnes 2 e.tripValue ++ [boolByte e.locked]

/-- Page 30: knot phase, row, window, draw width and suspect set (R96). -/
def knotPage (k : Knot) : List Byte :=
  optOnes 1 (k.takenCode.map BitVec.toNat) ++ optOnes 1 (k.takenSector.map Sector.code) ++ bytesBE 2 k.phaseFaults ++
    [boolByte k.rowValid, byte1 k.rowOutcome.code] ++ bytesBE 4 k.rowCounter ++ [byte1 k.window.code] ++ bytesBE 2 k.samples ++
    bytesBE 3 k.drawWidth.toNat ++ [boolByte k.drawSaturated] ++ bytesBE 4 k.suspects.toNat

/-- Page 31: the mesh window (R96). -/
def meshPage (k : Knot) : List Byte :=
  [byte1 k.mesh.code] ++ intBE 5 k.meshStart ++ [byte1 k.meshCounted] ++ optZero 3 k.lastMesh ++ bytesBE 3 k.meshLow ++
    bytesBE 4 k.meshHigh ++ [byte1 k.meshRun]

/-- An entry of pages 33 to 36 (Table 10-2). -/
def rowEntryBytes (e : RowEntry) : List Byte :=
  bytesBE 4 e.number ++ bytesBE 4 e.missed.toNat ++ [byte1 ((if e.short then 2 else 0) + (if e.unseen then 1 else 0))]

/-- Four entries of a list from the n-th group of four. -/
def fourOf {α : Type} (l : List α) (n : Nat) : List α := (l.drop (4 * n)).take 4

/-- Whether a queued frame is urgent: HALT alone is (Table 6-2). -/
def FrameContent.urgent : FrameContent → Bool
  | .halt _ _ _ => true
  | _ => false

/-- The class of a queued frame, urgent 0 and routine 1 (log entry 7). -/
def QueuedFrame.urgent (f : QueuedFrame) : Bool := f.content.urgent

/-- Page 37: the floor line interface (R111). -/
def linePage (l : FloorLine) : List Byte :=
  [byte1 l.tx.code, byte1 l.queue.length] ++ l.queue.flatMap (fun f => [boolByte (!f.urgent), byte1 f.attempts]) ++ [l.counter] ++
    bytesBE 2 l.accepted ++ bytesBE 2 l.broken ++ bytesBE 2 l.checkErrors ++ bytesBE 2 l.invalid ++ bytesBE 2 l.sent ++
    bytesBE 2 l.collisions ++ bytesBE 2 l.drops ++ bytesBE 2 l.overruns

/-- Pages 38 to 53: a peer entry (Table 6-6). -/
def peerPage (p : Peer) : List Byte :=
  [byte1 p.station.val, p.roles, p.permit] ++ bytesBE 3 p.causes.toNat ++ bytesBE 4 p.coil.toNat ++
    optOnes 2 (p.pace.map (fun x => x.v.toNat)) ++ optOnes 4 (p.pace.map (fun x => x.length.toNat)) ++
    optZero 1 (p.halt.map (fun x => x.serial.toNat)) ++ optZero 1 (p.halt.map (fun x => x.cause.toNat)) ++
    [p.sequence, boolByte (!p.heard)] ++ bytesBE 2 (p.age / 1000)

/-- RUN is on only in RUNNING (R113). -/
def State.runOut (s : State) : Bool := s.prot.permit == .running

/-- BRAKE is on in every state other than RUNNING (R113). -/
def State.brakeOut (s : State) : Bool := s.prot.permit != .running

/-- The ALARM lamp (R114). -/
def State.alarmOut (s : State) : Bool := s.prot.lamp.lit

/-- CUT shows the output level of CH7 (R18). DESIGN CHOICE (log entry 43): R18 also calls CUT low at all times other than DRIVING
in PULSE mode; of a CH7 that runs in INTERVAL with TOGGLE, which no owner asks for, the model shows the level. -/
def State.cutOut (s : State) : Bool := (s.channel 7).level

/-- REF shows the output level of CH5 (R18). -/
def State.refOut (s : State) : Bool := (s.channel 5).level

/-- Page 54: the protection record without the halt table (R135). DESIGN CHOICE (log entry 7): the coil hold, whose values
Table 7-1 lists as set and clear, is carried like a yes or no, set as 1, and a stopped halt timer, whose time Table 7-1
gives no range, as 0xFFFF. -/
def protectionPage (s : State) : List Byte :=
  [byte1 s.prot.permit.code] ++ bytesBE 3 (causeSet s.prot.causes).toNat ++ [byte1 s.prot.serial, byte1 s.prot.episode.code] ++
    optZero 1 (s.prot.latest.map Cause.code) ++ optZero 1 s.prot.sentSerial ++
    [byte1 s.prot.outstanding, boolByte s.prot.eligible] ++ optOnes 2 (msLeft s.prot.haltLeft) ++
    [boolByte s.prot.coilHold, boolByte s.prot.supplyWarning, boolByte s.runOut, boolByte s.brakeOut, boolByte s.alarmOut,
      if s.prot.blinkLeft.isSome then 3 else byte1 s.prot.lamp.pattern.code]

/-- An entry of pages 55 to 62 (R130). DESIGN CHOICE (log entry 7): what set the entry, which no table lists, is carried as 0 for
HALT and 1 for PRESENCE, in the order of R130's words. -/
def haltEntryBytes (h : HaltEntry) : List Byte :=
  [byte1 h.station.val, h.cause, h.serial] ++ optOnes 4 (h.length.map BitVec.toNat) ++ [boolByte (!h.byHalt)]

/-- The segment tally of a node without COIL (Table 8-3). -/
def tallyBytes (t : SegmentTally) : List Byte :=
  [boolByte t.begun] ++ intBE 5 t.startLength ++ [byte1 t.halts] ++ bytesBE 4 t.lastCoil.toNat ++ bytesBE 4 t.lastSegment

/-- Page 63: the coil builder (R156). -/
def coilPage (s : State) : List Byte :=
  [byte1 (coilStateCode s.coil.openSlot)] ++ optZero 4 s.coil.next ++ bytesBE 4 s.coil.pendingTarget ++
    optOnes 1 (msLeft s.coil.restLeft) ++ optOnes 2 (msLeft s.coil.cutLeft) ++
    (if s.settings.coil then [] else tallyBytes s.coil.tally)

/-- A record with the node's own arithmetic flags and origin in it, as a seal copies them (R153). -/
def CoilRecord.withOwnFlags (r : CoilRecord) (s : State) : CoilRecord :=
  { r with
    flags := r.flags.union s.meter.flags
    contributors := r.contributors.map (fun c =>
      if c.station = s.station then { c with flags := s.meter.flags, origin := byte1 s.meter.origin.code } else c) }

/-- A record as it would be programmed if sealed now (R175, note to Table 10-2). -/
def CoilRecord.asSealed (r : CoilRecord) (s : State) : CoilRecord :=
  if r.state = .sealing ∨ r.state = .held then r else r.withOwnFlags s

/-- A slot page: record state and held back, then one part of the record; 0xFF alone for an empty slot. The anchor follows part
0, after the header fields, where R156 lists it. DESIGN CHOICE (log entry 42): Table 10-2 names no place for it. -/
def slotPage (s : State) (slot : Option CoilRecord) (part : Nat) : List Byte :=
  match slot with
  | none => [0xFF]
  | some r =>
    [byte1 r.state.code, boolByte r.heldBack] ++ ((recordBytes (r.asSealed s)).drop (32 * part)).take 32 ++
      (if part = 0 then optZero 1 r.anchor else [])

/-- How many ring sectors have a class (R157). -/
def classCount (t : List SectorEntry) (c : SectorClass) : Nat := (t.filter (fun e => e.cls == c)).length

/-- Four places of the store's queue, 0xFF where there is no operation (log entry 7). -/
def opPlaces (ops : List StoreOp) : List Byte := padTo 4 ((ops.take 4).map (fun o => byte1 o.code))

/-- The code of the operation in flight (R176): VOID-MARK while its step is one, else the operation's own. DESIGN CHOICE (log
entry 7): R176 also codes a keep with its retry as one. -/
def InFlight.code (f : InFlight) : Nat :=
  match f.step with
  | .void _ => 2
  | _ => f.op.code

/-- Page 88: the store record (R157). DESIGN CHOICE (log entry 7): FULL and FAULT, whose values Table 9-1 lists as set and clear,
are carried like a yes or no, set as 1. -/
def storePage (s : State) : List Byte :=
  let t := s.store
  [boolByte t.inFlight.isSome, boolByte t.full, boolByte t.fault, boolByte (!t.wrap), byte1 t.pointer] ++
    optOnes 1 (t.inFlight.map InFlight.code) ++ opPlaces t.waiting ++ opPlaces (t.waiting.drop 4) ++
    [byte1 t.key.code, byte1 ((t.keyStation.map Fin.val).getD 0)] ++
    [byte1 (classCount t.table .erased), byte1 (classCount t.table .openOnly), byte1 (classCount t.table .sealed),
      byte1 (classCount t.table .lost), byte1 (classCount t.table .void), byte1 (classCount t.table .damaged),
      byte1 (t.table.filter (fun e => e.collected)).length] ++
    bytesBE 2 t.addressErrors ++ bytesBE 2 t.dataErrors

/-- The content of a STATUS page (Table 10-2). -/
def pageContent (s : State) (page : Nat) : List Byte :=
  if page = 0 then page0 s
  else if page = 1 then encoderPage s.settings.encA s.meter.encA
  else if page = 2 then encoderPage s.settings.encB s.meter.encB
  else if page = 3 then meterPage s
  else if page ≤ 11 then channelPage (s.channels.toList.getD (page - 4) .reset)
  else if page ≤ 15 then
    spindlePage (s.settings.spindles.toList.getD (page - 12) ⟨false, 0, 0, 0, 0, 0⟩) (s.twist.spindles.toList.getD (page - 12) .reset)
  else if page ≤ 19 then statsPage (s.twist.spindles.toList.getD (page - 16) .reset).stats
  else if page = 20 then followPage s
  else if page = 21 then scanPage s
  else if page ≤ 29 then
    scanEntryPage (s.settings.scan.toList.getD (page - 22) ⟨0, .off, false, false, 0, 0, 0⟩)
      (s.sampler.entries.toList.getD (page - 22) .reset)
  else if page = 30 then knotPage s.knot
  else if page = 31 then meshPage s.knot
  else if page = 32 then knotPartBytes s.knot.stats
  else if page ≤ 36 then (fourOf s.knot.history (page - 33)).flatMap rowEntryBytes
  else if page = 37 then linePage s.line
  else if page ≤ 53 then ((s.peers.drop (page - 38)).take 1).flatMap peerPage
  else if page = 54 then protectionPage s
  else if page ≤ 62 then (fourOf s.prot.table (page - 55)).flatMap haltEntryBytes
  else if page = 63 then coilPage s
  else if page ≤ 71 then slotPage s s.coil.openSlot (page - 64)
  else if page ≤ 79 then slotPage s s.coil.closingSlot (page - 72)
  else if page ≤ 87 then slotPage s s.coil.heldSlot (page - 80)
  else storePage s

/-- A STATUS reply payload (R175): DONE, the page and its content, or BAD and the page above 88. -/
def statusPayload (s : State) (page : Byte) : List Byte :=
  if page.toNat ≤ 88 then [Result.done.byte, page] ++ pageContent s page.toNat else [Result.bad.byte, page]

/-! ### Frames -/

/-- The kind code of a frame that the node sends (Table 10-3). -/
def FrameContent.kindCode : FrameContent → Nat
  | .presence => 1
  | .halt _ _ _ => 2
  | .resume _ => 3
  | .mark _ _ _ => 4
  | .tally _ _ => 5
  | .reply k _ _ => k.code
  | .status _ _ => 6

/-- Whether a frame that the node sends answers a request. -/
def FrameContent.isReply : FrameContent → Bool
  | .reply _ _ _ => true
  | .status _ _ => true
  | _ => false

/-- The destination of a frame that the node sends (Table 6-2). -/
def FrameContent.destination : FrameContent → Station
  | .tally d _ => d
  | .reply _ d _ => d
  | .status d _ => d
  | _ => 0

/-- The payload of a frame, taken when an attempt begins (R106, R108, R175). -/
def FrameContent.payload (s : State) : FrameContent → List Byte
  | .presence => presencePayload s
  | .halt c n l => [c, n] ++ bytesBE 4 l.toNat
  | .resume n => [n]
  | .mark k c l => [byte1 k.code] ++ bytesBE 4 c.toNat ++ bytesBE 4 l.toNat
  | .tally _ t => tallyPayload t
  | .reply _ _ p => p
  | .status _ p => statusPayload s p

/-- The group of the frames that the node sends: its own, or 0 in UNSET (R97, R181). -/
def State.sendGroup (s : State) : Nat := if s.begun then s.settings.group else 0

/-- The header of a frame that the node sends (Table 10-4). -/
def headerOf (s : State) (f : FrameContent) (sequence : Byte) : List Byte :=
  [byte1 (f.kindCode * 16 + (if f.isReply then 8 else 0) + s.sendGroup), byte1 s.station.val, byte1 f.destination.val, sequence]

/-- The bytes of a frame (R97, R98): sync, header, length, payload and check. -/
def frameBytes (s : State) (f : FrameContent) (sequence : Byte) : List Byte :=
  let payload := f.payload s
  let body := headerOf s f sequence ++ [byte1 payload.length] ++ payload
  [0xC3] ++ body ++ crcBytes (crc body)

end Sys2Proof.Machine
end

