-- ==== Sys2Proof/Machine/Line.lean ====
section
/-! DEFINITION. The line side of the node as shared operations: the transmit queue (R102), the gaps and the start of an
attempt (R105, R106). The commands of chapter 6 stand in LineCommands.lean and Peers.lean. -/

namespace Sys2Proof.Machine

/-- The state with its floor line interface replaced. -/
def State.withLine (s : State) (l : FloorLine) : State := { s with line := l }

/-! ### The receiver, byte by byte (R99) -/

/-- The idle bit times after which a frame is broken and PASS ends (R99). -/
def idleLimit : Nat := 16

/-- The frame whose header, length byte, payload and check bytes the receiver has taken (R97). -/
def frameOf (taken : List Byte) : RawFrame :=
  { h0 := byteAt taken 0, h1 := byteAt taken 1, h2 := byteAt taken 2, h3 := byteAt taken 3,
    payload := (taken.drop 5).take (taken.length - 7), check := halfAt taken (taken.length - 2) }

/-- How many bytes of header, length byte and payload a frame has whose length byte has been taken (R97). -/
def bodyLength (taken : List Byte) : Nat := 5 + (byteAt taken 4).toNat

/-- The receiver after a byte that ends a frame or belongs to none, with the row of the table that tells of it. -/
def FloorLine.rowOf (l : FloorLine) (rx : RxState) (row : Instr) : FloorLine × List Instr :=
  ({ l with rx := rx, taken := [], began := false }, [row])

/-- The receiver on a byte of a frame (R99). -/
def FloorLine.inFrame (l : FloorLine) (b : Byte) : FloorLine × List Instr :=
  let t := l.taken ++ [b]
  if t.length = 5 ∧ 40 < b.toNat then l.rowOf .pass (.brokenFrame false)
  else if t.length < 5 ∨ t.length < bodyLength t then ({ l with rx := .frame, taken := t, began := false }, [])
  else if t.length < bodyLength t + 2 then ({ l with rx := .check, taken := t, began := false }, [])
  else l.rowOf .hunt (.frameReceived (frameOf t))

/-- The receiver at the end of a byte (R99), with the rows that tell of it. In HUNT the value alone decides whether a frame begins; a
stop bit that reads low breaks a frame in FRAME and CHECK. -/
def FloorLine.rxByte (l : FloorLine) (b : Byte) (stopLow : Bool) : FloorLine × List Instr :=
  match l.rx with
  | .hunt =>
    if l.began && b == 0xC3 then ({ l with rx := .frame, taken := [], began := false }, [])
    else l.rowOf .pass .receiverEntersPass
  | .frame => if stopLow then l.rowOf .pass (.brokenFrame false) else l.inFrame b
  | .check => if stopLow then l.rowOf .pass (.brokenFrame false) else l.inFrame b
  | .pass => ({ l with began := false }, [])

/-- The receiver over bytes that come one after the other. -/
def FloorLine.rxBytes (l : FloorLine) : List Byte → FloorLine × List Instr
  | [] => (l, [])
  | b :: bs =>
    let x := l.rxByte b false
    let y := FloorLine.rxBytes x.1 bs
    (y.1, x.2 ++ y.2)

/-- The start bit of a byte (R99, R105): the idle count returns to 0, and the byte has begun after an idle of more than 15 bit
times or has not. -/
def FloorLine.startBit (l : FloorLine) : FloorLine :=
  { l with began := l.unseen || decide (idleLimit ≤ l.idle), unseen := false, idle := 0, idleSub := 0 }

/-! ### The transmit queue and the start of an attempt -/

/-- The gap of a frame in bit times (R105). -/
def gapOf (station : Station) (f : QueuedFrame) : Nat :=
  if f.urgent then 24 + 4 * ((station.val + f.attempts) % 4)
  else 40 + 10 * ((3 * station.val + 5 * f.attempts) % 16)

/-- An attempt of the head frame begins (R106): the frame is marked as on the line, takes a sequence number if it has none,
its bytes are formed from the state of this event, with the conversion flag of a PRESENCE's pace part (R108), and its
first start bit ends the idle for the node's own receiver too (R99). -/
def beginAttempt (s : State) : State :=
  match s.line.queue with
  | [] => s
  | f :: rest =>
    let seq := f.sequence.getD s.line.counter
    let s1 := s.withLine { s.line.startBit with
      tx := .sending
      counter := if f.sequence.isSome then s.line.counter else s.line.counter + 1
      queue := { f with sequence := some seq, onLine := true } :: rest }
    let bytes := frameBytes s1 f.content seq
    let s2 := s1.withLine { s1.line with sending := bytes, sendLeft := some (bytes.length * 40) }
    if f.content = .presence ∧ s.publishes then convertFlag s.lineLength s2 else s2

/-- In GAP the idle count is compared with the head frame's gap; in READY a queued frame leads to GAP, and in GAP an empty
queue leads to READY (R105). -/
def pollLine (s : State) : State :=
  match s.line.tx, s.line.queue with
  | .ready, f :: _ =>
    if gapOf s.station f ≤ s.line.idle then beginAttempt s else s.withLine { s.line with tx := .gap }
  | .gap, f :: _ => if gapOf s.station f ≤ s.line.idle then beginAttempt s else s
  | .gap, [] => s.withLine { s.line with tx := .ready }
  | _, _ => s

/-- A frame as it joins the queue (R102). -/
def QueuedFrame.fresh (c : FrameContent) : QueuedFrame :=
  { content := c, attempts := 0, sequence := none, onLine := false, withdrawn := false }

/-- The queue with a HALT placed after the last urgent frame (R102). -/
def placeHalt (q : List QueuedFrame) (f : QueuedFrame) : List QueuedFrame :=
  q.takeWhile QueuedFrame.urgent ++ [f] ++ q.dropWhile QueuedFrame.urgent

/-- Whether a full queue can make room for a HALT: a routine frame that is not on the line (R102). -/
def droppable (f : QueuedFrame) : Bool := !f.urgent && !f.onLine

/-- The queue without its youngest droppable frame (R102). -/
def dropYoungest (q : List QueuedFrame) : List QueuedFrame := (q.reverse.eraseP droppable).reverse

/-- A HALT handed to the queue (R102). -/
def joinHalt (c : FrameContent) (s : State) : State :=
  let q := s.line.queue
  let f := QueuedFrame.fresh c
  if q.length < 8 then s.withLine { s.line with queue := placeHalt q f }
  else
    let s1 := s.withLine { s.line with overruns := holdInc 65535 s.line.overruns }
    if q.any droppable then s1.withLine { s1.line with queue := placeHalt (dropYoungest q) f }
    else s1.emit [.raiseCause .lineFailed]

/-- A routine frame handed to the queue (R102), a PRESENCE merged into one already queued (R103). -/
def joinRoutine (c : FrameContent) (s : State) : State :=
  let q := s.line.queue
  if c = .presence ∧ q.any (fun f => f.content == .presence) then s
  else if q.length < 8 then s.withLine { s.line with queue := q ++ [QueuedFrame.fresh c] }
  else s.withLine { s.line with overruns := holdInc 65535 s.line.overruns }

/-- A frame handed to the floor line interface (R102, R105). -/
def sendFrame (c : FrameContent) (s : State) : State :=
  pollLine (if c.urgent then joinHalt c s else joinRoutine c s)

/-- A reply to a service request (R173). -/
def sendReply (kind : ServiceKind) (destination : Station) (payload : List Byte) (s : State) : State :=
  sendFrame (.reply kind destination payload) s

end Sys2Proof.Machine
end

