-- ==== Sys2Proof/Machine/Permits.lean ====
section
/-! DEFINITION. The protection unit's shared operations: changes of permit state with their notices (R120), the ALARM lamp
(R114), HALT and the episode (R126 to R128), reasons appearing and clearing (R121 to R124), raising and clearing a cause
(R115). The commands of chapter 7 stand in Protection.lean. -/

namespace Sys2Proof.Machine

/-- The state with its protection record replaced. -/
def State.withProt (s : State) (p : Protection) : State := { s with prot := p }

/-! ### The ALARM lamp -/

/-- The pattern that R114 decides. -/
def decidedPattern (s : State) : AlarmPattern :=
  if s.prot.permit = .unset then .dark
  else if s.prot.causes.any Cause.latching then .steady
  else if s.prot.causes != [] || s.prot.table != [] || (s.prot.coilHold && s.prot.permit != .running) then .flashing
  else .dark

/-- The lamp as a pattern begins: flashing begins lit and changes every 500 ms (R114). -/
def lampFor (p : AlarmPattern) : Lamp :=
  { pattern := p, lit := p != .dark, flashLeft := if p = .flashing then some (ofMs 500) else none }

/-- The pattern decided afresh (R114): during the refusal blink a change takes effect when the blink ends. -/
def refreshAlarm (s : State) : State :=
  let p := decidedPattern s
  if p = s.prot.lamp.pattern then s
  else if s.prot.blinkLeft.isSome then s.withProt { s.prot with lamp := { s.prot.lamp with pattern := p } }
  else s.withProt { s.prot with lamp := lampFor p }

/-! ### The permit state -/

/-- Whether a reason is present: an own cause or a peer halt (Table 0-3). -/
def State.hasReason (s : State) : Bool := s.prot.causes != [] || s.prot.table != []

/-- The notices of entering RUNNING (R120), in the model's order (log entry 1). -/
def entryNotices : List Instr := [.twistRunningEntry, .samplerRunningEntry, .knotRunningEntry, .coilRunningEntry]

/-- The notices of leaving RUNNING (R120). The coil builder's has no effect of its own (R146). -/
def exitNotices : List Instr := [.twistRunningExit, .samplerRunningExit, .knotRunningExit]

/-- A change of permit state with its notices (R120); entering STANDBY makes eligible no (R123). -/
def setPermit (p : Permit) (s : State) : State :=
  let notices :=
    (if p = .running then entryNotices else if s.prot.permit = .running then exitNotices else []) ++ [.permitStateNotice p]
  (s.withProt { s.prot with
    permit := p
    eligible := if p = .standby then false else s.prot.eligible }).emit notices

/-- The state that a decision in HALTING leads to (Table 7-4). -/
def decisionOf (s : State) : Permit :=
  if s.hasReason then .halted
  else if !s.prot.eligible then .standby
  else if s.prot.coilHold then .halted
  else .running

/-- The decision in HALTING (R122): the halt timer is stopped and the next state entered. -/
def haltingDecision (s : State) : State :=
  setPermit (decisionOf s) (s.withProt { s.prot with haltLeft := none })

/-- A reason appears (R121, R124). `latchingOwn` says that it is a latching own cause. -/
def reasonAppears (latchingOwn : Bool) (s : State) : State :=
  match s.prot.permit with
  | .running =>
    let s1 := setPermit .halting (s.withProt { s.prot with
      eligible := s.settings.autoResume && !latchingOwn
      haltLeft := some (ofMs (s.settings.haltTimeout * 1000)) })
    if s.meter.atRest then haltingDecision s1 else s1
  | .standby => setPermit .halted s
  | _ => s

/-- After a reason has gone: in HALTED, the event in which the last one clears acts (R123). -/
def reasonCleared (s : State) : State :=
  if s.prot.permit = .halted ∧ !s.hasReason then
    if !s.prot.eligible then setPermit .standby s
    else if s.prot.coilHold then s
    else setPermit .running s
  else s

/-! ### HALT and the episode -/

/-- The next halt serial (R126). -/
def nextSerial (n : Nat) : Nat := if n = 255 then 1 else n + 1

/-- A HALT issued for a cause (R126). -/
def issueHalt (c : Cause) (s : State) : State :=
  let n := nextSerial s.prot.serial
  let s1 := s.withProt { s.prot with serial := n, latest := some c, episode := .standing }
  sendFrame (.halt c.byte (BitVec.ofNat 8 n) (mmField s.lineLength)) (convertFlag s.lineLength s1)

/-- A withdraw request for the present halt serial (R127, R128). -/
def requestWithdrawal (s : State) : State :=
  (s.withProt { s.prot with outstanding := s.prot.outstanding + 1 }).emit [.withdrawRequest (BitVec.ofNat 8 s.prot.serial)]

/-- The raise of a group-wide cause acts by the episode (R127). -/
def episodeRaise (c : Cause) (s : State) : State :=
  match s.prot.episode with
  | .quiet => issueHalt c (s.withProt { s.prot with sentSerial := none })
  | .standing => issueHalt c (requestWithdrawal s)
  | .closing => issueHalt c s

/-- A cause has left the set: with no group-wide cause left, a STANDING episode closes (R128). -/
def episodeClear (s : State) : State :=
  if !s.prot.causes.any Cause.groupWide ∧ s.prot.episode = .standing then
    let s1 := requestWithdrawal s
    s1.withProt { s1.prot with episode := .closing }
  else s

/-! ### Raising and clearing -/

/-- The reason notices that a raised cause gives the coil builder (R115 step 5, R134). -/
def raiseNotices (c : Cause) (station : Station) (stopped : Bool) : List Instr :=
  [.reasonNotice c.byte station stopped] ++ (if c = .supply then [.supplyNotice] else [])

/-- A request to raise a cause (R115). In UNSET the protection unit takes none (R112). -/
def raise (c : Cause) (s : State) : State :=
  if !s.begun ∨ s.prot.causes.contains c then s
  else
    let stopped := s.prot.permit = .running
    let s1 := s.withProt { s.prot with
      causes := addCause c s.prot.causes
      eligible := s.prot.eligible && !(c.latching && s.prot.permit != .running) }
    let s2 := if c.groupWide then episodeRaise c s1 else s1
    let s3 := reasonAppears c.latching s2
    refreshAlarm (s3.emit (raiseNotices c s.station stopped))

/-- The notice that the clear of TENSION gives the sampler (R72). -/
def clearNotices (c : Cause) : List Instr := if c = .tension then [.tensionClearNotice] else []

/-- A request to clear a cause (R115). -/
def clear (c : Cause) (s : State) : State :=
  if s.prot.causes.contains c then
    let s1 := (s.withProt { s.prot with causes := dropCause c s.prot.causes }).emit (clearNotices c)
    let s2 := if c.groupWide then episodeClear s1 else s1
    refreshAlarm (reasonCleared s2)
  else s

end Sys2Proof.Machine
end

