-- ==== Sys2Proof/Machine/StoreOps.lean ====
section
/-! DEFINITION. The record store's shared operations: the sector table, the search for a header sector (R160), FULL (R161),
the queue and the operation in flight (R159), a program step with its VOID-MARK (R163), and the steps of an operation (R164,
R172, R183). The completions stand in StoreCommands.lean, the requests in Service.lean. -/

namespace Sys2Proof.Machine

/-- The state with its store record replaced. -/
def State.withStore (s : State) (t : Store) : State := { s with store := t }

/-! ### Sectors and banks -/

/-- A ring sector's entry. -/
def State.sectorEntry (s : State) (p : Nat) : SectorEntry := s.store.table.getD (p - 16) .blank

/-- A ring sector's class. -/
def State.sectorClass (s : State) (p : Nat) : SectorClass := (s.sectorEntry p).cls

/-- The node with a ring sector's entry replaced. -/
def State.setEntry (s : State) (p : Nat) (e : SectorEntry) : State :=
  s.withStore { s.store with table := s.store.table.set (p - 16) e }

/-- The sector after a ring sector: after 255 comes 16. -/
def nextSector (p : Nat) : Nat := if p = 255 then 16 else p + 1

/-- The bank after a ring bank: after 15 comes 1. -/
def nextBank (b : Nat) : Nat := if b = 15 then 1 else b + 1

/-- The sixteen sectors of a bank. -/
def bankSectors (b : Nat) : List Nat := List.range' (16 * b) 16

/-- The records of the coil builder's slots. -/
def State.records (s : State) : List CoilRecord :=
  s.coil.openSlot.toList ++ s.coil.closingSlot.toList ++ s.coil.heldSlot.toList

/-- Whether the store has kept a record: its anchor's sector is SEALED (log entry 13). -/
def State.recordKept (s : State) (r : CoilRecord) : Bool :=
  match r.anchor with
  | some p => s.sectorClass p == .sealed
  | none => false

/-- Whether a bank holds the anchor of a record not yet kept (R160, R165, R167). -/
def State.bankHoldsAnchor (s : State) (b : Nat) : Bool :=
  s.records.any (fun r => !s.recordKept r && r.anchor.any (fun p => p / 16 == b))

/-- Whether all 16 sectors of a bank are ERASED in the sector table (R160). -/
def State.bankErased (s : State) (b : Nat) : Bool := (bankSectors b).all (fun p => s.sectorClass p == .erased)

/-- Whether a sector lets its bank be erased in KEEP mode (R160). -/
def expendable (e : SectorEntry) : Bool :=
  match e.cls with
  | .erased => true
  | .void => true
  | .damaged => true
  | .sealed => e.collected
  | .lost => e.collected
  | .openOnly => false

/-- Whether a judged bank may be erased by a header search (R160). -/
def State.bankErasable (s : State) (b : Nat) : Bool :=
  !s.bankHoldsAnchor b && (s.store.wrap || (bankSectors b).all (fun p => expendable (s.sectorEntry p)))

/-- A header placed at a sector: the pointer moves past it (R160). -/
def placeAt (p : Nat) (s : State) : State := s.withStore { s.store with pointer := nextSector p }

/-- A bank judged by a header search that has judged some banks before it (R160): the node after it, with the write pointer at the
bank, and the step that follows. -/
def judgeBank (judged b : Nat) (s : State) : State × StoreStep :=
  if judged < 15 && s.bankErased b then (placeAt (16 * b) s, .program (16 * b))
  else if judged < 15 && s.bankErasable b then (s.withStore { s.store with pointer := 16 * b }, .erase b (judged + 1))
  else (s.withStore { s.store with pointer := 16 * b, full := true }, .nothing)

/-- A search for a header sector, up to its first erase step (R160). -/
def searchSector (s : State) : State × StoreStep :=
  let p := s.store.pointer
  if p % 16 ≠ 0 ∧ s.sectorClass p = .erased then (placeAt p s, .program p)
  else judgeBank 0 (if p % 16 = 0 then p / 16 else nextBank (p / 16)) s

/-- A sector's entry after its bank was erased: ERASED if it reads erased, DAMAGED if not (R165). DESIGN CHOICE (log entry 41): the
station, the coil number and the collected field of a DAMAGED sector are those that a scan would give it (R171). -/
def erasedEntry (m : Memory) (p : Nat) : SectorEntry := if m.sectorErased p then .blank else headedEntry m p .damaged

/-- A bank erased and read back (R165); bank 0 has no entries in the sector table. -/
def eraseBankNow (wear : Wear) (b : Nat) (s : State) : State :=
  let m := s.memory.eraseBank wear b
  let s1 := { s with memory := m }
  if b = 0 then s1 else (bankSectors b).foldl (fun t p => t.setEntry p (erasedEntry m p)) s1

/-- The end of an erase step of a header search (R160): the first sector of the bank is used if it reads erased; a DAMAGED one
moves the pointer to the next bank, which is judged. -/
def searchOn (wear : Wear) (b judged : Nat) (s : State) : State × StoreStep :=
  let s1 := eraseBankNow wear b s
  if s1.sectorClass (16 * b) = .erased then (placeAt (16 * b) s1, .program (16 * b)) else judgeBank judged (nextBank b) s1

/-! ### Records and operations -/

/-- A change of the record that carries a coil number, in whichever slot it stands. -/
def State.updateRecord (s : State) (coil : Nat) (f : CoilRecord → CoilRecord) : State :=
  let g := Option.map (fun r : CoilRecord => if r.coil = coil then f r else r)
  { s with coil := { s.coil with
    openSlot := g s.coil.openSlot
    closingSlot := g s.coil.closingSlot
    heldSlot := g s.coil.heldSlot } }

/-- The record that carries a coil number. -/
def State.findRecord (s : State) (coil : Nat) : Option CoilRecord := s.records.find? (fun r => r.coil == coil)

/-- The ring from the sector at the write pointer forward to the sector before it (R168). -/
def ringFrom (pointer : Nat) : List Nat :=
  (List.range' 16 240).filter (fun p => pointer ≤ p) ++ (List.range' 16 240).filter (fun p => p < pointer)

/-- Whether a COLLECTED run marks a sector (R168). -/
def marksSector (e : SectorEntry) (upTo : Nat) : Bool :=
  (e.cls == .sealed || e.cls == .lost) && !e.collected && e.coil ≤ upTo

/-- The sectors that a COLLECTED run marks, in its order (R168). -/
def State.markList (s : State) (upTo : Nat) : List Nat :=
  (ringFrom s.store.pointer).filter (fun p => marksSector (s.sectorEntry p) upTo)

/-- The sector that a READ chooses: the newest SEALED or LOST sector of the coil number (R170). -/
def State.recallSector (s : State) (coil : Nat) : Option Nat :=
  (ringFrom s.store.pointer).reverse.find? (fun p =>
    ((s.sectorEntry p).cls == .sealed || (s.sectorEntry p).cls == .lost) && (s.sectorEntry p).coil == coil)

/-- Whether the body of a sector reads erased (R172). -/
def bodyErased (m : Memory) (p : Nat) : Bool := (m.readRange (sectorBase p + 32) 224).all (· == erasedByte)

/-- Whether a keep of a coil number programs a body alone: its record has an anchor (R164). -/
def State.keepsBody (s : State) (coil : Nat) : Bool := ((s.findRecord coil).bind CoilRecord.anchor).isSome

/-- The time of the program step of an operation, in µs (Table 9-3, R183). -/
def programTime (op : StoreOp) (s : State) : Nat :=
  match op with
  | .programHeader _ _ => 2000
  | .keep coil => if s.keepsBody coil then 10000 else 12000
  | .markCollected upTo _ => 1000 + 200 * (s.markList upTo).length
  | .eraseBank _ _ => 50000
  | .checkRange first last _ => 500 * (last + 1 - first)
  | .readRecord _ _ _ => 500
  | .lostRecord p => if bodyErased s.memory p then 10000 else 100
  | .commit _ _ => 12000

/-- The time of a step, in µs (Table 9-3): an erase step takes 50 ms and a VOID-MARK 0.1 ms. An operation whose search finds no
sector takes the time of its program step (log entry 5). -/
def stepTime (op : StoreOp) (step : StoreStep) (s : State) : Nat :=
  match step with
  | .erase _ _ => 50000
  | .void _ => 100
  | .work => programTime op s
  | .nothing => programTime op s
  | .program _ => programTime op s

/-- The first step of an operation (R159, R160, R164, R183): an operation that programs a header finds its sector. -/
def firstStep (op : StoreOp) (s : State) : State × StoreStep :=
  match op with
  | .programHeader _ _ => searchSector s
  | .keep coil =>
    match (s.findRecord coil).bind CoilRecord.anchor with
    | some p => (s, .program p)
    | none => searchSector s
  | .lostRecord p => (s, .program p)
  | .commit _ _ => (s, .erase 0 1)
  | _ => (s, .work)

/-- A step of an operation in flight, with the time it takes. -/
def putStep (op : StoreOp) (retry : Bool) (x : State × StoreStep) : State :=
  x.1.withStore { x.1.store with inFlight := some { op := op, step := x.2, retry := retry, left := stepTime op x.2 x.1 } }

/-- An operation as it begins (R159). -/
def beginOp (op : StoreOp) (s : State) : State := putStep op false (firstStep op s)

/-- The oldest waiting operation becomes the operation in flight. A requested bank erase that finds an anchor in its bank as it
begins erases nothing and is answered STATE (R165). DESIGN CHOICE (log entry 50): it takes no time and has no completion, at
which FULL would be judged again (R161), and the next operation begins in the same event. -/
def startNext : List StoreOp → State → State
  | [], s => s.withStore { s.store with inFlight := none, waiting := [] }
  | .eraseBank b source :: rest, s =>
    if s.bankHoldsAnchor b then startNext rest (sendReply .erase source [Result.state.byte] s)
    else beginOp (.eraseBank b source) (s.withStore { s.store with waiting := rest })
  | op :: rest, s => beginOp op (s.withStore { s.store with waiting := rest })

/-- The store can take an operation: the start-up scan has ended, and none is in flight (R157, R159). -/
def State.storeIdle (s : State) : Bool := s.store.inFlight.isNone

/-- An operation joins the queue at its end, or begins at once when the store is IDLE (R159). -/
def enqueue (op : StoreOp) (s : State) : State :=
  if s.storeIdle then startNext (s.store.waiting ++ [op]) s
  else s.withStore { s.store with waiting := s.store.waiting ++ [op] }

/-- Four operations wait: a terminal's operation is answered BUSY (R159). -/
def State.storeBusy (s : State) : Bool := 4 ≤ s.store.waiting.length

/-- The place of a HELD offer: the first of the queue, or of the internal waiting list when four wait (R161). -/
def offerInto (ops : List StoreOp) (op : StoreOp) : List StoreOp :=
  if ops.length < 4 then op :: ops else ops.take 4 ++ op :: ops.drop 4

/-- Whether a keep of a record waits or is in flight (R161). -/
def State.keepPending (s : State) (coil : Nat) : Bool :=
  s.store.waiting.any (fun o => o == .keep coil) || s.store.inFlight.any (fun f => f.op == .keep coil)

/-- The waiting operations with a HELD offer in them, if the HELD slot holds a record not kept and not offered (R161). -/
def State.offerHeld (s : State) : List StoreOp :=
  match s.coil.heldSlot with
  | some r => if s.recordKept r || s.keepPending r.coil then s.store.waiting else offerInto s.store.waiting (.keep r.coil)
  | none => s.store.waiting

/-- A HELD offer queued, and begun at once when the store is IDLE (R161). -/
def queueOffer (s : State) : State :=
  let ops := s.offerHeld
  if s.storeIdle then startNext ops s else s.withStore { s.store with waiting := ops }

/-- A sealed record handed to the store (R153): a HELD offer goes before it (R161). -/
def handSeal (coil : Nat) (s : State) : State := enqueue (.keep coil) (queueOffer s)

/-- Whether the bank at the write pointer could be used or erased (R160, R161). -/
def State.pointerUsable (s : State) : Bool :=
  let p := s.store.pointer
  let b := if p % 16 = 0 then p / 16 else nextBank (p / 16)
  (p % 16 != 0 && s.sectorClass p == .erased) || s.bankErased b || s.bankErasable b

/-- The end of an operation (R159, R161): FULL is judged again, a completion that clears it brings a HELD offer, and the oldest
waiting operation begins in the same event. DESIGN CHOICE (log entry 43): the offer is queued before that operation
begins, so it goes first, or behind all four where four wait. -/
def endOp (s : State) : State :=
  let s1 := s.withStore { s.store with inFlight := none }
  if s1.store.full && s1.pointerUsable then
    let s2 := s1.withStore { s1.store with full := false }
    startNext s2.offerHeld s2
  else startNext s1.store.waiting s1

/-! ### Programming (R163) -/

/-- The error counts after a program step (R163). DESIGN CHOICE (log entry 43): a step adds one however many of its bytes differ. -/
def countStep (r : StepResult) (s : State) : State :=
  match r with
  | .good => s
  | .addressError => s.withStore { s.store with addressErrors := holdInc 65535 s.store.addressErrors }
  | .dataError => s.withStore { s.store with dataErrors := holdInc 65535 s.store.dataErrors }

/-- A program step in the node's store, with its error counted (R163). -/
def programNow (wear : Wear) (a : Nat) (bytes : List Byte) (s : State) : State × StepResult :=
  let (m, r) := s.memory.program wear a bytes
  (countStep r { s with memory := m }, r)

/-- A VOID-MARK of a failed sector (R163): the marker is programmed without an erased check, read back, and the sector's class
set. A record anchored at the sector loses its anchor. The other fields of the entry are those that a scan would give it
(R171; log entry 41). -/
def voidMark (wear : Wear) (p : Nat) (s : State) : State :=
  let a := sectorBase p + 255
  let m := s.memory.burn wear a voidMarker
  let good := m.read a = voidMarker
  let s1 := if good then { s with memory := m } else countStep .dataError { s with memory := m }
  let s2 := s1.setEntry p (headedEntry m p (if headerValid m p && good then .void else .damaged))
  let unanchor (r : CoilRecord) : CoilRecord := if r.anchor = some p then { r with anchor := none } else r
  { s2 with coil := { s2.coil with
    openSlot := s2.coil.openSlot.map unanchor
    closingSlot := s2.coil.closingSlot.map unanchor
    heldSlot := s2.coil.heldSlot.map unanchor } }

/-! ### The steps of an operation (R160, R163, R164, R172, R183) -/

/-- A sector programmed for a record: its class, station and coil number, not collected (R162, R164). -/
def recordEntry (cls : SectorClass) (station : Station) (coil : Nat) : SectorEntry :=
  { cls := cls, station := station, coil := coil, collected := false }

/-- The bytes that a program step of an operation writes in a sector, and where (R162, R164, R172, R183). -/
def programmed (op : StoreOp) (p : Nat) (s : State) : Nat × List Byte :=
  match op with
  | .programHeader _ image => (sectorBase p, image)
  | .keep coil =>
    match s.findRecord coil with
    | some r => if r.anchor = some p then (sectorBase p + 32, bodyBytes r) else (sectorBase p, recordBytes r)
    | none => (sectorBase p, [])
  | .lostRecord _ =>
    if bodyErased s.memory p then (sectorBase p + 32, lostBytes) else (sectorBase p + 255, [lostMarker])
  | .commit image _ => (sectorBase p, image)
  | _ => (sectorBase p, [])

/-- What a program step that has succeeded makes of the sector's entry and of the record's anchor (R162, R164, R172). -/
def entered (op : StoreOp) (p : Nat) (s : State) : State :=
  match op with
  | .programHeader coil _ =>
    (s.setEntry p (recordEntry .openOnly s.station coil)).updateRecord coil (fun r => { r with anchor := some p })
  | .keep coil =>
    match s.findRecord coil with
    | some r => (s.setEntry p (recordEntry .sealed r.station coil)).updateRecord coil (fun q => { q with anchor := some p })
    | none => s
  | .lostRecord _ => s.setEntry p { s.sectorEntry p with cls := .lost }
  | _ => s

/-- What follows a step: another one, in a keep's retry or not, or the end of the operation, as a success or not. -/
inductive Onward where
  | next (step : StoreStep) (retry : Bool)
  | done (good : Bool)
  deriving DecidableEq, Repr

/-- The end of a program step (R163): what it wrote, and a VOID-MARK of the sector where it failed. A commit is not
void-marked (R183). -/
def endProgram (wear : Wear) (f : InFlight) (p : Nat) (s : State) : State × Onward :=
  let x := programmed f.op p s
  match programNow wear x.1 x.2 s, f.op with
  | (s1, .good), _ => (entered f.op p s1, .done true)
  | (s1, _), .commit _ _ => (s1, .done false)
  | (s1, _), _ => (s1, .next (.void p) f.retry)

/-- The end of a VOID-MARK (R163, R164): a keep searches again for its retry, and its second failure sets FAULT. DESIGN CHOICE (log
entry 53): the search of the retry counts the banks it judges from 0, and may judge again one that the first search judged. -/
def endVoid (wear : Wear) (f : InFlight) (p : Nat) (s : State) : State × Onward :=
  let s1 := voidMark wear p s
  match f.op, f.retry with
  | .keep _, false =>
    match searchSector s1 with
    | (s2, step) => (s2, .next step true)
  | .keep _, true => (s1.withStore { s1.store with fault := true }, .done false)
  | _, _ => (s1, .done false)

/-- The end of the step in flight (R160, R163, R164). -/
def endStep (wear : Wear) (f : InFlight) (s : State) : State × Onward :=
  match f.step with
  | .work => (s, .done true)
  | .nothing => (s, .done false)
  | .erase b judged =>
    if b = 0 then (eraseBankNow wear 0 s, .next (.program 0) f.retry)
    else
      match searchOn wear b judged s with
      | (s1, step) => (s1, .next step f.retry)
  | .program p => endProgram wear f p s
  | .void p => endVoid wear f p s

/-- The step in flight and those that follow it, at once, to the end of the operation: the node after them, and whether it has
succeeded. An operation has fewer than 40 steps: two searches of at most 15 erase steps, each with a program step and a
VOID-MARK. -/
def runSteps (wear : Wear) : Nat → InFlight → State → State × Bool
  | 0, _, s => (s, false)
  | n + 1, f, s =>
    match endStep wear f s with
    | (s1, .done good) => (s1, good)
    | (s1, .next step retry) => runSteps wear n { f with step := step, retry := retry } s1

/-- All the steps of an operation in flight, from the present one on. -/
def runOp (wear : Wear) (f : InFlight) (s : State) : State × Bool := runSteps wear 40 f s

end Sys2Proof.Machine
end

