-- ==== Sys2Proof/Machine/Channels.lean ====
section
/-! DEFINITION. The count channels (chapter 1): allocation (R2), the adjustment of requests (R6), starting, stopping and
triggering a channel (R5, R7 to R9), what an expiry does to it (R10 to R15), and the meanings of the six commands of
that chapter. Expiries that an owner takes stand in the owner's file and call `expireChannel`. -/

namespace Sys2Proof.Machine

/-! ### Allocation (Table 1-3) -/

/-- Whether a channel is allocated by the roles in force (R2). In UNSET none is. -/
def State.allocated (s : State) (i : Fin 8) : Bool :=
  s.begun &&
    match i with
    | 0 => s.settings.twist || s.settings.knot
    | 1 => s.settings.twist || s.settings.knot
    | 2 => s.settings.twist || s.settings.knot
    | 3 => s.settings.twist
    | 4 => s.settings.twist
    | 5 => s.settings.twist
    | 6 => true
    | 7 => s.settings.coil

/-- The input of a channel under the roles in force (Table 1-3). -/
def State.allocatedInput (s : State) (i : Fin 8) : InputSignal :=
  match i with
  | 0 => if s.settings.knot then .inDraw else .none
  | 1 => if s.settings.twist then .spindle 0 else .none
  | 2 => if s.settings.twist then .spindle 1 else .none
  | 3 => .spindle 2
  | 4 => .spindle 3
  | _ => .none

/-- The row of the table by which an expiry of a channel in a mode reaches its owner; absent for a mode in which the owner
has no row (log entry 14). The lines of a window that opens are read from the pins as they are held (log entry 4). -/
def State.expiryRow (s : State) (i : Fin 8) (mode : RunMode) : Option Instr :=
  match i, mode with
  | 0, .interval => if s.settings.twist then some .stallCheck else none
  | 1, .count => if s.settings.twist then some (.spindleTurn 0) else none
  | 2, .count => if s.settings.twist then some (.spindleTurn 1) else none
  | 3, .count => if s.settings.twist then some (.spindleTurn 2) else none
  | 4, .count => if s.settings.twist then some (.spindleTurn 3) else none
  | 1, .delay => if s.settings.knot then some (.windowOpen s.pins.ks) else none
  | 2, .delay => if s.settings.knot then some .windowClose else none
  | 6, .interval => some .scanStart
  | 7, .pulse => some .cutPulseExpiry
  | 7, .delay => some .tallyWaitExpiry
  | _, _ => none

/-! ### Requests (R5, R6) -/

/-- Whether a mode counts edges' measurements up from 0. -/
def isMeasuring (m : RunMode) : Bool := m == .period || m == .width

/-- The trigger that a start request is taken with (Table 1-4): INPUT in PERIOD or WIDTH, OWNER for a chain on itself. -/
def adjustTrigger (i : Fin 8) (r : StartRequest) : Trigger :=
  if isMeasuring r.mode then .input else if r.trigger = .chain i then .owner else r.trigger

/-- Whether a trigger is CHAIN. -/
def isChain : Trigger → Bool
  | .chain _ => true
  | _ => false

/-- The reload that a start request is taken with (Table 1-4). The trigger is the adjusted one (log entry 15). -/
def adjustReload (i : Fin 8) (r : StartRequest) : BitVec 24 :=
  if r.reload = 0 ∧ (r.mode = .interval ∨ r.mode = .count ∨
      ((r.mode = .delay ∨ r.mode = .pulse) ∧ isChain (adjustTrigger i r) = true)) then 1 else r.reload

/-- The drive length that a start request is taken with (Table 1-4); a PULSE request without one is taken as one of 0. -/
def adjustDrive (r : StartRequest) : Option (BitVec 24) :=
  if r.mode = .pulse then some (if r.drive.getD 0 = 0 then 1 else r.drive.getD 0) else none

/-- The output action that a start request is taken with (Table 1-4). -/
def adjustAction (r : StartRequest) : OutputAction :=
  match r.action with
  | .toggle => if r.mode = .interval then .toggle else .none
  | .drive => if r.mode = .pulse then .drive else .none
  | .none => .none

/-- The tick unit that a start request is taken with (Table 1-4). -/
def adjustUnit (r : StartRequest) : TickUnit :=
  if r.mode = .count then .edges else if r.unit = .edges then .us1 else r.unit

/-- A start request adjusted by Table 1-4 (R6). -/
def adjustStart (i : Fin 8) (r : StartRequest) : StartRequest :=
  { mode := r.mode, unit := adjustUnit r, reload := adjustReload i r, drive := adjustDrive r, trigger := adjustTrigger i r,
    action := adjustAction r }

/-- A channel's record as a start request, already adjusted, leaves it in ARMED (R5). -/
def armedChannel (input : InputSignal) (r : StartRequest) : Channel :=
  { mode := some r.mode
    state := .armed
    unit := r.unit
    count := if isMeasuring r.mode then 0 else r.reload
    reload := r.reload
    drive := r.drive
    pendingReload := none
    capture := 0
    captureSaturated := false
    trigger := r.trigger
    input := input
    action := r.action
    level := false
    divider := 0 }

/-! ### Runs -/

/-- The state after a run that ends: IDLE with trigger OWNER, else ARMED again with the count at the reload (R12, R13). -/
def Channel.finished (c : Channel) : Channel :=
  if c.trigger = .owner then { c with state := .idle, count := 0 } else { c with state := .armed, count := c.reload }

/-- The count and reload after an expiry that goes on (R10, R11). -/
def Channel.reloaded (c : Channel) : Channel :=
  { c with count := c.pendingReload.getD c.reload, reload := c.pendingReload.getD c.reload, pendingReload := none }

/-- The end of a PULSE channel's delay (R13). -/
def Channel.driven (c : Channel) : Channel :=
  { c with state := .driving, count := c.drive.getD 1, level := c.action == .drive }

/-- What an expiry does to a counting-down channel (R10 to R13). -/
def Channel.expired (c : Channel) : Channel :=
  match c.mode with
  | some .interval => { c.reloaded with level := if c.action = .toggle then !c.level else c.level }
  | some .count => c.reloaded
  | some .delay => c.finished
  | some .pulse => { c.finished with level := false }
  | _ => c

/-- Whether a channel can give an expiry in a mode: RUNNING in it, DRIVING in PULSE (R10 to R13), and in COUNT with an input to
count (R6). -/
def Channel.expiresIn (c : Channel) (mode : RunMode) : Bool :=
  c.mode == some mode && c.state == (if mode = .pulse then .driving else .running) && (mode != .count || c.input != .none)

/-- The triggers that an expiry of a channel gives: to every channel ARMED with CHAIN on it (R7). -/
def State.chained (s : State) (i : Fin 8) : List Instr :=
  ((List.finRange 8).filter (fun j => (s.channel j).state == .armed && (s.channel j).trigger == .chain i)).map
    (fun j => .channelTrigger j (.chain i))

/-- The expiry of a channel in a mode (R17): its record changes, and the channels chained on it are triggered. A channel that
is not running in that mode has no run to end, and stays (log entry 14). -/
def expireChannel (i : Fin 8) (mode : RunMode) (s : State) : State :=
  if (s.channel i).expiresIn mode then (s.setChannel i (s.channel i).expired).emit (s.chained i) else s

/-- The end of a PULSE channel's delay (R13): a drive-start notice is no expiry. -/
def driveChannel (i : Fin 8) (s : State) : State :=
  if (s.channel i).mode = some .pulse ∧ (s.channel i).state = .running then s.setChannel i (s.channel i).driven else s

/-- The owner's row of an expiry, if it has one, is given to it (R17). -/
def giveRow (i : Fin 8) (mode : RunMode) (s : State) : State := s.emit (s.expiryRow i mode).toList

/-- A channel expires: its record changes in this event, and its owner takes the expiry in a later one (R17). A channel that is
not running in the mode gives none. DESIGN CHOICE (log entry 43): the triggers of the channels chained on it are given before
its owner's row. -/
def giveExpiry (i : Fin 8) (mode : RunMode) (s : State) : State :=
  if (s.channel i).expiresIn mode then giveRow i mode (expireChannel i mode s) else s

/-- A PULSE channel's drive start, given as its owner's row where there is one (R13). -/
def giveDrive (i : Fin 8) (s : State) : State :=
  let s1 := driveChannel i s
  if i = 7 then s1.emit [.cutDriveStart] else s1

/-- A DELAY channel that entered RUNNING with a reload of 0, whose expiry is an event that is still to come (R12). -/
def Channel.expiryWaits (c : Channel) : Bool := c.mode == some .delay && c.state == .running && c.count == 0

/-- An owner's row for an expiry as the channel takes it (log entry 14). `given` says that the row was due: then the channel
changed in the event that gave it. A row that is commanded is the expiry itself. -/
def takeExpiry (given : Bool) (i : Fin 8) (mode : RunMode) (s : State) : State := if given then s else expireChannel i mode s

/-- A channel entering RUNNING (R5, R7): count and divider, and the drive start of a PULSE with a reload of 0 (R13). A DELAY with
a reload of 0 stands in RUNNING with a count of 0 until its expiry, which is an event of its own (R12). DESIGN CHOICE (log entry 43):
the drive start of such a PULSE is part of the start or trigger itself, so that CUT is high right after it. -/
def runChannel (i : Fin 8) (s : State) : State :=
  let c := s.channel i
  let measuring := c.mode.any isMeasuring
  let s1 := s.setChannel i { c with state := .running, count := if measuring then 0 else c.reload, divider := 0 }
  if c.mode == some .pulse && c.reload == 0 then giveDrive i s1 else s1

/-- A start request at an allocated channel (R5). -/
def startChannel (i : Fin 8) (r : StartRequest) (s : State) : State :=
  let a := adjustStart i r
  let s1 := s.setChannel i (armedChannel (s.allocatedInput i) a)
  if !isMeasuring a.mode && a.trigger == .owner then runChannel i s1 else s1

/-- A stop request (R8). DESIGN CHOICE (log entry 43): the drive length and the input are kept too, which R8 names neither among
what is kept nor among what is removed. -/
def Channel.stopped (c : Channel) : Channel :=
  if c.state = .idle then c else { c with state := .idle, count := 0, pendingReload := none, level := false }

/-- Whether an event is the trigger that an ARMED channel waits for (R7). With no allocated input there is no edge (R6). -/
def Channel.takesTrigger (c : Channel) (e : TriggerEvent) : Bool :=
  c.state == .armed &&
    match e, c.trigger with
    | .input, .input => c.input != .none
    | .chain j, .chain k => j == k
    | .line m, .line n => m == n
    | _, _ => false

/-- The largest count (R16). -/
def maxCount : BitVec 24 := 0xFFFFFF

/-- A measurement ended by an edge (R14, R15, R16): the count is captured. -/
def Channel.captured (c : Channel) (value : BitVec 24) : Channel :=
  { c with capture := value, captureSaturated := value == maxCount, count := 0 }

/-- The expiry of a WIDTH channel (R15): capture, and ARMED again with the count at 0. -/
def widthExpiry (i : Fin 8) (value : BitVec 24) (s : State) : State :=
  let c := s.channel i
  if c.mode = some .width ∧ c.state = .running ∧ c.input ≠ .none then
    (s.setChannel i { c.captured value with state := .armed }).emit (s.chained i)
  else s

/-- The expiry of a PERIOD channel (R14): capture, and the next measurement. -/
def periodExpiry (i : Fin 8) (s : State) : State :=
  let c := s.channel i
  if c.mode = some .period ∧ c.state = .running ∧ c.input ≠ .none then
    (s.setChannel i { c.captured c.count with divider := 0 }).emit (s.chained i)
  else s

/-- An active edge at a channel that counts edges (R11). -/
def countEdge (i : Fin 8) (s : State) : State :=
  let c := s.channel i
  if c.count.toNat ≤ 1 then giveExpiry i .count s else s.setChannel i { c with count := c.count - 1 }

/-- An active edge of a channel's input (R4, R7, R11, R14). A channel with no input, in another state or in a mode that uses no
edges does not use it. -/
def activeEdge (i : Fin 8) (s : State) : State :=
  let c := s.channel i
  if c.takesTrigger .input then runChannel i s
  else if c.state = .running ∧ c.input ≠ .none then
    match c.mode with
    | some .count => countEdge i s
    | some .period => periodExpiry i s
    | _ => s
  else s

/-- The row by which the capture of a WIDTH channel reaches its owner, where it has one (R15, R78). -/
def captureRow (i : Fin 8) (c : Channel) : List Instr :=
  if i = 0 then [.drawWidthCapture c.count (c.count == maxCount)] else []

/-- An inactive edge of a channel's input (R4, R15): the end of a measurement in WIDTH mode, and no use in any other. -/
def inactiveEdge (i : Fin 8) (s : State) : State :=
  let c := s.channel i
  if c.mode = some .width ∧ c.state = .running ∧ c.input ≠ .none then (widthExpiry i c.count s).emit (captureRow i c) else s

/-- An edge of a channel's input (R4). -/
def inputEdge (i : Fin 8) (active : Bool) (s : State) : State := if active then activeEdge i s else inactiveEdge i s

/-- The edges of the in-draw signal at CH0, whose input it is on a KNOT node (R78). -/
def drawEdge (rising : Bool) (s : State) : State := if (s.channel 0).input = .inDraw then inputEdge 0 rising s else s

/-- A request to CH5 with the follow half-period (R56): INTERVAL of 1 µs, TOGGLE on REF. -/
def intervalRequest (unit : TickUnit) (reload : Nat) (action : OutputAction) : StartRequest :=
  { mode := .interval, unit := unit, reload := BitVec.ofNat 24 reload, drive := none, trigger := .owner, action := action }

/-- A request for a DELAY (Table 1-3). -/
def delayRequest (unit : TickUnit) (reload : Nat) : StartRequest :=
  { mode := .delay, unit := unit, reload := BitVec.ofNat 24 reload, drive := none, trigger := .owner, action := .none }

/-! ### The channels' commands -/

/-- CHANNEL_START_REQUEST (R5, R6). A channel without an entry for the node's roles stays IDLE (R2). -/
def execChannelStartRequest (i : Fin 8) (r : StartRequest) (s : State) : Host.Outcome State Fault Refusal :=
  let s0 := s.take (.channelStartRequest i r)
  .next (if s0.allocated i then startChannel i r s0 else s0)

/-- CHANNEL_STOP_REQUEST (R8). -/
def execChannelStopRequest (i : Fin 8) (s : State) : Host.Outcome State Fault Refusal :=
  let s0 := s.take (.channelStopRequest i)
  .next (s0.setChannel i (s0.channel i).stopped)

/-- SET_NEXT_RELOAD (R9): pending while RUNNING, at once while ARMED, in INTERVAL or COUNT mode; 0 is taken as 1 (R6). -/
def execSetNextReload (i : Fin 8) (reload : BitVec 24) (s : State) : Host.Outcome State Fault Refusal :=
  let s0 := s.take (.setNextReload i reload)
  let c := s0.channel i
  let m := if reload = 0 then 1 else reload
  .next (if c.mode = some .interval ∨ c.mode = some .count then
    match c.state with
    | .running => s0.setChannel i { c with pendingReload := some m }
    | .armed => s0.setChannel i { c with reload := m, count := m }
    | _ => s0
  else s0)

/-- CHANNEL_TRIGGER (R7). -/
def execChannelTrigger (i : Fin 8) (e : TriggerEvent) (s : State) : Host.Outcome State Fault Refusal :=
  let s0 := s.take (.channelTrigger i e)
  .next (if (s0.channel i).takesTrigger e then runChannel i s0 else s0)

/-- INTERVAL_EXPIRY (R10, R17): the channel reloads, and the row of its owner, where it has one, is due. -/
def execIntervalExpiry (i : Fin 8) (s : State) : Host.Outcome State Fault Refusal :=
  .next (giveExpiry i .interval (s.take (.intervalExpiry i)))

/-- PERIOD_CAPTURE (R14, R16): the capture, an expiry, and the next measurement. -/
def execPeriodCapture (i : Fin 8) (s : State) : Host.Outcome State Fault Refusal :=
  .next (periodExpiry i (s.take (.periodCapture i)))

end Sys2Proof.Machine
end

