-- ==== Sys2Proof/Machine/CoilOps.lean ====
section
/-! DEFINITION. The coil builder's shared operations: opening a coil (R138), ending one and the start of its cut (R140,
R142), the steps of CUT-DONE (R144, R145), logging (R146), the contributor list (R149), merging (R151), sealing (R153) and
the slots after a keep (R153, R154). The commands of chapter 8 stand in Coil.lean. -/

namespace Sys2Proof.Machine

/-- The state with its coil builder replaced. -/
def State.withCoil (s : State) (c : CoilBuilder) : State := { s with coil := c }

/-- The node with the record in the OPEN slot replaced. -/
def State.setOpen (s : State) (r : Option CoilRecord) : State := s.withCoil { s.coil with openSlot := r }

/-- The node with the record in the CLOSING slot replaced. -/
def State.setClosing (s : State) (r : Option CoilRecord) : State := s.withCoil { s.coil with closingSlot := r }

/-- The node with the record in the HELD slot replaced. -/
def State.setHeld (s : State) (r : Option CoilRecord) : State := s.withCoil { s.coil with heldSlot := r }

/-- The states in which the OPEN record is logged into and late tallies are counted (R146, R147, R150). -/
def RecordState.logs : RecordState → Bool
  | .opened => true
  | .ending => true
  | .cutting => true
  | .ended => true
  | _ => false

/-- The advance of the line since a record's start, in µm (R30). -/
def State.segmentOf (s : State) (r : CoilRecord) : Int := s.lineLength - r.startMicrometres

/-! ### Opening (R138, R139) -/

/-- A contributor entry as it is listed, the node's own at the open (R137, R138). DESIGN CHOICE (log entry 46): its halts, flags
and origin, which R137 has from its tally or the seal, are 0, clear and NONE until one of them gives others. -/
def ownContributor (station : Station) : Contributor :=
  { station := station, listed := true, status := .expected, halts := 0, flags := clearFlags, origin := 0 }

/-- A record as it enters the OPEN slot (R138). -/
def newRecord (s : State) (coil : Nat) : CoilRecord where
  state := .opened
  heldBack := false
  station := s.station
  group := s.settings.group
  net := s.settings.knot
  coil := coil
  startLength := mmOf s.lineLength
  startMicrometres := s.lineLength
  target := s.coil.pendingTarget
  anchor := none
  endReason := none
  cutDriven := false
  segment := none
  halts := []
  haltCount := 0
  splices := []
  spliceCount := 0
  ownHalts := 0
  lateCount := 0
  twist := none
  knot := none
  contributors := [ownContributor s.station]
  flags := clearFlags
  awaitTwist := false
  awaitKnot := false

/-- The number after a coil's: EXHAUSTED after the last (R138). -/
def nextCoil (n : Nat) : Option Nat := if n < 4294967295 then some (n + 1) else none

/-- A coil opens, or EXHAUSTED sets the coil hold (R138). DEDUCED (log entry 45): the conversion of a negative line length to the
start length sets RNG, as R29 says of this conversion, though R138 says that the arithmetic status is not touched. -/
def openCoil (s : State) : State :=
  match s.coil.next with
  | none => s.emit [.coilHoldSet]
  | some n =>
    let r := newRecord s n
    let s1 := (convertFlag s.lineLength s).withCoil { s.coil with openSlot := some r, next := nextCoil n }
    enqueue (.programHeader n (headerBytes r)) s1

/-- The clear of the coil hold, requested unless the next coil number is EXHAUSTED (R139, log entry 16). -/
def clearHold (s : State) : State := if s.coil.next.isSome then s.emit [.coilHoldClear] else s

/-! ### The end of a coil and the cut (R140 to R142) -/

/-- The start request of a cut (R142). -/
def cutStart (g : Settings) : StartRequest :=
  { mode := .pulse, unit := .ms1, reload := BitVec.ofNat 24 g.cutDelay, drive := some (BitVec.ofNat 24 g.cutPulse),
    trigger := .owner, action := .drive }

/-- The cut of the OPEN record starts, or starts again (R141, R142). -/
def startCut (r : CoilRecord) (s : State) : State :=
  (s.withCoil { s.coil with openSlot := some { r with state := .cutting }, restLeft := none, cutLeft := none }).emit
    [.channelStartRequest 7 (cutStart s.settings)]

/-- The cut of a record that has waited in ENDING starts, and the hold is asked for again (R139, R142). -/
def startWaitingCut (r : CoilRecord) (s : State) : State := (startCut r s).emit [.coilHoldSet]

/-- Whether the cut of an ENDING record may start (R142). -/
def State.cutMayStart (s : State) : Bool :=
  s.meter.atRest && !s.coil.closingSlot.any (fun r => r.state == .gathering)

/-- The rest timer starts, or starts again (R142). -/
def restAgain (s : State) : State := s.withCoil { s.coil with restLeft := some (ofMs 100) }

/-- The judgment on entering ENDING (R142): the cut starts, or the rest timer does. -/
def judgeCut (r : CoilRecord) (s : State) : State := if s.cutMayStart then startCut r s else restAgain s

/-- The judgment in an event that ends a gathering (R142). -/
def judgeAfterGathering (s : State) : State :=
  match s.coil.openSlot with
  | some r => if r.state = .ending ∧ s.cutMayStart then startWaitingCut r s else s
  | none => s

/-- The OPEN record ends and its rest check begins (R140, R141). -/
def endCoil (reason : EndReason) (r : CoilRecord) (s : State) : State :=
  let r1 := { r with state := .ending, endReason := some reason }
  let s1 := (s.setOpen (some r1)).emit ((if reason = .target then [.raiseCause .coilEnd] else []) ++ [.coilHoldSet])
  judgeCut r1 s1

/-- The comparison of the segment with the target (R140). -/
def compareTarget (s : State) : State :=
  match s.coil.openSlot with
  | some r =>
    if s.coilNode ∧ r.state = .opened then
      let s1 := convertFlag (s.segmentOf r) s
      if r.target ≤ mmOf (s.segmentOf r) then endCoil .target r s1 else s1
    else s
  | none => s

/-! ### Contributors and merging (R149 to R151) -/

/-- A change of the entry of one station. -/
def changeContributor (station : Station) (f : Contributor → Contributor) (r : CoilRecord) : CoilRecord :=
  { r with contributors := r.contributors.map (fun c => if c.station = station then f c else c) }

/-- Whether every entry is RECEIVED (R144 step 8). -/
def CoilRecord.complete (r : CoilRecord) : Bool := r.contributors.all (fun c => c.status == .received)

/-- Whether no entry is EXPECTED (R152). -/
def CoilRecord.gathered (r : CoilRecord) : Bool := r.contributors.all (fun c => c.status != .expected)

/-- Every EXPECTED entry made MISSING (R152, R155). -/
def CoilRecord.expire (r : CoilRecord) : CoilRecord :=
  { r with contributors := r.contributors.map (fun c => if c.status = .expected then { c with status := .missing } else c) }

/-- The contributor list completed (R149): HEARD peers with TWIST or KNOT, up to 15 entries. -/
def listContributors (s : State) (r : CoilRecord) : CoilRecord :=
  let heard := s.peers.filter (fun p => p.heard && (p.roles.getLsbD 7 || p.roles.getLsbD 6))
  { r with contributors := (r.contributors ++ heard.map (fun p => ownContributor p.station)).take 15 }

/-- The greatest total of a merge (R151, R53). -/
def topTotal : Nat := 4294967295

/-- The least of two values, an absent one taking no part (R151). -/
def leastOf : Option Nat → Option Nat → Option Nat
  | some a, some b => some (min a b)
  | some a, none => some a
  | none, b => b

/-- The greatest of two values, an absent one taking no part (R151). -/
def greatestOf : Option Nat → Option Nat → Option Nat
  | some a, some b => some (max a b)
  | some a, none => some a
  | none, b => b

/-- The lay windows of a part: its windows less its stalled (R151); a free value where that is below 0 (log entry 8). -/
def layWindowsOf (t : TwistTotals) : Nat :=
  if t.stalled ≤ t.windows then t.windows - t.stalled else Config.layWindowsBelowZero t.windows t.stalled

/-- A record's twist part before anything is merged into it. -/
def TwistMerge.zero : TwistMerge :=
  { windows := 0, outOfBand := 0, stalled := 0, layFaults := 0, minLay := none, maxLay := none, sumLay := 0, layWindows := 0 }

/-- A twist part merged (R151). -/
def mergeTwist (m : Option TwistMerge) (t : TwistTotals) : TwistMerge :=
  let b := m.getD .zero
  { windows := holdAdd topTotal b.windows t.windows
    outOfBand := holdAdd topTotal b.outOfBand t.outOfBand
    stalled := holdAdd topTotal b.stalled t.stalled
    layFaults := holdAdd topTotal b.layFaults t.layFaults
    minLay := leastOf b.minLay t.minLay
    maxLay := greatestOf b.maxLay t.maxLay
    sumLay := match t.meanLay with
      | some mean => b.sumLay + mean * layWindowsOf t
      | none => b.sumLay
    layWindows := match t.meanLay with
      | some _ => b.layWindows + layWindowsOf t
      | none => b.layWindows }

/-- A knot part merged (R151). -/
def mergeKnot (m : Option KnotCounts) (k : KnotCounts) : KnotCounts :=
  let b := m.getD zeroCounts
  { sampledRows := holdAdd topTotal b.sampledRows k.sampledRows
    unseenRows := holdAdd topTotal b.unseenRows k.unseenRows
    inchRows := holdAdd topTotal b.inchRows k.inchRows
    missedKnots := holdAdd topTotal b.missedKnots k.missedKnots
    headFaults := holdAdd topTotal b.headFaults k.headFaults
    meshWindows := holdAdd topTotal b.meshWindows k.meshWindows
    meshOutOfBand := holdAdd topTotal b.meshOutOfBand k.meshOutOfBand
    meshFaults := holdAdd topTotal b.meshFaults k.meshFaults }

/-- A part merged into a record (R151). -/
def mergePart (p : SegmentPart) (r : CoilRecord) : CoilRecord :=
  match p with
  | .twist t => { r with twist := some (mergeTwist r.twist t) }
  | .knot k => { r with knot := some (mergeKnot r.knot k) }

/-- The parts of a tally merged into a record (R151). -/
def mergeParts (t : Tally) (r : CoilRecord) : CoilRecord :=
  let r1 := match t.twist with
    | some p => mergePart (.twist p) r
    | none => r
  match t.knot with
  | some p => mergePart (.knot p) r1
  | none => r1

/-- A tally merged for a station that has an entry (R151). DESIGN CHOICE (log entry 47): an origin above 12 stands as the frame
carries it. -/
def mergeTally (station : Station) (t : Tally) (r : CoilRecord) : CoilRecord :=
  let r1 := mergeParts t { r with flags := r.flags.union t.flags }
  changeContributor station
    (fun c => { c with status := .received, halts := t.halts.toNat, flags := t.flags, origin := t.origin }) r1

/-- A tally taken for the gathering record (R150): merged, ignored as a duplicate, or merged for a station appended. -/
def gatherTally (station : Station) (t : Tally) (r : CoilRecord) : CoilRecord :=
  match r.contributors.find? (fun c => c.station == station) with
  | some c => if c.status = .expected then mergeTally station t r else r
  | none =>
    if r.contributors.length < 15 then
      mergeTally station t { r with contributors := r.contributors ++ [{ ownContributor station with listed := false }] }
    else r

/-- The own entry: its halts, and RECEIVED once every part asked for has been merged (R144 step 2). -/
def settleOwn (station : Station) (r : CoilRecord) : CoilRecord :=
  if r.awaitTwist || r.awaitKnot then r
  else changeContributor station (fun c => { c with halts := r.ownHalts, status := .received }) r

/-- The own statistics asked for at a coil's end (R144 step 2, R155). -/
def askOwn (g : Settings) (coil : Nat) : List Instr :=
  (if g.twist then [.twistSegmentRequest (BitVec.ofNat 32 coil)] else []) ++
    (if g.knot then [.knotSegmentRequest (BitVec.ofNat 32 coil)] else [])

/-- A record whose segment is fixed and whose own statistics are asked for (R144 steps 1 and 2, R155 step 2). DESIGN CHOICE (log
entry 52): at the emergency seal too a node with neither TWIST nor KNOT makes its own entry RECEIVED with its own halts; R144
states it for CUT-DONE, and R155 names only the asking. -/
def fixSegment (s : State) (r : CoilRecord) : CoilRecord :=
  settleOwn s.station { r with segment := some (mmOf (s.segmentOf r)), awaitTwist := s.settings.twist, awaitKnot := s.settings.knot }

/-- An own part merged into a record that waits for it in ENDED or GATHERING (R144 step 2, R151). -/
def takeOwnPart (station : Station) (p : SegmentPart) (r : CoilRecord) : CoilRecord :=
  let r1 := mergePart p r
  settleOwn station (match p with
    | .twist _ => { r1 with awaitTwist := false }
    | .knot _ => { r1 with awaitKnot := false })

/-! ### Sealing and the slots (R144, R145, R153, R154) -/

/-- A record as its seal leaves it (R153). -/
def CoilRecord.sealedBy (r : CoilRecord) (s : State) : CoilRecord := { r.withOwnFlags s with state := .sealing }

/-- The record in the CLOSING slot sealed (R153). -/
def sealClosing (r : CoilRecord) (s : State) : State :=
  handSeal r.coil (clearStatus (s.setClosing (some (r.sealedBy s))))

/-- The record in the OPEN slot sealed (R155 step 4); the coil hold is asked for (R139). -/
def sealOpen (r : CoilRecord) (s : State) : State :=
  (handSeal r.coil (clearStatus (s.setOpen (some (r.sealedBy s))))).emit [.coilHoldSet]

/-- The MARK of a cut or a splice with the line length (R144 step 4, R147). -/
def sendMark (kind : MarkKind) (coil : BitVec 32) (s : State) : State :=
  sendFrame (.mark kind coil (mmField s.lineLength)) (convertFlag s.lineLength s)

/-- Steps 4 to 8 of CUT-DONE (R144), for a record whose segment is fixed and which leaves the OPEN slot in this event. -/
def closeUp (r : CoilRecord) (s : State) : State :=
  let s4 := sendMark .cut (BitVec.ofNat 32 r.coil) (s.withCoil { s.coil with openSlot := none, closingSlot := some r })
  let s5 := clearHold (openCoil s4)
  let s6 := if s5.prot.causes.contains .coilEnd then s5.emit [.clearCause .coilEnd] else s5
  let r7 := listContributors s6 { r with state := .gathering }
  if r7.complete then sealClosing r7 s6
  else (s6.setClosing (some r7)).emit [.channelStartRequest 7 (delayRequest .ms1 s6.settings.tallyWait)]

/-- The effects of the CLOSING slot having emptied (R145): an ENDED record moves in. -/
def closingEmptied (s : State) : State :=
  match s.coil.openSlot with
  | some r => if r.state = .ended then closeUp r s else s
  | none => s

/-- The record in the HELD slot (R154). -/
def CoilRecord.asHeld (r : CoilRecord) : CoilRecord := { r with state := .held, heldBack := false }

/-- After the HELD slot has emptied, the oldest held-back record moves in, is offered, and its slot empties (R154). -/
def heldEmptied (s : State) : State :=
  match s.coil.closingSlot with
  | some r =>
    if r.heldBack then
      closingEmptied (queueOffer (s.withCoil { s.coil with closingSlot := none, heldSlot := some r.asHeld }))
    else heldFromOpen s
  | none => heldFromOpen s
where
  /-- The held-back record of the OPEN slot, if there is one (R154). -/
  heldFromOpen (s : State) : State :=
    match s.coil.openSlot with
    | some r =>
      if r.heldBack then
        clearHold (queueOffer (s.withCoil { s.coil with openSlot := none, heldSlot := some r.asHeld }))
      else s
    | none => s

/-- Whether a slot holds the record that a keep report is for: sealed, and not back in the making (R153, R154). -/
def slotHolds (slot : Option CoilRecord) (coil : Nat) : Bool :=
  slot.any (fun r => r.coil == coil && (r.state == .sealing || r.state == .held))

/-- A record not kept, in the CLOSING slot (R154). -/
def notKeptClosing (r : CoilRecord) (s : State) : State :=
  if s.coil.heldSlot.isNone then
    closingEmptied (s.withCoil { s.coil with closingSlot := none, heldSlot := some r.asHeld })
  else (s.setClosing (some { r with heldBack := true })).emit [.raiseCause .store]

/-- A record not kept, in the OPEN slot (R154). -/
def notKeptOpen (r : CoilRecord) (s : State) : State :=
  if s.coil.heldSlot.isNone then clearHold (s.withCoil { s.coil with openSlot := none, heldSlot := some r.asHeld })
  else (s.setOpen (some { r with heldBack := true })).emit [.raiseCause .store]

/-- A keep report (R153, R154). -/
def takeKeepReport (coil : Nat) (kept : Bool) (s : State) : State :=
  if slotHolds s.coil.heldSlot coil then (if kept then heldEmptied (s.setHeld none) else s)
  else if slotHolds s.coil.closingSlot coil then
    match s.coil.closingSlot, kept with
    | some _, true => closingEmptied (s.setClosing none)
    | some r, false => notKeptClosing r s
    | none, _ => s
  else if slotHolds s.coil.openSlot coil then
    match s.coil.openSlot, kept with
    | some _, true => clearHold (s.setOpen none)
    | some r, false => notKeptOpen r s
    | none, _ => s
  else s

/-! ### Logging (R146, R147) -/

/-- An entry logged into a record's halt list (R146). -/
def logNote (code : Byte) (station : Station) (offset : Nat) (stopped : Bool) (r : CoilRecord) : CoilRecord :=
  { r with
    haltCount := holdInc 65535 r.haltCount
    halts := if r.halts.length < 8 then
      r.halts ++ [{ code := code, station := station, offset := offset, stopped := stopped }] else r.halts }

/-- Whether a reason notice is of an own group-wide cause (R146, R148). -/
def State.ownGroupWide (s : State) (code : Byte) (station : Station) : Bool :=
  station == s.station && 1 ≤ code.toNat && code.toNat ≤ 13

/-- The flag of an offset that is appended to a list of `n` entries (R30): with 8 there none is taken (R146, R147). -/
def offsetFlag (n : Nat) (micrometres : Int) (s : State) : State := if n < 8 then convertFlag micrometres s else s

/-- A note logged in the OPEN record, if it is in a state that logs (R146, R147). -/
def logOpen (code : Byte) (station : Station) (stopped own : Bool) (s : State) : State :=
  match s.coil.openSlot with
  | some r =>
    if r.state.logs then
      let r1 := logNote code station (mmOf (s.segmentOf r)) stopped r
      (offsetFlag r.halts.length (s.segmentOf r) s).setOpen
        (some { r1 with ownHalts := if own then holdInc 255 r1.ownHalts else r1.ownHalts })
    else s
  | none => s

/-- The code of a splice note in the halt list (Table 10-9). -/
def spliceNote : Byte := 0x20

/-! ### Tallies of a node without COIL (R148) -/

/-- A part taken by the oldest forming tally that waits for one of its kind (R148 step 3). DESIGN CHOICE (log entry 49): the coil
number of the answer is not compared, since each monitor answers in the order it was asked; so an answer whose coil number no
forming tally carries fills that tally too. -/
def fillTally (p : SegmentPart) : List FormingTally → List FormingTally
  | [] => []
  | f :: fs =>
    match p with
    | .twist t =>
      if f.needTwist then { f with needTwist := false, tally := { f.tally with twist := some t } } :: fs
      else f :: fillTally p fs
    | .knot k =>
      if f.needKnot then { f with needKnot := false, tally := { f.tally with knot := some k } } :: fs
      else f :: fillTally p fs

/-- Whether every part asked for has come. -/
def FormingTally.ready (f : FormingTally) : Bool := !f.needTwist && !f.needKnot

/-- The TALLYs that are ready handed to the line, the oldest first (R148 step 3). -/
def releaseTallies (s : State) : State :=
  let ready := s.coil.forming.filter FormingTally.ready
  let s1 := s.withCoil { s.coil with forming := s.coil.forming.filter (fun f => !f.ready) }
  ready.foldl (fun t f => sendFrame (.tally f.destination f.tally) t) s1

end Sys2Proof.Machine
end

