-- ==== Sys2Proof/Machine/Coil.lean ====
section
/-! DEFINITION. The commands of the coil builder (chapter 8): the notices, buttons, expiries, questions and answers, the MARK
and TALLY frames handed to it and the store's keep report. -/

namespace Sys2Proof.Machine

/-- COIL_RUNNING_ENTRY (R138, R148): a coil opens in an empty OPEN slot; a node without COIL begins its segment. -/
def execCoilRunningEntry (s : State) : Host.Outcome State Fault Refusal :=
  let s0 := s.take .coilRunningEntry
  .next (if !s0.begun then s0
  else if s0.settings.coil then (if s0.coil.openSlot.isNone then openCoil s0 else s0)
  else if s0.coil.tally.begun then s0
  else s0.withCoil { s0.coil with tally := { s0.coil.tally with begun := true, startLength := s0.lineLength, halts := 0 } })

/-- CUT_REQUEST (R141). -/
def execCutRequest (s : State) : Host.Outcome State Fault Refusal :=
  let s0 := s.take .cutRequest
  .next (match s0.coil.openSlot with
  | some r =>
    if !s0.coilNode then s0
    else if r.state = .opened then (if s0.prot.permit = .running then s0 else endCoil .manual r s0)
    else if r.state = .cutting ∧ (s0.channel 7).state = .idle then startCut r s0
    else s0
  | none => s0)

/-- REST_TIMER_EXPIRY (R142). -/
def execRestTimerExpiry (s : State) : Host.Outcome State Fault Refusal :=
  let s0 := s.take .restTimerExpiry
  .next (match s0.coil.openSlot, s0.coil.restLeft with
  | some r, some _ => if r.state = .ending then (if s0.cutMayStart then startWaitingCut r s0 else restAgain s0) else s0
  | _, _ => s0)

/-- CUT_DRIVE_START (R13, R142): CH7 enters DRIVING, and the cut is driven for the record in the OPEN slot, whatever its state
(log entry 34). -/
def execCutDriveStart (s : State) : Host.Outcome State Fault Refusal :=
  let s0 := if s.due.contains .cutDriveStart then s.take .cutDriveStart else driveChannel 7 s
  .next (s0.setOpen (s0.coil.openSlot.map (fun r => { r with cutDriven := true })))

/-- CUT_PULSE_EXPIRY (R13, R143): CUT goes low, and in CUTTING the cut timer starts. -/
def execCutPulseExpiry (s : State) : Host.Outcome State Fault Refusal :=
  let s0 := takeExpiry (s.due.contains .cutPulseExpiry) 7 .pulse (s.take .cutPulseExpiry)
  .next (match s0.coil.openSlot with
  | some r =>
    if r.state = .cutting then s0.withCoil { s0.coil with cutLeft := some (ofMs s0.settings.cutDoneTimeout) } else s0
  | none => s0)

/-- CUT_TIMER_EXPIRY (R143). -/
def execCutTimerExpiry (s : State) : Host.Outcome State Fault Refusal :=
  let s0 := s.take .cutTimerExpiry
  .next (match s0.coil.openSlot, s0.coil.cutLeft with
  | some r, some _ =>
    let s1 := s0.withCoil { s0.coil with cutLeft := none }
    if r.state = .cutting then s1.emit [.raiseCause .cutter] else s1
  | _, _ => s0)

/-- CUT_ENDED_QUESTION (R143): answered yes when the coil state is not CUTTING. -/
def execCutEndedQuestion (s : State) : Host.Outcome State Fault Refusal :=
  let s0 := s.take .cutEndedQuestion
  .next (if s0.begun then s0.emit [.cutEndedAnswer (!s0.coil.openSlot.any (fun r => r.state == .cutting))] else s0)

/-- CUT_DONE (R144): taken in CUTTING only. -/
def execCutDone (s : State) : Host.Outcome State Fault Refusal :=
  let s0 := s.take .cutDone
  .next (match s0.coil.openSlot with
  | some r =>
    if s0.coilNode ∧ r.state = .cutting then
      let r2 := fixSegment s0 r
      let s1 := (convertFlag (s0.segmentOf r) s0).withCoil { s0.coil with cutLeft := none }
      let s2 := s1.emit (askOwn s0.settings r.coil)
      if s0.coil.closingSlot.isSome then
        (s2.setOpen (some { r2 with state := .ended })).emit [.channelStopRequest 7, .coilHoldSet]
      else closeUp r2 s2
    else s0
  | none => s0)

/-- SEGMENT_STATISTICS_ANSWER (R144, R148, R151, R152): merged into the record of the coil that asked, if it is ENDED or
GATHERING, or taken by the oldest forming tally of a node without COIL, whatever coil number it carries (log entry 49). -/
def execSegmentStatisticsAnswer (coil : BitVec 32) (p : SegmentPart) (s : State) : Host.Outcome State Fault Refusal :=
  let s0 := s.take (.segmentStatisticsAnswer coil p)
  .next (if !s0.begun then s0
  else if s0.settings.coil then
    match s0.coil.openSlot, s0.coil.closingSlot with
    | some r, c =>
      if r.coil = coil.toNat ∧ r.state = .ended then s0.setOpen (some (takeOwnPart s0.station p r)) else answerClosing c s0
    | none, c => answerClosing c s0
  else releaseTallies (s0.withCoil { s0.coil with forming := fillTally p s0.coil.forming }))
where
  /-- The answer taken by a GATHERING record; the merge that makes the last entry RECEIVED ends the gathering (R152). -/
  answerClosing (c : Option CoilRecord) (s0 : State) : State :=
    match c with
    | some r =>
      if r.coil = coil.toNat ∧ r.state = .gathering then
        let r1 := takeOwnPart s0.station p r
        if r1.gathered then judgeAfterGathering (sealClosing r1 (s0.emit [.channelStopRequest 7]))
        else s0.setClosing (some r1)
      else s0
    | none => s0

/-- REASON_NOTICE (R146, R148). -/
def execReasonNotice (code : Byte) (station : Station) (stopped : Bool) (s : State) : Host.Outcome State Fault Refusal :=
  let s0 := s.take (.reasonNotice code station stopped)
  let own := s0.ownGroupWide code station
  .next (if !s0.begun then s0
  else if s0.settings.coil then logOpen code station stopped own s0
  else if s0.coil.tally.begun && own then
    s0.withCoil { s0.coil with tally := { s0.coil.tally with halts := holdInc 255 s0.coil.tally.halts } }
  else s0)

/-- SPLICE (R147): ignored in RUNNING. -/
def execSplice (s : State) : Host.Outcome State Fault Refusal :=
  let s0 := s.take .splice
  .next (if !s0.begun ∨ s0.prot.permit = .running then s0
  else
    let s1 := sendMark .splice s0.currentCoil s0
    match s1.coil.openSlot with
    | some r =>
      if s1.settings.coil ∧ r.state.logs then
        (offsetFlag r.splices.length (s1.segmentOf r) s1).setOpen (some { r with
          spliceCount := holdInc 65535 r.spliceCount
          splices := if r.splices.length < 8 then r.splices ++ [mmOf (s1.segmentOf r)] else r.splices })
      else s1
    | none => s1)

/-- MARK_SPLICE_RECEIVED (R147): a splice note in the OPEN record of a COIL node. -/
def execMarkSpliceReceived (station : Station) (s : State) : Host.Outcome State Fault Refusal :=
  let s0 := s.take (.markSpliceReceived station)
  .next (if s0.coilNode then logOpen spliceNote station false false s0 else s0)

/-- A TALLY as it is formed (R148 step 3): the parts come later. -/
def formTally (coil : BitVec 32) (s : State) : Tally where
  coil := coil
  halts := BitVec.ofNat 8 s.coil.tally.halts
  flags := s.meter.flags
  origin := BitVec.ofNat 8 s.meter.origin.code
  twist := none
  knot := none

/-- MARK_CUT_RECEIVED (R148): no action on a COIL node. -/
def execMarkCutReceived (station : Station) (coil : BitVec 32) (s : State) : Host.Outcome State Fault Refusal :=
  let s0 := s.take (.markCutReceived station coil)
  .next (if !s0.begun ∨ s0.settings.coil then s0
  else
    let t := s0.coil.tally
    if !t.begun then s0.withCoil { s0.coil with tally := { t with lastCoil := coil } }
    else
      let length := s0.lineLength
      let s1 := (convertFlag (length - t.startLength) s0).emit (askOwn s0.settings coil.toNat)
      let formed : FormingTally :=
        { destination := station
          tally := formTally coil s1
          needTwist := s0.settings.twist
          needKnot := s0.settings.knot }
      releaseTallies ((clearStatus s1).withCoil { s1.coil with
        forming := s1.coil.forming ++ [formed]
        tally := ⟨true, length, 0, coil, mmOf (length - t.startLength)⟩ }))

/-- TALLY_RECEIVED (R150 to R152). -/
def execTallyReceived (station : Station) (t : Tally) (s : State) : Host.Outcome State Fault Refusal :=
  let s0 := s.take (.tallyReceived station t)
  .next (if !s0.coilNode then s0
  else
    match s0.coil.closingSlot with
    | some r =>
      if r.coil = t.coil.toNat ∧ r.state = .gathering then
        let r1 := gatherTally station t r
        if r1.gathered then judgeAfterGathering (sealClosing r1 (s0.emit [.channelStopRequest 7]))
        else s0.setClosing (some r1)
      else late s0
    | none => late s0)
where
  /-- A late tally, counted in the OPEN record (R150). -/
  late (s0 : State) : State :=
    match s0.coil.openSlot with
    | some r => if r.state.logs then s0.setOpen (some { r with lateCount := holdInc 65535 r.lateCount }) else s0
    | none => s0

/-- TALLY_WAIT_EXPIRY (R12, R152, R153). -/
def execTallyWaitExpiry (s : State) : Host.Outcome State Fault Refusal :=
  let s0 := takeExpiry (s.due.contains .tallyWaitExpiry) 7 .delay (s.take .tallyWaitExpiry)
  .next (match s0.coil.closingSlot with
  | some r => if r.state = .gathering then judgeAfterGathering (sealClosing r.expire s0) else s0
  | none => s0)

/-- KEEP_REPORT (R153, R154). -/
def execKeepReport (coil : BitVec 32) (kept : Bool) (s : State) : Host.Outcome State Fault Refusal :=
  .next (takeKeepReport coil.toNat kept (s.take (.keepReport coil kept)))

/-- HELD_BACK_QUESTION (R154): answered yes while any slot holds a record held back. -/
def execHeldBackQuestion (s : State) : Host.Outcome State Fault Refusal :=
  let s0 := s.take .heldBackQuestion
  .next (if s0.begun then s0.emit [.heldBackAnswer (s0.records.any CoilRecord.heldBack)] else s0)

/-- SUPPLY_NOTICE (R155): the emergency seal of a COIL node. -/
def execSupplyNotice (s : State) : Host.Outcome State Fault Refusal :=
  let s0 := s.take .supplyNotice
  .next (if !s0.coilNode then s0 else sealSupply (clearCoilEnd (endSupply (sealGathering s0))))
where
  /-- Step 1: a GATHERING record is sealed with what has come. -/
  sealGathering (t : State) : State :=
    match t.coil.closingSlot with
    | some r => if r.state = .gathering then sealClosing r.expire (t.emit [.channelStopRequest 7]) else t
    | none => t
  /-- Step 2: a coil in the making ends. -/
  endSupply (t : State) : State :=
    match t.coil.openSlot with
    | some r =>
      if r.state = .opened ∨ r.state = .ending ∨ r.state = .cutting then
        ((convertFlag (t.segmentOf r) t).withCoil { t.coil with
          openSlot := some { fixSegment t r with endReason := some .supply }
          restLeft := none
          cutLeft := none }).emit (.channelStopRequest 7 :: askOwn t.settings r.coil)
      else t
    | none => t
  /-- Step 3: COIL-END, if present, is to clear. -/
  clearCoilEnd (t : State) : State := if t.prot.causes.contains .coilEnd then t.emit [.clearCause .coilEnd] else t
  /-- Step 4: the record is sealed in the OPEN slot without gathering. -/
  sealSupply (t : State) : State :=
    match t.coil.openSlot with
    | some r => if r.state.logs then sealOpen r.expire t else t
    | none => t

end Sys2Proof.Machine
end

