-- ==== Sys2Proof/Machine/Meter.lean ====
section
/-! DEFINITION. The metering unit (chapter 2): quadrature counting (R21, R22), accumulation and its limits (R23, R24), the slip
check (R31, R32), speed and at rest (R26 to R28), the drift check (R33, R34), and the meanings of its commands. -/

namespace Sys2Proof.Machine

/-- The state with its metering unit replaced. -/
def State.withMeter (s : State) (m : Metering) : State := { s with meter := m }

/-! ### Counting and accumulation -/

/-- The forward order of Table 2-2, as a place from 0 to 3. -/
def pairPlace : Bool × Bool → Nat
  | (false, false) => 0
  | (true, false) => 1
  | (true, true) => 2
  | (false, true) => 3

/-- What a taken pair is to the reference pair (R21, R22). -/
inductive Transition where
  | same | count (k : Int) | invalid
  deriving DecidableEq, Repr

/-- The comparison of a taken pair with the reference pair (R21, R22), before the invert setting. -/
def transitionOf (reference taken : Bool × Bool) : Transition :=
  match (pairPlace taken + 4 - pairPlace reference) % 4 with
  | 0 => .same
  | 1 => .count 1
  | 2 => .invalid
  | _ => .count (-1)

/-- The upper limit of L in µm (Table 2-1). -/
def lengthTop : Int := 549755813887

/-- The lower limit of L in µm (Table 2-1). -/
def lengthBottom : Int := -549755813888

/-- One count accumulated (R23), the length held at its limits (R24), and the flag it sets. The divisions are floors. -/
def accumulate (g : EncoderSettings) (k : Int) (e : EncoderRecord) : EncoderRecord × Option ArithFlag :=
  let t := (e.residue : Int) + k * g.n
  let q := t.fdiv g.d
  let l := e.length + q
  let r := (t - q * g.d).toNat
  if lengthTop < l then ({ e with length := lengthTop, residue := r, limitReached := true }, some .ovf)
  else if l < lengthBottom then ({ e with length := lengthBottom, residue := r, limitReached := true }, some .unf)
  else ({ e with length := l, residue := r }, none)

/-- The settings of an encoder. -/
def Settings.encoder (g : Settings) : EncoderId → EncoderSettings
  | .a => g.encA
  | .b => g.encB

/-- The record of an encoder. -/
def Metering.encoder (m : Metering) : EncoderId → EncoderRecord
  | .a => m.encA
  | .b => m.encB

/-- The metering unit with an encoder's record replaced. -/
def Metering.setEncoder (m : Metering) (e : EncoderId) (r : EncoderRecord) : Metering :=
  match e with
  | .a => { m with encA := r }
  | .b => { m with encB := r }

/-- The origin of an encoder's flags (Table 2-8). -/
def meterOrigin : EncoderId → Origin
  | .a => .meterA
  | .b => .meterB

/-- An absent flag is no request. -/
def setFlagIf (flag : Option ArithFlag) (origin : Origin) (s : State) : State :=
  match flag with
  | some f => setFlag f origin s
  | none => s

/-! ### Slip -/

/-- A per-mille deviation of `actual` from `reference`, which is not 0 (R32, R34). -/
def perMille (actual reference : Int) : Nat := (actual - reference).natAbs * 1000 / reference.natAbs

/-- The slip in ‰ of the two advances (R32). -/
def slipOf (deltaA deltaB : Int) : Nat := perMille deltaB deltaA

/-- A slip check (R32), with both checkpoints moved (R31). -/
def checkSlip (s : State) : State :=
  let m := s.meter
  let slip := slipOf (m.encA.length - m.slipA) (m.encB.length - m.slipB)
  let s1 := if 65535 < slip then setFlag .rng .slip s else s
  let above := s.settings.slipLimit < min slip 65535
  let s2 := s1.withMeter { s1.meter with
    slipA := m.encA.length
    slipB := m.encB.length
    lastSlip := min slip 65535
    slipRun := if above && m.slipRun == 0 then 1 else 0 }
  if above && m.slipRun != 0 then s2.emit [.raiseCause .slip] else s2

/-- Whether a count of encoder A starts a slip check (R31). -/
def State.slipDue (s : State) : Bool :=
  s.settings.encA.enabled && s.settings.encB.enabled &&
    decide ((s.settings.slipStep : Int) * 1000 ≤ s.meter.encA.length - s.meter.slipA)

/-! ### A transition -/

/-- A count taken (R23, R24), the slip check of encoder A (R31), and the comparison with the target where the line length has
changed (R140). DESIGN CHOICE (log entry 43): the slip check comes before the comparison, so that SLIP is the origin where
both set RNG (R35). -/
def takeCount (e : EncoderId) (k : Int) (s : State) : State :=
  let (r, flag) := accumulate (s.settings.encoder e) k (s.meter.encoder e)
  let s1 := setFlagIf flag (meterOrigin e) (s.withMeter (s.meter.setEncoder e r))
  let s2 := if e = .a ∧ s1.slipDue = true then checkSlip s1 else s1
  if s2.lineLength = s.lineLength then s2 else compareTarget s2

/-- A level pair taken by an encoder's decoder (R21, R22). -/
def takePair (e : EncoderId) (pair : Bool × Bool) (s : State) : State :=
  let r := s.meter.encoder e
  let s1 := s.withMeter (s.meter.setEncoder e { r with reference := pair })
  match transitionOf r.reference pair with
  | .same => s
  | .invalid => s.withMeter (s.meter.setEncoder e { r with reference := pair, errors := holdInc 255 r.errors })
  | .count k => takeCount e (if (s.settings.encoder e).invert then -k else k) s1

/-- The pair that an encoder has taken last (R21). -/
def Pins.taken (p : Pins) : EncoderId → Bool × Bool
  | .a => p.encA
  | .b => p.encB

/-- The pair that the last sample of an encoder read (R21). -/
def Pins.read (p : Pins) : EncoderId → Bool × Bool
  | .a => p.readA
  | .b => p.readB

/-- The pins with a pair read by a sample of an encoder (R21). -/
def Pins.setRead (p : Pins) (e : EncoderId) (pair : Bool × Bool) : Pins :=
  match e with
  | .a => { p with readA := pair }
  | .b => { p with readB := pair }

/-- The pins with an encoder's lines at a pair, read and taken. -/
def Pins.setEncoder (p : Pins) (e : EncoderId) (pair : Bool × Bool) : Pins :=
  match e with
  | .a => { p with encA := pair, readA := pair }
  | .b => { p with encB := pair, readB := pair }

/-- One sample of an encoder's lines (R21): a pair read on two successive samples is taken, and one that differs from the pair
taken before is an event of an encoder that counts. -/
def samplePair (e : EncoderId) (s : State) (pair : Bool × Bool) : State :=
  if s.pins.read e ≠ pair then { s with pins := s.pins.setRead e pair }
  else if s.pins.taken e = pair then s
  else
    let s1 := { s with pins := s.pins.setEncoder e pair }
    if s.begun && (s.settings.encoder e).enabled then s1.emit [.encoderTransition e pair.1 pair.2] else s1

/-! ### Speed -/

/-- The result of a speed evaluation, in mm/s (R26): truncated toward zero. -/
def speedResult (present kept : Int) : Int := (present - kept).tdiv 100

/-- The zero run after an evaluation (R28). -/
def nextZeroRun (result : Int) (run : Nat) : Nat := if result = 0 then holdInc 3 run else 0

/-- The µs between evaluations (R26). -/
def evaluationPeriod : Nat := 100000

/-! ### Drift -/

/-- The expected advance (R34). -/
def expectedAdvance (deltaPeer : Int) (ratio : Nat) : Int := (deltaPeer * ratio + 500).tdiv 1000

/-- A drift check (R34) against the reference. -/
def checkDrift (length : BitVec 32) (peer : Nat) (own : Int) (s : State) : State :=
  let expected := expectedAdvance ((length.toNat : Int) - peer) s.settings.takeUpRatio
  if expected < 100 then s
  else
    let drift := perMille ((s.lineLength - own).tdiv 1000) expected
    let s1 := if 65535 < drift then setFlag .rng .drift s else s
    let run := if s.settings.driftLimit < min drift 65535 then s1.meter.driftRun + 1 else 0
    let s2 := s1.withMeter { s1.meter with lastDrift := min drift 65535, driftRun := if 3 ≤ run then 0 else run }
    if 3 ≤ run then s2.emit [.raiseCause .drift] else s2

/-! ### The metering unit's commands -/

/-- ENCODER_TRANSITION (R20 to R24): a level pair is taken, and an encoder that counts judges it. Where the samples did not
bring the pair, the command shows the lines at it (log entry 4). -/
def execEncoderTransition (e : EncoderId) (line1 line2 : Bool) (s : State) : Host.Outcome State Fault Refusal :=
  let s0 := s.take (.encoderTransition e line1 line2)
  let s1 := if s.due.contains (.encoderTransition e line1 line2) then s0
    else { s0 with pins := s0.pins.setEncoder e (line1, line2) }
  .next (if s1.begun ∧ (s1.settings.encoder e).enabled = true then takePair e (line1, line2) s1 else s1)

/-- SPEED_EVALUATION (R26 to R28): with the at-rest notice and its decision in HALTING (R122). -/
def execSpeedEvaluation (s : State) : Host.Outcome State Fault Refusal :=
  let s0 := s.take .speedEvaluation
  .next (if !s0.begun then s0
  else
    let result := speedResult s0.lineLength s0.meter.keptLength
    let run := nextZeroRun result s0.meter.zeroRun
    let rests := s0.meter.atRest || run == 3
    let s1 := s0.withMeter { s0.meter with
      keptLength := s0.lineLength
      speed := min result.toNat 65535
      reverse := decide (result < 0)
      zeroRun := run
      atRest := result == 0 && rests
      evaluationLeft := some evaluationPeriod }
    let s2 := if 65535 < result then setFlag .rng .speed s1 else s1
    if !s0.meter.atRest ∧ s2.meter.atRest ∧ s2.prot.permit = .halting then refreshAlarm (haltingDecision s2) else s2)

/-- PACE_PART_TO_METERING (R33, R34). -/
def execPacePartToMetering (length : BitVec 32) (s : State) : Host.Outcome State Fault Refusal :=
  let s0 := s.take (.pacePartToMetering length)
  .next (if !s0.begun ∨ !s0.settings.driftCheck ∨ s0.settings.paceSource = 0 then s0
  else
    let s1 := match s0.meter.driftReference with
      | some (peer, own) => checkDrift length peer own s0
      | none => s0
    s1.withMeter { s1.meter with driftReference := some (length.toNat, s0.lineLength) })

/-- FLAG_SET_REQUEST (R35, R37). In UNSET the metering unit has not begun (R20), and no block asks. -/
def execFlagSetRequest (flag : ArithFlag) (origin : Origin) (s : State) : Host.Outcome State Fault Refusal :=
  let s0 := s.take (.flagSetRequest flag origin)
  .next (if s0.begun then setFlag flag origin s0 else s0)

end Sys2Proof.Machine
end

