-- ==== Sys2Proof/Machine/TwistMonitor.lean ====
section
/-! DEFINITION. The twist monitor (chapter 3): turns and windows (R41 to R44), the lay and its class (R45 to R47), the stall
check (R48 to R50), segment statistics (R52, R53), the follow reference (R54 to R58), and the meanings of its commands. -/

namespace Sys2Proof.Machine

/-- The state with its twist monitor replaced. -/
def State.withTwist (s : State) (t : Twist) : State := { s with twist := t }

/-- A spindle's record. -/
def State.spindle (s : State) (n : Fin 4) : Spindle := s.twist.spindles[n]

/-- A spindle's settings. -/
def State.spindleSettings (s : State) (n : Fin 4) : SpindleSettings := s.settings.spindles[n]

/-- The node with a spindle's record replaced. -/
def State.setSpindle (s : State) (n : Fin 4) (p : Spindle) : State :=
  s.withTwist { s.twist with spindles := s.twist.spindles.set n p }

/-- The turn channel of a spindle: CH1 for spindle 1 to CH4 for spindle 4 (R41). -/
def turnChannel (n : Fin 4) : Fin 8 := ⟨n.val + 1, by omega⟩

/-- Whether the twist monitor has taken the notice of entering RUNNING and not yet that of leaving it: a window of a fitted
spindle is OPEN (R42, R43). -/
def State.twistRunning (s : State) : Bool := s.twist.spindles.toList.any Spindle.windowOpen

/-! ### The lay (R45 to R47) -/

/-- The largest lay, mesh and half-period: 24 bits. -/
def topLay : Nat := 16777215

/-- The lay of a window of length `delta` µm and `n` turns (R45), and the flag it asks for. The mesh of R93 is rounded and
clamped alike. A quotient of 0 is a free value within the range of a lay (log entry 19). -/
def layOf (delta : Int) (n : Nat) : Nat × Option ArithFlag :=
  if delta ≤ 0 then (1, some .unf)
  else
    let l := (2 * delta.toNat + n) / (2 * n)
    if topLay < l then (topLay, some .ovf)
    else if l = 0 then (max 1 (min (Config.layBelowOne delta.toNat n) topLay), none)
    else (l, none)

/-- The tolerance of a spindle (R46). -/
def layTolerance (g : SpindleSettings) : Nat := g.target * g.tolerance / 1000

/-- The class of a lay (R46): both limits belong to the band. -/
def classOf (low high lay : Nat) : LayClass := if lay < low then .below else if high < lay then .above else .within

/-- Whether a class is out of band. -/
def LayClass.outOfBand : LayClass → Bool
  | .below => true
  | .above => true
  | _ => false

/-- The band run after a window with a lay, and whether a lay fault is made (R47). -/
def nextBandRun (cls : LayClass) (limit run : Nat) : Nat × Bool :=
  if cls.outOfBand then (if limit ≤ run + 1 then (0, true) else (run + 1, false)) else (0, false)

/-- The largest count of the segment statistics (Table 3-5). -/
def topWindows : Nat := 4294967295

/-- The count of the window's class, one more (R52). -/
def countClass (cls : LayClass) (t : SpindleStats) : SpindleStats :=
  match cls with
  | .within => { t with within := t.within + 1 }
  | .below => { t with below := t.below + 1 }
  | .above => { t with above := t.above + 1 }
  | .stalled => { t with stalled := t.stalled + 1 }
  | .none => t

/-- A window with a lay entered in the statistics (R52); nothing changes once windows stands at its maximum. -/
def enterLay (cls : LayClass) (lay : Nat) (fault : Bool) (t : SpindleStats) : SpindleStats :=
  if topWindows ≤ t.windows then t
  else
    { countClass cls t with
      windows := t.windows + 1
      layFaults := if fault then t.layFaults + 1 else t.layFaults
      minLay := leastOf t.minLay (some lay)
      maxLay := greatestOf t.maxLay (some lay)
      sumLay := t.sumLay + lay }

/-- A STALLED window entered in the statistics (R50, R52). -/
def enterStalled (t : SpindleStats) : SpindleStats :=
  if topWindows ≤ t.windows then t else { countClass .stalled t with windows := t.windows + 1 }

/-! ### Closes (R44, R49, R50) -/

/-- A spindle's record after a close with a lay: the new window begins at `begin` (R44, R49). -/
def closedSpindle (lay : Nat) (cls : LayClass) (run : Nat × Bool) (mark : Bool) (begin : Int) (p : Spindle) : Spindle :=
  { p with
    lastLay := some lay
    lastClass := cls
    bandRun := run.1
    stallRun := 0
    stats := enterLay cls lay run.2 p.stats
    closedMark := mark
    startLength := begin
    lastTurnLength := begin
    turns := 0 }

/-- A close that computes a lay over `n` turns up to the length `at` (R44, R49). -/
def closeWindow (n : Fin 4) (turns : Nat) (finish : Int) (mark : Bool) (s : State) : State :=
  let p := s.spindle n
  let (lay, flag) := layOf (finish - p.startLength) turns
  let cls := classOf p.bandLow p.bandHigh lay
  let run := nextBandRun cls (s.spindleSettings n).runLimit p.bandRun
  let s1 := setFlagIf flag (.lay n) s
  let s2 := if run.2 && s1.settings.layEscalate then s1.emit [.raiseCause .lay] else s1
  s2.setSpindle n (closedSpindle lay cls run mark finish p)

/-- A STALLED close (R50). -/
def stallWindow (n : Fin 4) (s : State) : State :=
  let p := s.spindle n
  let s1 := setFlag .dvz (.lay n) s
  let s2 := if p.stallRun = 0 then s1 else s1.emit [.raiseCause .strand]
  s2.setSpindle n { p with lastClass := .stalled, stats := enterStalled p.stats, stallRun := if p.stallRun = 0 then 1 else 0 }

/-- The stall check of one spindle (R48). -/
def checkStall (s : State) (n : Fin 4) : State :=
  let p := s.spindle n
  if !p.windowOpen then s
  else if p.closedMark then s.setSpindle n { p with closedMark := false }
  else if 0 < p.turns then closeWindow n p.turns p.lastTurnLength false s
  else stallWindow n s

/-- A turn counted into an OPEN window (R41). -/
def countTurn (n : Fin 4) (s : State) : State :=
  let p := s.spindle n
  let t := p.turns + 1
  if (s.spindleSettings n).turnsPerWindow ≤ t then closeWindow n t s.lineLength true s
  else s.setSpindle n { p with turns := t, lastTurnLength := s.lineLength }

/-! ### Segments (R53) -/

/-- A total over the spindles, held at its maximum (Table 3-6). -/
def totalOf (f : SpindleStats → Nat) (l : List SpindleStats) : Nat := min (l.map f).sum topWindows

/-- The lays that the windows of a spindle produced. -/
def SpindleStats.laysMade (t : SpindleStats) : Nat := t.within + t.below + t.above

/-- The twist node totals (Table 3-6). -/
def totalsOf (l : List SpindleStats) : TwistTotals :=
  let lays := (l.map SpindleStats.laysMade).sum
  { windows := totalOf SpindleStats.windows l
    outOfBand := totalOf (fun t => t.below + t.above) l
    stalled := totalOf SpindleStats.stalled l
    layFaults := totalOf SpindleStats.layFaults l
    minLay := l.foldl (fun m t => leastOf m t.minLay) none
    maxLay := l.foldl (fun m t => greatestOf m t.maxLay) none
    meanLay := if lays = 0 then none else some ((l.map SpindleStats.sumLay).sum / lays) }

/-! ### The follow reference (R54 to R58) -/

/-- FOLLOW is set on a TWIST node in operation (R54). -/
def State.follows (s : State) : Bool := s.twistNode && s.settings.follow

/-- Whether the follow reference is available (R54). -/
def Twist.available (t : Twist) : Bool := t.halfPeriod.isSome && t.flowing && t.condition != .lost

/-- The half-period of R55, and the flag it asks for. -/
def halfPeriodOf (target v pref : Nat) : Nat × Option ArithFlag :=
  let h := (1000 * target + v * pref) / (2 * v * pref)
  if h < 10 then (10, some .ovf) else if topLay < h then (topLay, some .unf) else (h, none)

/-- The start request to CH5 with a half-period (R56). -/
def startReference (h : Nat) : Instr := .channelStartRequest 5 (intervalRequest .us1 h .toggle)

/-- A start or stop request to CH5: whether CH5 runs once it has been taken. -/
def referenceRequest : Instr → Option Bool
  | .channelStartRequest 5 _ => some true
  | .channelStopRequest 5 => some false
  | _ => none

/-- Whether CH5 runs, once the start and stop requests to it that are due have been taken (R56; log entries 1 and 44). -/
def State.referenceRuns (s : State) : Bool :=
  ((s.due.filterMap referenceRequest).getLast?).getD ((s.channel 5).state != .idle)

/-- The start of CH5 at the entry into RUNNING, if the follow reference is available and CH5 is IDLE (R42, R56). -/
def referenceAtEntry (s : State) : List Instr :=
  match s.twist.halfPeriod with
  | some h => if s.follows && s.twist.available && !s.referenceRuns then [startReference h] else []
  | none => []

/-- CH5 as availability and a new half-period ask of it in RUNNING (R56). -/
def steerReference (renewed : Bool) (s : State) : State :=
  if !s.twistRunning then s
  else
    match s.twist.available, s.twist.halfPeriod with
    | true, some h =>
      if !s.referenceRuns then s.emit [startReference h]
      else if renewed then s.emit [.setNextReload 5 (BitVec.ofNat 24 h)]
      else s
    | _, _ => if s.referenceRuns then s.emit [.channelStopRequest 5] else s

/-- The pace source is heard again (R58). -/
def sourceRecovers (s : State) : State :=
  match s.twist.condition with
  | .tracking => s
  | .holding => s.withTwist { s.twist with condition := .tracking, holdLeft := none }
  | .lost => (s.withTwist { s.twist with condition := .tracking, holdLeft := none }).emit [.clearCause .paceLost]

/-! ### Start -/

/-- The start request of a turn channel (R41). -/
def turnRequest (g : SpindleSettings) : StartRequest :=
  { mode := .count, unit := .edges, reload := BitVec.ofNat 24 g.pulses, drive := none, trigger := .owner, action := .none }

/-- The start requests of the turn channels of the fitted spindles (R41, R42). -/
def turnStarts (g : Settings) : List Instr :=
  ((List.finRange 4).filter (fun n => g.spindles[n].fitted)).map
    (fun n => .channelStartRequest (turnChannel n) (turnRequest g.spindles[n]))

/-- The band of a fitted spindle, computed at start (R46). -/
def banded (g : SpindleSettings) (p : Spindle) : Spindle :=
  if g.fitted then { p with bandLow := g.target - layTolerance g, bandHigh := g.target + layTolerance g } else p

/-- The twist monitor begins (R41, R46). -/
def beginTwist (s : State) : State :=
  if s.settings.twist then
    (s.withTwist { s.twist with spindles := Vector.ofFn (fun n => banded (s.spindleSettings n) (s.spindle n)) }).emit
      (turnStarts s.settings)
  else s

/-! ### The twist monitor's commands -/

/-- SPINDLE_TURN (R11, R41): the expiry of the spindle's turn channel that its last active edge gave, or, where none is due, the
expiry itself (log entry 14). -/
def execSpindleTurn (n : Fin 4) (s : State) : Host.Outcome State Fault Refusal :=
  let s0 := takeExpiry (s.due.contains (.spindleTurn n)) (turnChannel n) .count (s.take (.spindleTurn n))
  .next (if s0.twistNode && (s0.spindle n).windowOpen then countTurn n s0 else s0)

/-- A spindle's record at the entry into RUNNING (R42). -/
def enteredSpindle (g : SpindleSettings) (length : Int) (p : Spindle) : Spindle :=
  if g.fitted then
    { p with windowOpen := true, turns := 0, startLength := length, lastTurnLength := length, closedMark := false }
  else p

/-- TWIST_RUNNING_ENTRY (R42). -/
def execTwistRunningEntry (s : State) : Host.Outcome State Fault Refusal :=
  let s0 := s.take .twistRunningEntry
  .next (if s0.twistNode then
    (s0.withTwist { s0.twist with
      spindles := Vector.ofFn (fun n => enteredSpindle (s0.spindleSettings n) s0.lineLength (s0.spindle n)) }).emit
      (turnStarts s0.settings ++ [.channelStartRequest 0 (intervalRequest .ms1 s0.settings.stallPeriod .none)] ++
        referenceAtEntry s0)
  else s0)

/-- A spindle's record as the node leaves RUNNING (R43). -/
def leftSpindle (g : SpindleSettings) (p : Spindle) : Spindle :=
  if g.fitted then { p with windowOpen := false, turns := 0, bandRun := 0, stallRun := 0, closedMark := false } else p

/-- TWIST_RUNNING_EXIT (R43). -/
def execTwistRunningExit (s : State) : Host.Outcome State Fault Refusal :=
  let s0 := s.take .twistRunningExit
  .next (if s0.twistNode then
    (s0.withTwist { s0.twist with
      spindles := Vector.ofFn (fun n => leftSpindle (s0.spindleSettings n) (s0.spindle n)) }).emit
      [.channelStopRequest 0, .channelStopRequest 5]
  else s0)

/-- STALL_CHECK (R10, R48): a window that is not OPEN was ended by the notice of leaving RUNNING and is not closed (R43). -/
def execStallCheck (s : State) : Host.Outcome State Fault Refusal :=
  let s0 := takeExpiry (s.due.contains .stallCheck) 0 .interval (s.take .stallCheck)
  .next (if s0.twistNode then (List.finRange 4).foldl checkStall s0 else s0)

/-- TWIST_SEGMENT_REQUEST (R53). -/
def execTwistSegmentRequest (coil : BitVec 32) (s : State) : Host.Outcome State Fault Refusal :=
  let s0 := s.take (.twistSegmentRequest coil)
  .next (if s0.twistNode then
    let fitted := (List.finRange 4).filter (fun n => (s0.spindleSettings n).fitted)
    (s0.withTwist { s0.twist with spindles := s0.twist.spindles.map (fun p => { p with stats := .zero }) }).emit
      [.segmentStatisticsAnswer coil (.twist (totalsOf (fitted.map (fun n => (s0.spindle n).stats))))]
  else s0)

/-- PACE_PART_TO_TWIST (R55, R56, R58). -/
def execPacePartToTwist (v : BitVec 16) (s : State) : Host.Outcome State Fault Refusal :=
  let s0 := s.take (.pacePartToTwist v)
  .next (if !s0.follows then s0
  else
    let s1 := sourceRecovers s0
    if v = 0 then steerReference false (s1.withTwist { s1.twist with flowing := false })
    else
      let (h, flag) := halfPeriodOf (s1.spindleSettings 0).target v.toNat s1.settings.pref
      let s2 := setFlagIf flag .follow s1
      steerReference true (s2.withTwist { s2.twist with halfPeriod := some h, flowing := true }))

/-- PACE_SOURCE_SILENT (R57): a pace hold of 0 expires at once. -/
def execPaceSourceSilent (s : State) : Host.Outcome State Fault Refusal :=
  let s0 := s.take .paceSourceSilent
  .next (if s0.follows ∧ s0.twist.condition = .tracking then
    let s1 := s0.withTwist { s0.twist with condition := .holding, holdLeft := some (ofMs s0.settings.paceHold) }
    if s0.settings.paceHold = 0 then s1.emit [.paceHoldExpiry] else s1
  else s0)

/-- PACE_HOLD_EXPIRY (R57). -/
def execPaceHoldExpiry (s : State) : Host.Outcome State Fault Refusal :=
  let s0 := s.take .paceHoldExpiry
  .next (if s0.follows ∧ s0.twist.condition = .holding then
    steerReference false ((s0.withTwist { s0.twist with condition := .lost, flowing := false, holdLeft := none }).emit
      [.raiseCause .paceLost])
  else s0)

/-- PACE_SOURCE_HEARD (R56, R58). -/
def execPaceSourceHeard (s : State) : Host.Outcome State Fault Refusal :=
  let s0 := s.take .paceSourceHeard
  .next (if s0.follows then steerReference false (sourceRecovers s0) else s0)

end Sys2Proof.Machine
end

