-- ==== Sys2Proof/Machine/KnotMonitor.lean ====
section
/-! DEFINITION. The knot monitor (chapter 5): shaft phase (R75 to R78), rows (R79 to R81), the sampling window (R82 to R87), the
row history with suspects and the consecutive-miss check (R88 to R91), mesh (R92 to R94), segment statistics (R95), and
the meanings of its commands. -/

namespace Sys2Proof.Machine

/-- The state with its knot monitor replaced. -/
def State.withKnot (s : State) (k : Knot) : State := { s with knot := k }

/-! ### Phase (Tables 5-3 and 5-4) -/

/-- The sector of a code (Table 5-3). -/
def sectorOf (code : BitVec 3) : Option Sector :=
  match code.toNat with
  | 1 => some .s0
  | 3 => some .s1
  | 2 => some .s2
  | 6 => some .s3
  | 4 => some .s4
  | 5 => some .s5
  | _ => none

/-- The number of forward steps from one sector to another (R76). -/
def sectorDistance (fromSector toSector : Sector) : Nat := (toSector.code + 6 - fromSector.code) % 6

/-- The kinds of Table 5-4. -/
inductive PhaseChange where
  | establish (k : Sector)
  | forward (k : Sector)
  | backward (k : Sector)
  | fault
  deriving DecidableEq, Repr

/-- The kind of a change (Table 5-4). -/
def phaseChange (before : Option Sector) (code : BitVec 3) : PhaseChange :=
  match before, sectorOf code with
  | _, none => .fault
  | none, some k => .establish k
  | some j, some k => if sectorDistance j k = 1 then .forward k else if sectorDistance j k = 5 then .backward k else .fault

/-- The taken sector changes, with the edge of the in-draw signal that this makes (R78). -/
def moveSector (k : Option Sector) (s : State) : State :=
  let was := s.knot.takenSector == some .s3
  let is := k == some .s3
  let s1 := s.withKnot { s.knot with takenSector := k }
  if was == is then s1 else drawEdge is s1

/-! ### The window (R81 to R87) -/

/-- The fitted heads that are not TIGHT (R85). -/
def missedMap (fitted tight : BitVec 32) : BitVec 32 := fitted &&& ~~~tight

/-- The time between samples, in µs (R83). -/
def samplePeriod : Nat := 25

/-- The most samples of a window (Table 5-2, note). -/
def topSamples : Nat := 2622

/-- A head's run after a sample (R84). -/
def nextHeadRun (active : Bool) (run : Nat) : Nat := if active then run + 1 else 0

/-- A head's run and TIGHT mark after a sample (R84). -/
def headSample (g : Settings) (lines : BitVec 32) (k : Knot) (h : Fin 32) : Nat × Bool :=
  let run := k.headRuns[h]
  if !g.fittedHeads.getLsbD h || k.tight.getLsbD h then (run, k.tight.getLsbD h)
  else (nextHeadRun (lines.getLsbD h) run, g.headFilter ≤ nextHeadRun (lines.getLsbD h) run)

/-- A set of heads from its members. -/
def headSet (p : Fin 32 → Bool) : BitVec 32 :=
  (List.finRange 32).foldl (fun m h => if p h then m ||| ((1 : BitVec 32) <<< h.val) else m) 0

/-- A sample taken (R84), with the next one due 25 µs later (R83). -/
def takeSample (g : Settings) (lines : BitVec 32) (k : Knot) : Knot :=
  { k with
    headRuns := Vector.ofFn (fun h => (headSample g lines k h).1)
    tight := headSet (fun h => (headSample g lines k h).2)
    samples := holdInc topSamples k.samples
    sampleLeft := some samplePeriod }

/-- The row in progress abandoned (R81). -/
def abandonRow (s : State) : State :=
  let k := s.knot
  let stops : List Instr := if k.window = .idle then [] else [.channelStopRequest 1, .channelStopRequest 2]
  (s.withKnot { k with
    window := .idle
    sampleLeft := none
    headRuns := if k.window = .idle then k.headRuns else Vector.replicate 32 0
    tight := if k.window = .idle then k.tight else 0
    rowValid := false
    rowOutcome := .none
    rowMissed := 0
    mesh := if k.mesh = .opened then .waiting else k.mesh }).emit stops

/-- The window becomes PENDING at a forward step into S3 in a VALID row (R82). -/
def pendWindow (s : State) : State :=
  if s.knot.rowValid then
    (s.withKnot { s.knot with window := .pending, samples := 0 }).emit
      [.channelStartRequest 1 (delayRequest .us1 s.settings.openDelay),
        .channelStartRequest 2 (delayRequest .us1 (s.settings.openDelay + s.settings.windowSpan))]
  else s

/-- The window at a forward step from S3 to S4 (R86). -/
def leaveDraw (s : State) : State :=
  let k := s.knot
  match k.window with
  | .pending =>
    (s.withKnot { k with window := .idle, rowOutcome := .unseen, rowMissed := 0 }).emit
      [.channelStopRequest 1, .channelStopRequest 2]
  | .opened =>
    (s.withKnot { k with
      window := .idle
      sampleLeft := none
      rowOutcome := .short
      rowMissed := missedMap s.settings.fittedHeads k.tight }).emit [.channelStopRequest 2]
  | .closed => s.withKnot { k with window := .idle }
  | .idle => s

/-! ### Rows (R79, R80, R88 to R90) -/

/-- The largest count of the segment statistics (Table 5-6). -/
def topCount : Nat := 4294967295

/-- A count added to; above its range the sum is a free value within it (log entry 17). -/
def addCount (count added : Nat) : Nat :=
  if count + added ≤ topCount then count + added else min (Config.knotCountAbove count added) topCount

/-- How many heads a set has. -/
def headCount (m : BitVec 32) : Nat := ((List.finRange 32).filter (fun h => m.getLsbD h)).length

/-- A row in progress as an entry of the history (R88 step 2). -/
def rowEntry (number : Nat) (k : Knot) : RowEntry :=
  { number := number, missed := if k.rowOutcome = .unseen then 0 else k.rowMissed, short := k.rowOutcome == .short,
    unseen := k.rowOutcome == .unseen }

/-- The history with an entry added at its newest end, the oldest of 17 removed (R88 step 2). -/
def addHistory (e : RowEntry) (l : List RowEntry) : List RowEntry := (l ++ [e]).drop (l.length + 1 - 16)

/-- The misses of a head in the history (R89). -/
def missesOf (l : List RowEntry) (h : Fin 32) : Nat := (l.filter (fun e => e.missed.getLsbD h)).length

/-- The heads that join the suspect set at a new entry (R89). -/
def joiningHeads (threshold : Nat) (missed suspects : BitVec 32) (l : List RowEntry) : BitVec 32 :=
  headSet (fun h => missed.getLsbD h && !suspects.getLsbD h && threshold ≤ missesOf l h)

/-- The heads missed in a new seen entry and in the newest seen entry before it (R90). -/
def consecutiveMisses (e : RowEntry) (earlier : List RowEntry) : BitVec 32 :=
  if e.unseen then 0
  else
    match earlier.reverse.find? (fun f => !f.unseen) with
    | some f => e.missed &&& f.missed
    | none => 0

/-- The statistics after a sampled row (R88 step 1, R89). -/
def countRow (e : RowEntry) (joins : Nat) (t : KnotCounts) : KnotCounts :=
  if topCount ≤ t.sampledRows then t
  else
    { t with
      sampledRows := t.sampledRows + 1
      unseenRows := if e.unseen then t.unseenRows + 1 else t.unseenRows
      missedKnots := if e.unseen then t.missedKnots else addCount t.missedKnots (headCount e.missed)
      headFaults := addCount t.headFaults joins }

/-- A sampled row entered and judged (R88 to R90). -/
def enterRow (s : State) (number : Nat) : State :=
  let k := s.knot
  let e := rowEntry number k
  let l := addHistory e k.history
  let joins := joiningHeads s.settings.suspectThreshold e.missed k.suspects l
  let s1 := s.withKnot { k with
    rowCounter := number
    history := l
    suspects := k.suspects ||| joins
    stats := countRow e (headCount joins) k.stats }
  if s.settings.consecutiveStop ∧ consecutiveMisses e l.dropLast ≠ 0 then s1.emit [.raiseCause .knot] else s1

/-- The number after a row counter (R80). -/
def nextRow (n : Nat) : Nat := if n < 4294967295 then n + 1 else 0

/-- A VALID row completed (R80). -/
def completeRow (s : State) : State :=
  let number := nextRow s.knot.rowCounter
  if s.knot.runningView then enterRow s number
  else
    s.withKnot { s.knot with
      rowCounter := number
      stats := { s.knot.stats with inchRows := holdInc topCount s.knot.stats.inchRows } }

/-! ### Mesh (R92 to R94) -/

/-- The three mesh counts after a mesh (R94). -/
def countMesh (outOfBand fault : Bool) (t : KnotCounts) : KnotCounts :=
  if topCount ≤ t.meshWindows then t
  else
    { t with
      meshWindows := t.meshWindows + 1
      meshOutOfBand := if outOfBand then t.meshOutOfBand + 1 else t.meshOutOfBand
      meshFaults := if fault then t.meshFaults + 1 else t.meshFaults }

/-- The mesh of a window computed and judged, and the next window begun (R92 to R94). -/
def computeMesh (s : State) : State :=
  let k := s.knot
  let (mesh, flag) := layOf (s.lineLength - k.meshStart) s.settings.meshRows
  let cls := classOf k.meshLow k.meshHigh mesh
  let run := nextBandRun cls s.settings.meshRunLimit k.meshRun
  let s1 := setFlagIf flag .mesh s
  let s2 := if run.2 && s1.settings.meshEscalate then s1.emit [.raiseCause .mesh] else s1
  s2.withKnot { k with
    lastMesh := some mesh
    meshRun := run.1
    meshStart := s.lineLength
    meshCounted := 0
    stats := countMesh cls.outOfBand run.2 k.stats }

/-- The mesh window at a step from S5 to S0 (R92). `sampled` says that a sampled row was completed in the event. -/
def stepMesh (sampled : Bool) (s : State) : State :=
  match s.knot.mesh with
  | .idle => s
  | .waiting => s.withKnot { s.knot with mesh := .opened, meshStart := s.lineLength, meshCounted := 0 }
  | .opened =>
    if !sampled then s
    else if s.settings.meshRows ≤ s.knot.meshCounted + 1 then computeMesh s
    else s.withKnot { s.knot with meshCounted := s.knot.meshCounted + 1 }

/-- A forward step from S5 to S0 (R79). -/
def turnRow (s : State) : State :=
  let sampled := s.knot.rowValid && s.knot.runningView
  let s1 := if s.knot.rowValid then completeRow s else s
  let s2 := stepMesh sampled s1
  s2.withKnot { s2.knot with rowValid := true, rowOutcome := .none, rowMissed := 0 }

/-! ### A change of the taken code (R76, R77) -/

/-- A phase fault (R77). -/
def phaseFault (s : State) : State :=
  let s1 := s.withKnot { s.knot with phaseFaults := holdInc 65535 s.knot.phaseFaults }
  let s2 := abandonRow (moveSector none s1)
  if s2.knot.runningView then s2.emit [.raiseCause .phase] else s2

/-- What a forward step into a sector does after the in-draw edge (R76, R79, R82, R86). -/
def forwardInto (k : Sector) (s : State) : State :=
  match k with
  | .s0 => turnRow s
  | .s3 => pendWindow s
  | .s4 => leaveDraw s
  | _ => s

/-- A code taken (R75, R76). -/
def takeCode (code : BitVec 3) (s : State) : State :=
  let s1 := s.withKnot { s.knot with takenCode := some code, candidate := none, filterTime := 0 }
  match phaseChange s.knot.takenSector code with
  | .establish k => moveSector (some k) s1
  | .forward k => forwardInto k (moveSector (some k) s1)
  | .backward k => abandonRow (moveSector (some k) s1)
  | .fault => phaseFault s1

/-! ### Start -/

/-- The start request that arms CH0 for the draw width (R74, Table 1-3). DESIGN CHOICE (log entry 54): it carries the reload 0, which
R5 keeps and R19 reports; Table 1-3 calls the reload not used. -/
def drawRequest : StartRequest :=
  { mode := .width, unit := .us1, reload := 0, drive := none, trigger := .input, action := .none }

/-- The knot monitor begins (R74, R94). -/
def beginKnot (s : State) : State :=
  if s.settings.knot then
    (s.withKnot { s.knot with
      meshLow := s.settings.meshTarget - meshTol s.settings
      meshHigh := s.settings.meshTarget + meshTol s.settings }).emit [.channelStartRequest 0 drawRequest]
  else s

/-! ### The knot monitor's commands -/

/-- The node with its phase pins at a code. -/
def State.withPhase (s : State) (code : BitVec 3) : State := { s with pins := { s.pins with phase := code } }

/-- The node with its head lines at levels. -/
def State.withLines (s : State) (lines : BitVec 32) : State := { s with pins := { s.pins with ks := lines } }

/-- The node as the command `e` that reads a code shows it: an event that time gave read the pins, and a command shows them
(log entry 4). -/
def showPhase (e : Instr) (code : BitVec 3) (s : State) : State :=
  if s.due.contains e then s.take e else (s.take e).withPhase code

/-- The node as the command `e` that reads the head lines shows it (log entry 4). -/
def showLines (e : Instr) (lines : BitVec 32) (s : State) : State := if s.due.contains e then s else s.withLines lines

/-- PHASE_CODE_CHANGE (R76): the taken code changes. A code equal to the taken one is no change. -/
def execPhaseCodeChange (code : BitVec 3) (s : State) : Host.Outcome State Fault Refusal :=
  let s0 := showPhase (.phaseCodeChange code) code s
  .next (if s0.knotNode ∧ s0.knot.takenCode ≠ some code then takeCode code s0 else s0)

/-- PHASE_CANDIDATE (R75): a sample reads a code; with a phase filter of 0 it is taken at once. -/
def execPhaseCandidate (code : BitVec 3) (s : State) : Host.Outcome State Fault Refusal :=
  let s0 := showPhase (.phaseCandidate code) code s
  .next (if !s0.knotNode then s0
  else if s0.knot.takenCode = some code then s0.withKnot { s0.knot with candidate := none, filterTime := 0 }
  else if s0.settings.phaseFilter = 0 then takeCode code s0
  else if s0.knot.candidate = some code then s0
  else s0.withKnot { s0.knot with candidate := some code, filterTime := 0 })

/-- WINDOW_OPEN (R12, R83): used with the window PENDING. -/
def execWindowOpen (lines : BitVec 32) (s : State) : Host.Outcome State Fault Refusal :=
  let s0 := takeExpiry (s.due.any isOpening) 1 .delay ((showLines (.windowOpen lines) lines s).takeLike isOpening)
  .next (if s0.knotNode ∧ s0.knot.window = .pending then
    s0.withKnot (takeSample s0.settings lines
      { s0.knot with window := .opened, headRuns := Vector.replicate 32 0, tight := 0, samples := 0 })
  else s0)
where
  /-- Whether an event is the expiry of CH1. -/
  isOpening : Instr → Bool
    | .windowOpen _ => true
    | _ => false

/-- KNOT_SAMPLE (R84): while the window is OPEN. -/
def execKnotSample (lines : BitVec 32) (s : State) : Host.Outcome State Fault Refusal :=
  let s0 := (showLines (.knotSample lines) lines s).takeLike isSample
  .next (if s0.knotNode ∧ s0.knot.window = .opened then s0.withKnot (takeSample s0.settings lines s0.knot) else s0)
where
  /-- Whether an event is a sample. -/
  isSample : Instr → Bool
    | .knotSample _ => true
    | _ => false

/-- WINDOW_CLOSE (R12, R85): used with the window OPEN. -/
def execWindowClose (s : State) : Host.Outcome State Fault Refusal :=
  let s0 := takeExpiry (s.due.contains .windowClose) 2 .delay (s.take .windowClose)
  .next (if s0.knotNode ∧ s0.knot.window = .opened then
    s0.withKnot { s0.knot with
      window := .closed
      sampleLeft := none
      rowOutcome := .seen
      rowMissed := missedMap s0.settings.fittedHeads s0.knot.tight }
  else s0)

/-- DRAW_WIDTH_CAPTURE (R15, R78): the expiry of CH0 that the fall of the in-draw signal gave, or, where none is due, the end of
the measurement itself (log entry 14). A commanded capture takes the place of one that is due. -/
def execDrawWidthCapture (capture : BitVec 24) (saturated : Bool) (s : State) : Host.Outcome State Fault Refusal :=
  let s0 := if s.due.contains (.drawWidthCapture capture saturated) then s.take (.drawWidthCapture capture saturated)
    else if s.due.any isCapture then correct (s.takeLike isCapture)
    else widthExpiry 0 capture s
  .next (if s0.knotNode then s0.withKnot { s0.knot with drawWidth := capture, drawSaturated := saturated } else s0)
where
  /-- Whether an event is the expiry of CH0. -/
  isCapture : Instr → Bool
    | .drawWidthCapture _ _ => true
    | _ => false
  /-- CH0 with the capture that the command carries. -/
  correct (s : State) : State :=
    s.setChannel 0 { s.channel 0 with capture := capture, captureSaturated := capture == maxCount }

/-- KNOT_RUNNING_ENTRY (R91). -/
def execKnotRunningEntry (s : State) : Host.Outcome State Fault Refusal :=
  let s0 := s.take .knotRunningEntry
  .next (if s0.knotNode then s0.withKnot { s0.knot with runningView := true, mesh := .waiting } else s0)

/-- KNOT_RUNNING_EXIT (R91). -/
def execKnotRunningExit (s : State) : Host.Outcome State Fault Refusal :=
  let s0 := s.take .knotRunningExit
  .next (if s0.knotNode then
    s0.withKnot { s0.knot with
      runningView := false
      history := []
      suspects := 0
      mesh := .idle
      meshCounted := 0
      meshRun := 0 }
  else s0)

/-- KNOT_SEGMENT_REQUEST (R95). -/
def execKnotSegmentRequest (coil : BitVec 32) (s : State) : Host.Outcome State Fault Refusal :=
  let s0 := s.take (.knotSegmentRequest coil)
  .next (if s0.knotNode then
    (s0.withKnot { s0.knot with stats := zeroCounts, suspects := 0 }).emit
      [.segmentStatisticsAnswer coil (.knot s0.knot.stats)]
  else s0)

end Sys2Proof.Machine
end

