-- ==== Sys2Proof/Machine/LineCommands.lean ====
section
/-! DEFINITION. The commands of the floor line interface (R99 to R108): a frame or broken bytes taken by the receiver, the hand-over
of an accepted frame to its owners, the presence timer, the withdraw request, and the transmitter's attempts. -/

namespace Sys2Proof.Machine

/-! ### Receiving (R99 to R101) -/

/-- What the receiver makes of a whole frame (R100). -/
inductive Verdict where
  | checkError | own | otherGroup | invalid | accepted
  deriving DecidableEq, Repr

/-- The first case of R100 that applies. A strap-0 node has no station and discards every frame at step 2; a node in UNSET
passes every group at step 3 (R181). -/
def judgeFrame (s : State) (f : RawFrame) : Verdict :=
  if crc (frameChecked f) ≠ f.check then .checkError
  else if s.station = 0 ∨ frameSource f = s.station then .own
  else if s.begun ∧ frameGroup f ≠ s.settings.group ∧ frameGroup f ≠ 0 then .otherGroup
  else if frameValid f then .accepted
  else .invalid

/-- The frame as the peer list takes it (R109, R110). -/
def heardOf (f : RawFrame) : HeardFrame :=
  { station := frameSource f, sequence := f.h3, presence := if frameKind f = 1 then some (presenceOf f.payload) else none }

/-- Whether a station is the configured pace source of a node in operation. -/
def State.isPaceSource (s : State) (station : Station) : Bool := s.begun && station.val == s.settings.paceSource && station != 0

/-- The hand-overs of a PRESENCE (R101). -/
def presenceOwners (s : State) (station : Station) (p : PresenceInfo) : List Instr :=
  [.presenceHaltPart station p.halt] ++
    match p.pace with
    | some part =>
      (if s.isPaceSource station && s.follows then [.pacePartToTwist part.v] else []) ++
        (if s.isPaceSource station && s.settings.driftCheck then [.pacePartToMetering part.length] else [])
    | none => []

/-- The hand-overs of a MARK (R101): the coil builder, and every channel ARMED with LINE for its kind (R7). -/
def markOwners (s : State) (station : Station) (kind : MarkKind) (coil : BitVec 32) : List Instr :=
  (match kind with
    | .cut => [.markCutReceived station coil]
    | .splice => [.markSpliceReceived station]) ++
  ((List.finRange 8).filter (fun i => (s.channel i).state == .armed && (s.channel i).trigger == .line kind)).map
    (fun i => .channelTrigger i (.line kind))

/-- The hand-over of a service request to the block that answers it (R101, R177 to R179). -/
def requestOwner (kind : Nat) (source : Station) (b : List Byte) : List Instr :=
  match kind with
  | 6 => [.query source (byteAt b 0)]
  | 7 => [.recall source (wordAt b 0) (byteAt b 4)]
  | 8 => [.collected source (wordAt b 0)]
  | 9 => [.key source (byteAt b 0)]
  | 10 => [.erase source (byteAt b 0)]
  | 11 => [.check source (byteAt b 0) (byteAt b 1)]
  | 12 => if b.length = 1 ∧ byteAt b 0 = 0xFF then [.settingCommit source] else [.setting source (byteAt b 0) (b.drop 1)]
  | 13 => [.target source (wordAt b 0)]
  | 14 => [.clearflags source]
  | _ => []

/-- The hand-overs of an accepted frame to its owners (R101), in the model's order (log entry 1). -/
def frameOwners (s : State) (f : RawFrame) : List Instr :=
  let source := frameSource f
  let b := f.payload
  [.peerListFrame (heardOf f)] ++
    match frameKind f with
    | 1 => presenceOwners s source (presenceOf b)
    | 2 => [.haltFrame source (byteAt b 0) (byteAt b 1) (wordAt b 2)]
    | 3 => [.resumeFrame source (byteAt b 0)]
    | 4 => markOwners s source (if byteAt b 0 = 1 then .cut else .splice) (wordAt b 1)
    | 5 => if frameDestination f = s.station then [.tallyReceived source (tallyOf b)] else []
    | k => if !frameIsReply f && frameDestination f == s.station then requestOwner k source b else []

/-- The receiver once a frame or a byte that belongs to none has ended: the bytes taken are dropped, a byte has been seen, and an
idle begins (R99, R105). -/
def FloorLine.afterBytes (l : FloorLine) (rx : RxState) : FloorLine :=
  { l with rx := rx, idle := 0, idleSub := 0, taken := [], unseen := false }

/-- FRAME_RECEIVED (R99 to R101). Before the start event the receiver has not begun (R181). -/
def execFrameReceived (f : RawFrame) (s : State) : Host.Outcome State Fault Refusal :=
  let s0 := s.take (.frameReceived f)
  .next (if !s0.startRec.started then s0
  else
    let s1 := s0.withLine (s0.line.afterBytes .hunt)
    match judgeFrame s0 f with
    | .checkError => s1.withLine { s1.line with checkErrors := holdInc 65535 s1.line.checkErrors }
    | .own => s1
    | .otherGroup => s1
    | .invalid => s1.withLine { s1.line with invalid := holdInc 65535 s1.line.invalid }
    | .accepted => (s1.withLine { s1.line with accepted := holdInc 65535 s1.line.accepted }).emit (frameOwners s0 f))

/-- BROKEN_FRAME (R99): ended by an idle, or by a low stop bit or an over-long length byte. -/
def execBrokenFrame (byIdle : Bool) (s : State) : Host.Outcome State Fault Refusal :=
  let s0 := s.take (.brokenFrame byIdle)
  .next (if !s0.startRec.started then s0
  else
    s0.withLine { s0.line.afterBytes (if byIdle then .hunt else .pass) with
      idle := if byIdle then max idleLimit s0.line.idle else 0
      idleSub := if byIdle then s0.line.idleSub else 0
      broken := holdInc 65535 s0.line.broken })

/-- RECEIVER_ENTERS_PASS (R99): a byte that begins no frame. -/
def execReceiverEntersPass (s : State) : Host.Outcome State Fault Refusal :=
  let s0 := s.take .receiverEntersPass
  .next (if s0.startRec.started then s0.withLine (s0.line.afterBytes .pass) else s0)

/-- PASS_IDLE (R99): an idle of more than 15 bit times ends PASS. -/
def execPassIdle (s : State) : Host.Outcome State Fault Refusal :=
  let s0 := s.take .passIdle
  .next (if s0.line.rx = .pass then s0.withLine { s0.line with rx := .hunt, idle := max idleLimit s0.line.idle } else s0)

/-! ### The presence timer (R103) -/

/-- The presence interval of a permit state, in µs (R103). -/
def presenceInterval (p : Permit) : Nat := if p = .running ∨ p = .halting then ofMs 250 else ofMs 1000

/-- PRESENCE_TIMER_EXPIRY (R103). -/
def execPresenceTimerExpiry (s : State) : Host.Outcome State Fault Refusal :=
  let s0 := s.take .presenceTimerExpiry
  .next (match s0.line.presenceLeft with
  | some _ => sendFrame .presence (s0.withLine { s0.line with presenceLeft := some (presenceInterval s0.prot.permit) })
  | none => s0)

/-- PERMIT_STATE_NOTICE (R103): a remaining time longer than the new state's interval is cut to it. -/
def execPermitStateNotice (p : Permit) (s : State) : Host.Outcome State Fault Refusal :=
  let s0 := s.take (.permitStateNotice p)
  .next (s0.withLine { s0.line with presenceLeft := s0.line.presenceLeft.map (fun t => min t (presenceInterval p)) })

/-! ### Withdrawal (R104) -/

/-- Whether a queued frame is the HALT of a serial. -/
def isHaltOf (serial : Byte) (f : QueuedFrame) : Bool :=
  match f.content with
  | .halt _ n _ => n == serial
  | _ => false

/-- WITHDRAW_REQUEST (R104). -/
def execWithdrawRequest (serial : Byte) (s : State) : Host.Outcome State Fault Refusal :=
  let s0 := s.take (.withdrawRequest serial)
  let q := s0.line.queue
  .next (match q.find? (isHaltOf serial) with
  | some f =>
    if f.onLine then
      s0.withLine { s0.line with queue := q.map (fun g => if isHaltOf serial g then { g with withdrawn := true } else g) }
    else
      (pollLine (s0.withLine { s0.line with queue := q.eraseP (isHaltOf serial) })).emit [.withdrawAnswer false serial]
  | none => s0.emit [.withdrawAnswer true serial])

/-! ### The transmitter (R105 to R107) -/

/-- TRANSMITTER_JOIN (R103, R105): 40 idle bit times in STARTING. -/
def execTransmitterJoin (s : State) : Host.Outcome State Fault Refusal :=
  let s0 := s.take .transmitterJoin
  .next (if s0.line.tx = .starting then
    let s1 := s0.withLine { s0.line with
      idle := max 40 s0.line.idle
      presenceLeft := some 0
      tx := if s0.line.queue = [] then .ready else .gap }
    pollLine (s1.emit [.presenceTimerExpiry])
  else s0)

/-- ATTEMPT_BEGIN (R105, R106): the idle count reaches the gap of the head frame, which is compared as it stands now. -/
def execAttemptBegin (s : State) : Host.Outcome State Fault Refusal :=
  let s0 := s.take .attemptBegin
  .next (match s0.line.tx, s0.line.queue with
  | .gap, f :: _ => if gapOf s0.station f ≤ s0.line.idle then beginAttempt s0 else s0
  | _, _ => s0)

/-- The line after an attempt has ended, with the frames that stay queued (R105). -/
def FloorLine.afterAttempt (l : FloorLine) (queue : List QueuedFrame) : FloorLine :=
  { l with tx := if queue = [] then .ready else .gap, idle := 0, idleSub := 0, queue := queue, sending := [], sendLeft := none }

/-- The answer that a frame marked for withdrawal brings at the end of its attempt (R104). -/
def withdrawalAnswer (f : QueuedFrame) (sent : Bool) : List Instr :=
  match f.withdrawn, f.content with
  | true, .halt _ n _ => [.withdrawAnswer sent n]
  | _, _ => []

/-- The surroundings once an attempt has ended: its reading is over (log entry 39). -/
def State.readingOver (s : State) : State := { s with world := { s.world with readings := s.world.readings.drop 1 } }

/-- ATTEMPT_SUCCESS (R106): the frame on the line is removed and counted. -/
def execAttemptSuccess (s : State) : Host.Outcome State Fault Refusal :=
  let s0 := s.take .attemptSuccess
  .next (match s0.line.tx, s0.line.queue.find? QueuedFrame.onLine with
  | .sending, some f =>
    (s0.readingOver.withLine { s0.line.afterAttempt (s0.line.queue.eraseP QueuedFrame.onLine) with
      rx := .hunt
      taken := []
      sent := holdInc 65535 s0.line.sent }).emit (withdrawalAnswer f true)
  | _, _ => s0)

/-- A frame that has collided and stays queued (R107). -/
def collided (f : QueuedFrame) : QueuedFrame := if f.onLine then { f with attempts := f.attempts + 1, onLine := false } else f

/-- Whether a frame is a HALT. -/
def FrameContent.isHalt : FrameContent → Bool
  | .halt _ _ _ => true
  | _ => false

/-- How many bytes of the attempt in progress have ended. -/
def FloorLine.bytesEnded (l : FloorLine) : Nat := l.sending.length - (l.sendLeft.getD 0 + 39) / 40

/-- What the receiver makes of the bytes of a collided attempt that it has not read yet (R99, R106): those that read back
correctly, then the one at which the collision is found. -/
def FloorLine.readBack (l : FloorLine) (r : Readback) : FloorLine × List Instr :=
  let x := l.rxBytes ((l.sending.take r.good).drop l.bytesEnded)
  let y := x.1.rxByte r.value r.stopLow
  (y.1, x.2 ++ y.2)

/-- Whether a reading is a collision of the bytes sent (R106): its byte differs from the one sent, or its stop bit reads low. -/
def Readback.differs (r : Readback) (sent : List Byte) : Bool := r.stopLow || sent[r.good]? != some r.value

/-- The reading that the surroundings bring for the attempt in progress, where it is a collision (R106; log entry 39). -/
def State.badReading (s : State) : Option Readback :=
  s.world.readings.head?.join.filter (fun r => r.differs s.line.sending)

/-- The reading of a collision: the one that the surroundings bring, or, where they bring none that differs, the byte being sent
read with every bit inverted (log entry 39). -/
def State.collisionReading (s : State) : Readback :=
  match s.badReading with
  | some r => r
  | none => { good := s.line.bytesEnded, value := ~~~(s.line.sending.getD s.line.bytesEnded 0), stopLow := false }

/-- COLLISION (R107): the attempt ends; the frame is withdrawn, tried again, or dropped. The receiver has read the bytes up to the
collision as it reads any others (R99). -/
def execCollision (s : State) : Host.Outcome State Fault Refusal :=
  let s0 := s.take .collision
  .next (match s0.line.tx, s0.line.queue.find? QueuedFrame.onLine with
  | .sending, some f =>
    let q := s0.line.queue
    let x := s0.line.readBack s0.collisionReading
    let l := { x.1 with collisions := holdInc 65535 s0.line.collisions }
    let s1 := s0.readingOver.emit x.2
    if f.withdrawn then
      (s1.withLine (l.afterAttempt (q.eraseP QueuedFrame.onLine))).emit (withdrawalAnswer f false)
    else if f.attempts < 7 then s1.withLine (l.afterAttempt (q.map collided))
    else
      (s1.withLine { l.afterAttempt (q.eraseP QueuedFrame.onLine) with drops := holdInc 65535 l.drops }).emit
        (if f.content.isHalt then [.raiseCause .lineFailed] else [])
  | _, _ => s0)

end Sys2Proof.Machine
end

