-- ==== Sys2Proof/Machine/Peers.lean ====
section
/-! DEFINITION. The peer list (R109, R110) and the meanings of its two commands. -/

namespace Sys2Proof.Machine

/-- The peer list with an entry put in station order, in place of any of the same station. -/
def putPeer (p : Peer) (l : List Peer) : List Peer :=
  l.filter (fun q => q.station < p.station) ++ [p] ++ l.filter (fun q => p.station < q.station)

/-- An entry taken from a PRESENCE (R109, Table 6-6). DESIGN CHOICE (log entry 47): a permit byte, cause bits, a halt serial or a
halt cause outside its range (00_scope.md 0.4) does not make the frame invalid (R180), and stands in the entry as it came. -/
def peerOf (station : Station) (sequence : Byte) (i : PresenceInfo) : Peer :=
  { station := station, roles := i.roles, permit := i.permit, causes := i.causes, coil := i.coil, pace := i.pace,
    halt := i.halt, sequence := sequence, heard := true, age := 0 }

/-- The entry of a station. -/
def State.peer (s : State) (station : Station) : Option Peer := s.peers.find? (fun p => p.station == station)

/-- The time since last heard, in whole ms (Table 6-6). -/
def Peer.ageMs (p : Peer) : Nat := p.age / 1000

/-- Of two entries, the one unheard for longer; the lower station among equal times (R109). -/
def olderPeer (p q : Peer) : Peer := if p.ageMs < q.ageMs ∨ (p.ageMs = q.ageMs ∧ q.station < p.station) then q else p

/-- The entry unheard for the longest of some entries. -/
def oldestPeer : List Peer → Option Peer
  | [] => none
  | p :: l => some (l.foldl olderPeer p)

/-- The peer that gives way in a full list (R109). -/
def replacedPeer (s : State) (station : Station) : Option Peer :=
  match oldestPeer (s.peers.filter (fun p => !p.heard)) with
  | some p => some p
  | none => if s.isPaceSource station then oldestPeer s.peers else none

/-- The peers after a PRESENCE from a station without an entry (R109); absent where it adds none. -/
def addPeer (s : State) (p : Peer) : Option (List Peer) :=
  if s.peers.length < 16 then some (putPeer p s.peers)
  else (replacedPeer s p.station).map (fun q => putPeer p (s.peers.filter (fun r => r.station != q.station)))

/-- An entry refreshed by an accepted frame (R110). -/
def refreshPeer (f : HeardFrame) (p : Peer) : Peer :=
  match f.presence with
  | some i => peerOf f.station f.sequence i
  | none => { p with sequence := f.sequence, heard := true, age := 0 }

/-- A notice of the pace source's entry to the twist monitor (R54, R110). The protection unit reads the list when it judges
(R116, R119), and no rule gives its notice a further effect. -/
def paceNotice (s : State) (station : Station) (event : Instr) : List Instr :=
  if s.isPaceSource station && s.follows then [event] else []

/-- An ageing step that waits to be taken does not age an entry that a frame has refreshed, or added, before it (R110). -/
def cancelAgeing (station : Station) (s : State) : State :=
  { s with due := s.due.filter (fun e => e != .peerAgeing station) }

/-- Whether a station can be one of others: none for no station, none for the node's own (R109, R130). -/
def State.foreign (s : State) (station : Station) : Bool := s.station != 0 && station != 0 && station != s.station

/-- PEER_LIST_FRAME (R109, R110). -/
def execPeerListFrame (f : HeardFrame) (s : State) : Host.Outcome State Fault Refusal :=
  let s0 := s.take (.peerListFrame f)
  .next (if !s0.foreign f.station then s0
  else
    match s0.peer f.station, f.presence with
    | some p, _ =>
      let s1 := cancelAgeing f.station { s0 with peers := putPeer (refreshPeer f p) s0.peers }
      if p.heard then s1 else s1.emit (paceNotice s0 f.station .paceSourceHeard)
    | none, some i =>
      match addPeer s0 (peerOf f.station f.sequence i) with
      | some l => (cancelAgeing f.station { s0 with peers := l }).emit (paceNotice s0 f.station .paceSourceHeard)
      | none => s0
    | none, none => s0)

/-- The µs after which an entry becomes SILENT (R110). -/
def silentAge : Nat := 3000000

/-- The µs after which an entry is removed (R110). -/
def removalAge : Nat := 10000000

/-- PEER_AGEING (R110): a HEARD entry becomes SILENT, a SILENT one is removed. -/
def execPeerAgeing (station : Station) (s : State) : Host.Outcome State Fault Refusal :=
  let s0 := s.take (.peerAgeing station)
  .next (match s0.peer station with
  | some p =>
    if p.heard then
      ({ s0 with peers := putPeer { p with heard := false, age := max silentAge p.age } s0.peers }).emit
        (paceNotice s0 station .paceSourceSilent)
    else { s0 with peers := s0.peers.filter (fun q => q.station != station) }
  | none => s0)

end Sys2Proof.Machine
end

