-- ==== Sys2Proof/Machine/Protection.lean ====
section
/-! DEFINITION. The commands of the protection unit (chapter 7): the operator's buttons, the break chain, causes, answers, the
halt table, the coil hold, the supply watch and the lamp's own times. -/

namespace Sys2Proof.Machine

/-! ### START and the refusal blink (R114, R116) -/

/-- The lamp's times that wait to be taken are not taken once the blink starts again. -/
def cancelLamp (s : State) : State :=
  { s with due := s.due.filter (fun e => e != .refusalBlinkEnd && e != .alarmFlash) }

/-- The refusal blink begins (R114): lit, three flashes of 250 ms lit and 250 ms dark. -/
def refuseStart (s : State) : State :=
  let s1 := cancelLamp s
  s1.withProt { s1.prot with
    blinkLeft := some (ofMs 1500)
    lamp := { s1.prot.lamp with lit := true, flashLeft := some (ofMs 250) } }

/-- With FOLLOW set, the pace source must be HEARD (R116). -/
def State.paceHeard (s : State) : Bool :=
  !s.settings.follow || s.peers.any (fun p => p.station.val == s.settings.paceSource && p.heard)

/-- START in STANDBY (R116). -/
def startStandby (s : State) : State :=
  if !s.hasReason && !s.prot.coilHold && s.paceHeard then refreshAlarm (setPermit .running s) else refuseStart s

/-- START (R116). -/
def execStart (s : State) : Host.Outcome State Fault Refusal :=
  let s0 := s.take .start
  .next (match s0.prot.permit with
  | .standby => startStandby s0
  | .halted =>
    if s0.prot.causes.contains .operator then
      let s1 := clear .operator s0
      if s1.prot.permit = .standby then startStandby s1 else s1
    else s0
  | .halting => clear .operator s0
  | .running => s0
  | .unset => s0)

/-- STOP (R117). -/
def execStop (s : State) : Host.Outcome State Fault Refusal := .next (raise .operator (s.take .stop))

/-! ### BREAK (R118) -/

/-- The node with its BREAK chain open or closed. -/
def State.withBreak (s : State) (isOpen : Bool) : State := { s with pins := { s.pins with breakOpen := isOpen } }

/-- BREAK_OPEN (R118). -/
def execBreakOpen (s : State) : Host.Outcome State Fault Refusal :=
  .next (raise .breakChain ((s.take .breakOpen).withBreak true))

/-- BREAK_CLOSE (R118): the cause stays, to be cleared by ALARM-RESET. -/
def execBreakClose (s : State) : Host.Outcome State Fault Refusal := .next ((s.take .breakClose).withBreak false)

/-! ### ALARM-RESET (R119) -/

/-- The causes that ALARM-RESET clears without condition (R119 step 1). -/
def resetCauses : List Cause := [.operator, .lineFailed, .strand, .lay, .knot, .mesh, .phase, .slip, .drift, .arith]

/-- Whether a station is HEARD: it has an entry in the peer list that is not SILENT. -/
def State.stationHeard (s : State) (station : Station) : Bool := (s.peer station).any Peer.heard

/-- A halt-table entry removed, with its effect on the permit state (R119, R131). -/
def removeHalt (station : Station) (s : State) : State :=
  refreshAlarm (reasonCleared (s.withProt { s.prot with table := s.prot.table.filter (fun e => e.station != station) }))

/-- The entries whose origin is SILENT or unknown removed (R119 step 3). -/
def removeUnheard (s : State) : State :=
  (s.prot.table.filter (fun e => !s.stationHeard e.station)).foldl (fun t e => removeHalt e.station t) s

/-- The questions of R119 step 4. -/
def resetQuestions (causes : List Cause) : List Instr :=
  (if causes.contains .tension then [.tensionClearQuestion] else []) ++
    (if causes.contains .cutter then [.cutEndedQuestion] else []) ++
    (if causes.contains .store then [.heldBackQuestion] else [])

/-- ALARM_RESET (R119). -/
def execAlarmReset (s : State) : Host.Outcome State Fault Refusal :=
  let s0 := s.take .alarmReset
  .next (if s0.prot.permit = .unset ∨ s0.prot.permit = .running then s0
  else
    let s1 := resetCauses.foldl (fun t c => clear c t) s0
    let s2 := if s1.pins.breakOpen then s1 else clear .breakChain s1
    let s3 := removeUnheard s2
    s3.emit (resetQuestions s3.prot.causes))

/-! ### Causes and answers (R115, R119) -/

/-- RAISE_CAUSE (R115). -/
def execRaiseCause (c : Cause) (s : State) : Host.Outcome State Fault Refusal := .next (raise c (s.take (.raiseCause c)))

/-- CLEAR_CAUSE (R115). -/
def execClearCause (c : Cause) (s : State) : Host.Outcome State Fault Refusal := .next (clear c (s.take (.clearCause c)))

/-- TENSION_ANSWER (R72, R119): yes clears TENSION and gives the sampler its notice. -/
def execTensionAnswer (yes : Bool) (s : State) : Host.Outcome State Fault Refusal :=
  let s0 := s.take (.tensionAnswer yes)
  .next (if yes then clear .tension s0 else s0)

/-- CUT_ENDED_ANSWER (R119). -/
def execCutEndedAnswer (ended : Bool) (s : State) : Host.Outcome State Fault Refusal :=
  let s0 := s.take (.cutEndedAnswer ended)
  .next (if ended then clear .cutter s0 else s0)

/-- HELD_BACK_ANSWER (R119). -/
def execHeldBackAnswer (heldBack : Bool) (s : State) : Host.Outcome State Fault Refusal :=
  let s0 := s.take (.heldBackAnswer heldBack)
  .next (if heldBack then s0 else clear .store s0)

/-- HALT_TIMER_EXPIRY (R122). -/
def execHaltTimerExpiry (s : State) : Host.Outcome State Fault Refusal :=
  let s0 := s.take .haltTimerExpiry
  .next (if s0.prot.permit = .halting then refreshAlarm (haltingDecision s0) else s0)

/-! ### Withdraw answers (R129) -/

/-- How many serials before the present one a serial was issued. -/
def serialAge (present x : Nat) : Nat := (present + 255 - x) % 255

/-- The sent serial after an answer SENT for `x` (R129). -/
def nextSent (present : Nat) (sent : Option Nat) (x : Nat) : Nat :=
  match sent with
  | none => x
  | some y => if serialAge present x < serialAge present y then x else y

/-- The end of a CLOSING episode (R129). -/
def endEpisode (s : State) : State :=
  let s1 := match s.prot.sentSerial with
    | some x => sendFrame (.resume (BitVec.ofNat 8 x)) s
    | none => s
  s1.withProt { s1.prot with episode := .quiet, sentSerial := none, latest := none }

/-- WITHDRAW_ANSWER (R129). An answer that no request waits for changes nothing. -/
def execWithdrawAnswer (sent : Bool) (serial : Byte) (s : State) : Host.Outcome State Fault Refusal :=
  let s0 := s.take (.withdrawAnswer sent serial)
  .next (if s0.prot.outstanding = 0 then s0
  else
    let s1 := s0.withProt { s0.prot with
      outstanding := s0.prot.outstanding - 1
      sentSerial := if sent then some (nextSent s0.prot.serial s0.prot.sentSerial serial.toNat) else s0.prot.sentSerial }
    if s1.prot.outstanding = 0 ∧ s1.prot.episode = .closing then endEpisode s1 else s1)

/-! ### The halt table (R130 to R132) -/

/-- The halt table with an entry put in station order, in place of any of the same station. -/
def putHalt (e : HaltEntry) (l : List HaltEntry) : List HaltEntry :=
  l.filter (fun f => f.station < e.station) ++ [e] ++ l.filter (fun f => e.station < f.station)

/-- The entry of a station. -/
def State.haltOf (s : State) (station : Station) : Option HaltEntry := s.prot.table.find? (fun e => e.station == station)

/-- A halt of another station set or replaced (R131, R132). DESIGN CHOICE (log entry 47): its cause and serial stand as the frame
carries them, and so does the notice's code, in their ranges or not. -/
def setHalt (e : HaltEntry) (s : State) : State :=
  let s1 := s.withProt { s.prot with table := putHalt e s.prot.table }
  match s.haltOf e.station with
  | some f => if f.serial = e.serial then s else refreshAlarm (s1.emit [.reasonNotice e.cause e.station false])
  | none =>
    refreshAlarm ((reasonAppears false s1).emit [.reasonNotice e.cause e.station (s.prot.permit == .running)])

/-- HALT_FRAME (R131). -/
def execHaltFrame (station : Station) (cause serial : Byte) (length : BitVec 32) (s : State) :
    Host.Outcome State Fault Refusal :=
  let s0 := s.take (.haltFrame station cause serial length)
  .next (if s0.begun && s0.foreign station then
    setHalt { station := station, cause := cause, serial := serial, length := some length, byHalt := true } s0
  else s0)

/-- RESUME_FRAME (R131). -/
def execResumeFrame (station : Station) (serial : Byte) (s : State) : Host.Outcome State Fault Refusal :=
  let s0 := s.take (.resumeFrame station serial)
  .next (match s0.haltOf station with
  | some e => if s0.begun ∧ e.serial = serial then removeHalt station s0 else s0
  | none => s0)

/-- PRESENCE_HALT_PART (R132). -/
def execPresenceHaltPart (station : Station) (part : Option HaltPart) (s : State) : Host.Outcome State Fault Refusal :=
  let s0 := s.take (.presenceHaltPart station part)
  .next (if !(s0.begun && s0.foreign station) then s0
  else
    match part with
    | some h => setHalt { station := station, cause := h.cause, serial := h.serial, length := none, byHalt := false } s0
    | none => if (s0.haltOf station).isSome then removeHalt station s0 else s0)

/-! ### The coil hold (R125) -/

/-- COIL_HOLD_SET (R125). -/
def execCoilHoldSet (s : State) : Host.Outcome State Fault Refusal :=
  let s0 := s.take .coilHoldSet
  .next (if s0.begun then refreshAlarm (s0.withProt { s0.prot with coilHold := true }) else s0)

/-- COIL_HOLD_CLEAR (R125). -/
def execCoilHoldClear (s : State) : Host.Outcome State Fault Refusal :=
  let s0 := s.take .coilHoldClear
  let s1 := s0.withProt { s0.prot with coilHold := false }
  .next (if !s0.begun then s0
  else if s1.prot.permit = .halted ∧ !s1.hasReason ∧ s1.prot.eligible then refreshAlarm (setPermit .running s1)
  else refreshAlarm s1)

/-! ### The supply watch (R133, R134) -/

/-- The supply below 17.0 V for 1 ms, as a warning shows it (R133; log entry 4). -/
def Pins.supplyWarned (p : Pins) : Pins := { p with supply := min p.supply 16999, supplyLow := 1000, supplyHigh := 0 }

/-- The supply above 18.0 V for 100 ms, as a recovery shows it (R133; log entry 4). -/
def Pins.supplyRecovered (p : Pins) : Pins :=
  { p with supply := max p.supply 18001, supplyLow := 0, supplyHigh := 100000 }

/-- One µs of the supply watch's readings (R133). -/
def Pins.supplyRead (p : Pins) : Pins :=
  { p with supplyLow := if p.supply < 17000 then holdInc 1000 p.supplyLow else 0
           supplyHigh := if 18000 < p.supply then holdInc 100000 p.supplyHigh else 0 }

/-- The warning or the recovery that the readings make (R133): a warning in NORMAL, a recovery in WARNING. -/
def supplyEvents (s : State) : List Instr :=
  if !s.begun then []
  else if s.prot.supplyWarning then (if 100000 ≤ s.pins.supplyHigh then [.supplyRecovery] else [])
  else if 1000 ≤ s.pins.supplyLow then [.supplyWarning] else []

/-- SUPPLY_WARNING (R133): not taken in WARNING. -/
def execSupplyWarning (s : State) : Host.Outcome State Fault Refusal :=
  let s0 := (s.take .supplyWarning).withPins s.pins.supplyWarned
  .next (if s0.begun && !s0.prot.supplyWarning then raise .supply (s0.withProt { s0.prot with supplyWarning := true }) else s0)

/-- SUPPLY_RECOVERY (R133): not taken in NORMAL. -/
def execSupplyRecovery (s : State) : Host.Outcome State Fault Refusal :=
  let s0 := (s.take .supplyRecovery).withPins s.pins.supplyRecovered
  .next (if s0.begun && s0.prot.supplyWarning then clear .supply (s0.withProt { s0.prot with supplyWarning := false }) else s0)

/-! ### The lamp's own times (R114) -/

/-- REFUSAL_BLINK_END (R114): the decided pattern returns. -/
def execRefusalBlinkEnd (s : State) : Host.Outcome State Fault Refusal :=
  let s0 := s.take .refusalBlinkEnd
  .next (match s0.prot.blinkLeft with
  | some _ => s0.withProt { s0.prot with blinkLeft := none, lamp := lampFor s0.prot.lamp.pattern }
  | none => s0)

/-- ALARM_FLASH (R114): 250 ms in the refusal blink, 500 ms while flashing. -/
def execAlarmFlash (s : State) : Host.Outcome State Fault Refusal :=
  let s0 := s.take .alarmFlash
  let l := s0.prot.lamp
  .next (if s0.prot.blinkLeft.isSome then
    s0.withProt { s0.prot with lamp := { l with lit := !l.lit, flashLeft := some (ofMs 250) } }
  else if l.pattern = .flashing then
    s0.withProt { s0.prot with lamp := { l with lit := !l.lit, flashLeft := some (ofMs 500) } }
  else s0)

end Sys2Proof.Machine
end

