-- ==== Sys2Proof/Machine/SenseSampler.lean ====
section
/-! DEFINITION. The sense sampler (chapter 4): scans and conversions (R63 to R66), windows and filters (R62, R67), trips (R68,
R69), and the meanings of its commands. -/

namespace Sys2Proof.Machine

/-- The state with its sampler replaced. -/
def State.withSampler (s : State) (m : Sampler) : State := { s with sampler := m }

/-- The node with a scan list entry replaced. -/
def State.setEntryRecord (s : State) (n : Fin 8) (e : ScanEntry) : State :=
  s.withSampler { s.sampler with entries := s.sampler.entries.set n e }

/-- Whether a result lies in an entry's window (R62, Table 4-3). -/
def inWindow (g : ScanSettings) (result : Nat) : Bool :=
  match g.mode with
  | .off => true
  | .low => g.lowLimit ≤ result
  | .high => result ≤ g.highLimit
  | .band => g.lowLimit ≤ result && result ≤ g.highLimit

/-- Whether the taken sector is a tie sector (R66). -/
def inTie (k : Option Sector) : Bool := k == some .s0 || k == some .s1

/-- Whether an entry's conversion may start now: active, and not passed over (R61, R66). -/
def State.convertible (s : State) (n : Fin 8) : Bool :=
  let g := s.settings.scan[n]
  g.mode != .off && !(s.settings.knot && g.blankInTie && inTie s.knot.takenSector)

/-- The time of a conversion, in µs (R64). -/
def conversionTime : Nat := 125

/-- The voltage that 10 V is, in thousandths of a result (R64). -/
def topVoltage : Nat := 4095000

/-- The result of a conversion (R64): 0 V and below give 0, 10 V and above 4,095. A voltage between two results reads as one of the
two, which the manual does not say (log entry 40). -/
def resultOf (level : Int) : BitVec 12 :=
  if level ≤ 0 then 0
  else if topVoltage ≤ level.toNat then 4095
  else
    let below := level.toNat / 1000
    BitVec.ofNat 12 (if level.toNat % 1000 ≠ 0 ∧ Config.conversionRoundsUp level.toNat = true then below + 1 else below)

/-- The first entry from `first` up whose conversion may start is started, or the scan ends (R63, R64). The input is sampled
here, as its pin is held (log entry 4). -/
def convertFrom (first : Nat) (s : State) : State :=
  match (List.finRange 8).find? (fun n => first ≤ n.val && s.convertible n) with
  | some n =>
    s.withSampler { s.sampler with
      position := some n
      conversionLeft := some conversionTime
      sampled := resultOf (s.pins.ai.toList.getD s.settings.scan[n].input 0) }
  | none => s.withSampler { s.sampler with position := none, conversionLeft := none }

/-- An entry's record after a result, and whether it trips (R67). -/
def filtered (g : ScanSettings) (result : Nat) (e : ScanEntry) : ScanEntry × Bool :=
  let e1 := { e with result := result }
  if inWindow g result then ({ e1 with filterRun := 0, tripped := false }, false)
  else if e.tripped then (e1, false)
  else if g.filterCount ≤ e.filterRun + 1 then
    ({ e1 with
      filterRun := e.filterRun + 1
      tripped := true
      tripCount := holdInc 65535 e.tripCount
      tripValue := if e.locked then e.tripValue else some result }, true)
  else ({ e1 with filterRun := e.filterRun + 1 }, false)

/-- A result stored, judged and acted on (R64 steps 1 and 2, R67 to R69). -/
def takeResult (n : Fin 8) (result : Nat) (s : State) : State :=
  let g := s.settings.scan[n]
  let (e, trips) := filtered g result s.sampler.entries[n]
  if trips && g.protect && s.sampler.runningView then
    (s.setEntryRecord n { e with locked := true }).emit [.raiseCause .tension]
  else s.setEntryRecord n e

/-! ### The sampler's commands -/

/-- SCAN_START (R10, R63, R65). -/
def execScanStart (s : State) : Host.Outcome State Fault Refusal :=
  let s0 := takeExpiry (s.due.contains .scanStart) 6 .interval (s.take .scanStart)
  .next (if !s0.begun then s0
  else if s0.sampler.position.isSome then
    s0.withSampler { s0.sampler with overruns := holdInc 65535 s0.sampler.overruns }
  else convertFrom 0 s0)

/-- Whether an event is the completion of a conversion. -/
def isConversion : Instr → Bool
  | .conversionComplete _ => true
  | _ => false

/-- CONVERSION_COMPLETE (R64). With no conversion in progress there is none to complete. The result is of the voltage at the
conversion's start, and says nothing of the input's level now (log entry 38). -/
def execConversionComplete (result : BitVec 12) (s : State) : Host.Outcome State Fault Refusal :=
  let s0 := s.takeLike isConversion
  .next (match s0.sampler.position with
  | some n => convertFrom (n.val + 1) (takeResult n result.toNat s0)
  | none => s0)

/-- An entry's record at the notice of entering RUNNING (R70). -/
def enteredEntry (g : ScanSettings) (e : ScanEntry) : ScanEntry :=
  if g.mode ≠ .off ∧ g.protect = true then { e with filterRun := 0, tripped := false } else e

/-- SAMPLER_RUNNING_ENTRY (R70). -/
def execSamplerRunningEntry (s : State) : Host.Outcome State Fault Refusal :=
  let s0 := s.take .samplerRunningEntry
  .next (if s0.begun then
    s0.withSampler { s0.sampler with
      runningView := true
      entries := Vector.ofFn (fun n : Fin 8 => enteredEntry s0.settings.scan[n] s0.sampler.entries[n]) }
  else s0)

/-- SAMPLER_RUNNING_EXIT (R70). -/
def execSamplerRunningExit (s : State) : Host.Outcome State Fault Refusal :=
  let s0 := s.take .samplerRunningExit
  .next (if s0.begun then s0.withSampler { s0.sampler with runningView := false } else s0)

/-- The sampler's answer whether TENSION may be cleared (R71). -/
def State.tensionMayClear (s : State) : Bool :=
  (List.finRange 8).all (fun n => !s.sampler.entries[n].locked || inWindow s.settings.scan[n] s.sampler.entries[n].result)

/-- TENSION_CLEAR_QUESTION (R71). -/
def execTensionClearQuestion (s : State) : Host.Outcome State Fault Refusal :=
  let s0 := s.take .tensionClearQuestion
  .next (if s0.begun then s0.emit [.tensionAnswer s0.tensionMayClear] else s0)

/-- TENSION_CLEAR_NOTICE (R72). -/
def execTensionClearNotice (s : State) : Host.Outcome State Fault Refusal :=
  let s0 := s.take .tensionClearNotice
  .next (s0.withSampler { s0.sampler with entries := s0.sampler.entries.map (fun e => { e with locked := false }) })

end Sys2Proof.Machine
end

