-- ==== Sys2Proof/Machine/StoreCommands.lean ====
section
/-! DEFINITION. The completions of the store's operations (chapter 9, R183): what each has done to the memory, the sector table
and the counts, whom it reports to, and the next operation begun in the same event (R159). Each carries the bytes that
did not take the value written (log entry 5). A completion of another operation than the one in flight is none. -/

namespace Sys2Proof.Machine

/-- Whether an event is the completion of an operation. -/
def isCompletion : Instr → Bool
  | .programHeaderComplete _ => true
  | .keepComplete _ => true
  | .markCollectedComplete _ => true
  | .eraseBankComplete _ => true
  | .checkComplete => true
  | .readComplete => true
  | .lostCompletion _ => true
  | .commitComplete _ => true
  | _ => false

/-- The operation in flight. -/
def State.flight (s : State) : Option InFlight := s.store.inFlight

/-! ### Headers and keeps (R162, R164) -/

/-- PROGRAM_HEADER_COMPLETE (R160, R162): the steps that are left, and the end of the operation. -/
def execProgramHeaderComplete (wear : Wear) (s : State) : Host.Outcome State Fault Refusal :=
  .next (match s.flight with
  | some ⟨.programHeader coil image, step, retry, left⟩ =>
    endOp (runOp wear ⟨.programHeader coil image, step, retry, left⟩ (s.takeLike isCompletion)).1
  | _ => s.take (.programHeaderComplete wear))

/-- KEEP_COMPLETE (R164): the steps that are left, and the outcome reported to the coil builder. -/
def execKeepComplete (wear : Wear) (s : State) : Host.Outcome State Fault Refusal :=
  .next (match s.flight with
  | some ⟨.keep coil, step, retry, left⟩ =>
    match s.findRecord coil, runOp wear ⟨.keep coil, step, retry, left⟩ (s.takeLike isCompletion) with
    | some _, (s1, kept) => endOp (s1.emit [.keepReport (BitVec.ofNat 32 coil) kept])
    | none, _ => endOp (s.takeLike isCompletion)
  | _ => s.take (.keepComplete wear))

/-! ### Requests of terminals (R165, R168 to R170, R183) -/

/-- One sector of a COLLECTED run, with the number of sectors marked so far (R168). -/
def markSector (wear : Wear) (x : State × Nat) (p : Nat) : State × Nat :=
  match programNow wear (sectorBase p + 16) [0x00] x.1 with
  | (s1, .good) => (s1.setEntry p { s1.sectorEntry p with collected := true }, x.2 + 1)
  | (s1, _) => (s1, x.2)

/-- MARK_COLLECTED_COMPLETE (R168). -/
def execMarkCollectedComplete (wear : Wear) (s : State) : Host.Outcome State Fault Refusal :=
  let s0 := s.takeLike isCompletion
  .next (match s.flight with
  | some ⟨.markCollected upTo source, _, _, _⟩ =>
    match (s0.markList upTo).foldl (markSector wear) (s0, 0) with
    | (s1, n) => endOp (sendReply .collected source [Result.done.byte, byte1 n] s1)
  | _ => s.take (.markCollectedComplete wear))

/-- Whether every sector of a bank reads erased (R165, R183). -/
def bankReadsErased (m : Memory) (b : Nat) : Bool := (bankSectors b).all m.sectorErased

/-- ERASE_BANK_COMPLETE (R165). -/
def execEraseBankComplete (wear : Wear) (s : State) : Host.Outcome State Fault Refusal :=
  let s0 := s.takeLike isCompletion
  .next (match s.flight with
  | some ⟨.eraseBank b source, _, _, _⟩ =>
    let s1 := eraseBankNow wear b s0
    let result : Result := if bankReadsErased s1.memory b then .done else .damaged
    endOp (sendReply .erase source [result.byte] s1)
  | _ => s.take (.eraseBankComplete wear))

/-- CHECK_COMPLETE (R169). -/
def execCheckComplete (s : State) : Host.Outcome State Fault Refusal :=
  let s0 := s.takeLike isCompletion
  .next (match s.flight with
  | some ⟨.checkRange first last source, _, _, _⟩ =>
    let c := crc (s0.memory.readRange (sectorBase first) (256 * (last + 1 - first)))
    endOp (sendReply .check source ([Result.done.byte] ++ crcBytes c ++ [byte1 first, byte1 last]) s0)
  | _ => s.take .checkComplete)

/-- The parts asked for, in ascending order; an empty set is all eight (R170). -/
def recallParts (parts : Byte) : List Nat :=
  if parts = 0 then List.range 8 else (List.range 8).filter (fun i => parts.getLsbD i)

/-- The replies of a READ (R170, R177). -/
def recallReplies (m : Memory) (p : Nat) (parts : Byte) : List (List Byte) :=
  let result : Result := if bodyMatches m p then .done else .damaged
  (recallParts parts).map (fun i => [result.byte, byte1 i] ++ m.readRange (sectorBase p + 32 * i) 32)

/-- READ_COMPLETE (R170). -/
def execReadComplete (s : State) : Host.Outcome State Fault Refusal :=
  let s0 := s.takeLike isCompletion
  .next (match s.flight with
  | some ⟨.readRecord coil parts source, _, _, _⟩ =>
    endOp (match s0.recallSector coil with
      | some p => (recallReplies s0.memory p parts).foldl (fun t b => sendReply .recall source b t) s0
      | none => sendReply .recall source [Result.absent.byte] s0)
  | _ => s.take .readComplete)

/-- The sectors of bank 0 after sector 0 read erased (R183). -/
def restErased (m : Memory) : Bool := (List.range' 1 15).all m.sectorErased

/-- COMMIT_COMPLETE (R183): DONE if bank 0 read back erased and every byte of sector 0 as written. A program step that found sector
0 not erased has failed, so the other sectors are left to judge. DESIGN CHOICE (log entry 51): where one of these alone does
not read erased, the answer is DAMAGED and neither count grows, since R163 counts in a program step, which writes none of
them. -/
def execCommitComplete (wear : Wear) (s : State) : Host.Outcome State Fault Refusal :=
  .next (match s.flight with
  | some ⟨.commit image source, step, retry, left⟩ =>
    match runOp wear ⟨.commit image source, step, retry, left⟩ (s.takeLike isCompletion) with
    | (s1, good) =>
      let result : Result := if restErased s1.memory && good then .done else .damaged
      endOp (sendReply .setting source [result.byte, 0xFF] s1)
  | _ => s.take (.commitComplete wear))

/-! ### The start-up scan (R172) -/

/-- LOST_COMPLETION (R172): the steps that are left; the next completion begins, or the scan ends and the start event follows
(R181). -/
def execLostCompletion (wear : Wear) (s : State) : Host.Outcome State Fault Refusal :=
  .next (match s.flight with
  | some ⟨.lostRecord p, step, retry, left⟩ =>
    let s1 := (runOp wear ⟨.lostRecord p, step, retry, left⟩ (s.takeLike isCompletion)).1
    match s1.store.scanLeft with
    | q :: rest => beginOp (.lostRecord q) (s1.withStore { s1.store with scanLeft := rest })
    | [] => (endOp s1).emit [.startEvent]
  | _ => s.take (.lostCompletion wear))

end Sys2Proof.Machine
end

