-- ==== Sys2Proof/Machine/Service.lean ====
section
/-! DEFINITION. The service requests (R166 to R170, R173 to R179, R183). A node whose station strap is 0, or whose start event has
not come, takes none (R174, R181). -/

namespace Sys2Proof.Machine

/-- Whether the node answers requests at all (R174, R181). -/
def State.answers (s : State) : Bool := s.startRec.started && s.station != 0

/-- The state with its start record replaced. -/
def State.withStart (s : State) (r : StartRecord) : State := { s with startRec := r }

/-! ### The key (R166) -/

/-- The key after a KEY request (Table 9-5): its state and key station. DESIGN CHOICE (log entry 43): a key that becomes FROZEN keeps
the key station that it had, of which the table says nothing. -/
def keyAfter (k : KeyState) (station : Option Station) (source : Station) (value : Byte) : KeyState × Option Station :=
  match k with
  | .locked => if value = 0x3C then (.half, some source) else (.frozen, station)
  | .half => if value = 0xA7 ∧ station = some source then (.opened, station) else (.frozen, station)
  | .opened => (.frozen, station)
  | .frozen => (.frozen, station)

/-- The key consumed by the request that finds it OPEN (R166). -/
def consumeKey (s : State) : State := s.withStore { s.store with key := .locked, keyStation := none }

/-! ### The requests -/

/-- QUERY (R175): the content is taken when the reply's attempt begins. -/
def execQuery (source : Station) (page : Byte) (s : State) : Host.Outcome State Fault Refusal :=
  let s0 := s.take (.query source page)
  .next (if s0.answers then sendFrame (.status source page) s0 else s0)

/-- RECALL (R170, R177). -/
def execRecall (source : Station) (coil : BitVec 32) (parts : Byte) (s : State) : Host.Outcome State Fault Refusal :=
  let s0 := s.take (.recall source coil parts)
  .next (if !s0.answers then s0
  else if coil = 0 then sendReply .recall source [Result.bad.byte] s0
  else if s0.storeBusy then sendReply .recall source [Result.busy.byte] s0
  else enqueue (.readRecord coil.toNat parts source) s0)

/-- COLLECTED (R168, R174, R177). -/
def execCollected (source : Station) (coil : BitVec 32) (s : State) : Host.Outcome State Fault Refusal :=
  let s0 := s.take (.collected source coil)
  .next (if !s0.answers then s0
  else if !s0.begun then sendReply .collected source [Result.state.byte] s0
  else if coil = 0 then sendReply .collected source [Result.bad.byte] s0
  else if s0.storeBusy then sendReply .collected source [Result.busy.byte] s0
  else enqueue (.markCollected coil.toNat source) s0)

/-- KEY (R166, R177). -/
def execKey (source : Station) (value : Byte) (s : State) : Host.Outcome State Fault Refusal :=
  let s0 := s.take (.key source value)
  .next (if !s0.answers then s0
  else
    let k := keyAfter s0.store.key s0.store.keyStation source value
    let result : Result := if k.1 = .frozen then .frozen else .done
    sendReply .key source [result.byte, byte1 k.1.code] (s0.withStore { s0.store with key := k.1, keyStation := k.2 }))

/-- ERASE (R167, R174). -/
def execErase (source : Station) (bank : Byte) (s : State) : Host.Outcome State Fault Refusal :=
  let s0 := s.take (.erase source bank)
  .next (if !s0.answers then s0
  else if !s0.begun then sendReply .erase source [Result.state.byte] s0
  else
    match s0.store.key with
    | .frozen => sendReply .erase source [Result.frozen.byte] s0
    | .locked => sendReply .erase source [Result.locked.byte] s0
    | .half => sendReply .erase source [Result.locked.byte] s0
    | .opened =>
      let s1 := consumeKey s0
      if bank = 0 ∨ 15 < bank.toNat then sendReply .erase source [Result.bad.byte] s1
      else if s1.bankHoldsAnchor bank.toNat then sendReply .erase source [Result.state.byte] s1
      else if s1.storeBusy then sendReply .erase source [Result.busy.byte] s1
      else enqueue (.eraseBank bank.toNat source) s1)

/-- CHECK (R169): the last sector is clamped at the end of the memory. -/
def execCheck (source : Station) (first count : Byte) (s : State) : Host.Outcome State Fault Refusal :=
  let s0 := s.take (.check source first count)
  .next (if !s0.answers then s0
  else if s0.storeBusy then sendReply .check source [Result.busy.byte] s0
  else enqueue (.checkRange first.toNat (min (first.toNat + count.toNat) 255) source) s0)

/-! ### Settings (R179, R183) -/

/-- An image with 32 bytes put in at a part. -/
def stagePart (img : List Byte) (index : Nat) (data : List Byte) : List Byte :=
  img.take (32 * index) ++ data ++ img.drop (32 * index + 32)

/-- The judgment of a commit (R183), with its answer or its operation. -/
def takeCommit (source : Station) (s : State) : State :=
  match s.store.key with
  | .frozen => sendReply .setting source [Result.frozen.byte, 0xFF] s
  | .locked => sendReply .setting source [Result.locked.byte, 0xFF] s
  | .half => sendReply .setting source [Result.locked.byte, 0xFF] s
  | .opened =>
    let s1 := consumeKey s
    if s1.begun && !s1.startRec.commission then sendReply .setting source [Result.state.byte, 0xFF] s1
    else if s1.startRec.stagedParts ≠ 0xFF then sendReply .setting source [Result.state.byte, 0xFF] s1
    else if !imageValid s1.startRec.staged then sendReply .setting source [Result.bad.byte, 0xFF] s1
    else if s1.storeBusy then sendReply .setting source [Result.busy.byte, 0xFF] s1
    else enqueue (.commit s1.startRec.staged source) s1

/-- SETTING (R179, R183): a part staged; BAD where the index or the length is not one of a part. Index 0xFF alone is a commit
(SETTING_COMMIT). -/
def execSetting (source : Station) (index : Byte) (data : List Byte) (s : State) : Host.Outcome State Fault Refusal :=
  let s0 := s.take (.setting source index data)
  .next (if !s0.answers then s0
  else if index = 0xFF ∧ data = [] then takeCommit source s0
  else if index.toNat < 8 ∧ data.length = 32 then
    sendReply .setting source [Result.done.byte, index] (s0.withStart { s0.startRec with
      staged := stagePart s0.startRec.staged index.toNat data
      stagedParts := s0.startRec.stagedParts ||| ((1 : BitVec 8) <<< index.toNat) })
  else sendReply .setting source [Result.bad.byte, index] s0)

/-- SETTING_COMMIT (R179, R183). -/
def execSettingCommit (source : Station) (s : State) : Host.Outcome State Fault Refusal :=
  let s0 := s.take (.settingCommit source)
  .next (if s0.answers then takeCommit source s0 else s0)

/-! ### The coil builder and the status (R174, R178) -/

/-- TARGET (R140, R174, R178). A value out of its range is judged before the roles (log entry 18). -/
def execTarget (source : Station) (length : BitVec 32) (s : State) : Host.Outcome State Fault Refusal :=
  let s0 := s.take (.target source length)
  .next (if !s0.answers then s0
  else if !s0.begun then sendReply .target source [Result.state.byte] s0
  else if length = 0 then sendReply .target source [Result.bad.byte] s0
  else if !s0.settings.coil then sendReply .target source [Result.state.byte] s0
  else sendReply .target source [Result.done.byte] { s0 with coil := { s0.coil with pendingTarget := length.toNat } })

/-- CLEARFLAGS (R36, R174, R178). -/
def execClearflags (source : Station) (s : State) : Host.Outcome State Fault Refusal :=
  let s0 := s.take (.clearflags source)
  .next (if !s0.answers then s0
  else if !s0.begun then sendReply .clearflags source [Result.state.byte] s0
  else sendReply .clearflags source [Result.done.byte] (clearStatus s0))

end Sys2Proof.Machine
end

