-- ==== Sys2Proof/Machine/Start.lean ====
section
/-! DEFINITION. Reset and start: what a reset leaves of the store operation in flight (R165, R168, R171, log entry 5), the start
sequence (R181), the start-up scan (R171, R172) and the start event. -/

namespace Sys2Proof.Machine

/-! ### What a reset leaves of an operation in flight -/

/-- A program step abandoned (R158, R171): `written` bytes in full, the next with some of its bits. A step that did not find
its bytes erased had written none (R163). -/
def tearProgram (m : Memory) (torn : Torn) (a : Nat) (bytes : List Byte) : Memory :=
  if (m.readRange a bytes.length).all (· == erasedByte) then
    let m1 := m.burnAll [] a (bytes.take torn.written)
    match bytes[torn.written]? with
    | some v => m1.burn [] (a + torn.written) (v ||| torn.partly)
    | none => m1
  else m

/-- The memory `m1` with a sector's 256 bytes as they are in `m`. -/
def restoreSector (m m1 : Memory) (p : Nat) : Memory :=
  (m.filter (fun c => sectorBase p ≤ c.1 && c.1 < sectorBase p + 256)).foldl (fun n c => n.write c.1 c.2)
    (m1.clearRange (sectorBase p) (sectorBase p + 256))

/-- Whether a scan finds a sector of an abandoned erase as R165 says: ERASED, DAMAGED or unchanged. -/
def erasePlausible (m m1 : Memory) (p : Nat) : Bool :=
  classify m1 p == .erased || classify m1 p == .damaged || scanEntry m1 p == scanEntry m p

/-- A bank erase abandoned (R165): some bytes with some of their bits erased. A sector that those bytes would let a scan find
otherwise than ERASED, DAMAGED or unchanged is as it was (log entry 5). -/
def tearErase (m : Memory) (torn : Torn) (b : Nat) : Memory :=
  let m1 := (torn.erased.filter (fun c => b * 4096 ≤ c.1 && c.1 < b * 4096 + 4096)).foldl
    (fun m c => m.write c.1 (m.read c.1 ||| c.2)) m
  (bankSectors b).foldl (fun n p => if erasePlausible m n p then n else restoreSector m n p) m1

/-- A COLLECTED run abandoned (R168): the sectors that it has gone through are marked, and the rest are as they were. -/
def tearMarks (m : Memory) (torn : Torn) (sectors : List Nat) : Memory :=
  (sectors.take torn.written).foldl (fun m p => (m.program [] (sectorBase p + 16) [0x00]).1) m

/-- Whether a seal marker is of a known value (Table 9-2, Table 10-9). -/
def knownMarker (b : Byte) : Bool := b == 0xFF || b == sealedMarker || b == lostMarker || b == voidMarker

/-- A VOID-MARK abandoned (R163): the marker with some of its bits, or with all. A marker programmed in part is of no known value
(R171): where the bits that the reset names would make a known one, the marker is as it was (log entry 5). -/
def tearVoid (m : Memory) (torn : Torn) (p : Nat) : Memory :=
  let m1 := m.burn [] (sectorBase p + 255) (if torn.written = 0 then voidMarker ||| torn.partly else voidMarker)
  let marker := m1.read (sectorBase p + 255)
  if knownMarker marker && marker != voidMarker then m else m1

/-- A program step of a sector abandoned. A header cut short is not valid (R171): where the bytes that the reset names would make
it so, none of them is written (log entry 5). -/
def tearSector (m : Memory) (torn : Torn) (p a : Nat) (bytes : List Byte) : Memory :=
  let m1 := tearProgram m torn a bytes
  if a = sectorBase p && headerValid m1 p && m1.readRange a 32 != bytes.take 32 then m else m1

/-- The step in flight abandoned (R163, R165, R168, R171). -/
def tearStep (torn : Torn) (f : InFlight) (s : State) : Memory :=
  match f.step with
  | .nothing => s.memory
  | .erase b _ => tearErase s.memory torn b
  | .program p => tearSector s.memory torn p (programmed f.op p s).1 (programmed f.op p s).2
  | .void p => tearVoid s.memory torn p
  | .work =>
    match f.op with
    | .markCollected upTo _ => tearMarks s.memory torn (s.markList upTo)
    | .eraseBank b _ => tearErase s.memory torn b
    | _ => s.memory

/-- Whether an operation is a settings commit. -/
def StoreOp.isCommit : StoreOp → Bool
  | .commit _ _ => true
  | _ => false

/-- The memory as a reset finds it. A reset during a commit leaves sector 0 with a check that fails (R183): where the bytes that
the reset names would leave a valid one, the model takes bank 0 as erased (log entry 5). -/
def tornMemory (torn : Torn) (s : State) : Memory :=
  match s.store.inFlight with
  | none => s.memory
  | some f =>
    let m := tearStep torn f s
    if f.op.isCommit && imageValid (m.readRange 0 256) then m.eraseBank [] 0 else m

/-! ### The start-up scan (R171, R172) -/

/-- The sector table that a scan builds (R171). -/
def scanTable (m : Memory) : List SectorEntry := (List.range' 16 240).map (scanEntry m)

/-- Whether a class has a valid header (R172). -/
def SectorClass.headed : SectorClass → Bool
  | .erased => false
  | .damaged => false
  | _ => true

/-- The ring sectors with their entries, those with a valid header (R172). -/
def headedSectors (table : List SectorEntry) : List (Nat × SectorEntry) :=
  ((List.range' 16 240).zip table).filter (fun x => x.2.cls.headed)

/-- The highest coil number among headers. -/
def topCoil (l : List (Nat × SectorEntry)) : Nat := l.foldl (fun n x => max n x.2.coil) 0

/-- The highest-numbered sector of some. -/
def topSector (l : List (Nat × SectorEntry)) : Nat := l.foldl (fun n x => max n x.1) 0

/-- The headers that a scan judges by (R172): the own station's, or any where it has none. -/
def judgedHeaders (station : Station) (table : List SectorEntry) : List (Nat × SectorEntry) :=
  let own := (headedSectors table).filter (fun x => x.2.station == station)
  if own.isEmpty then headedSectors table else own

/-- The write pointer that a scan sets (R172). DESIGN CHOICE (log entry 43): with no header of the own station, several sectors of
the highest coil number are told apart as those of the own station are. -/
def scanPointer (station : Station) (table : List SectorEntry) : Nat :=
  let l := judgedHeaders station table
  if l.isEmpty then 16
  else
    let top := l.filter (fun x => x.2.coil == topCoil l)
    let whole := top.filter (fun x => x.2.cls != .void)
    nextSector (topSector (if whole.isEmpty then top else whole))

/-- The next coil number that a scan finds (R172); absent for EXHAUSTED. -/
def scanNext (station : Station) (table : List SectorEntry) : Option Nat :=
  let own := (headedSectors table).filter (fun x => x.2.station == station)
  if own.isEmpty then some 1 else nextCoil (topCoil own)

/-- The OPEN-ONLY sectors, in ascending order (R172). -/
def openSectors (table : List SectorEntry) : List Nat :=
  (((List.range' 16 240).zip table).filter (fun x => x.2.cls == .openOnly)).map Prod.fst

/-- The store after the scan has classified the sectors (R171, R172); the completions are still to come. -/
def scannedStore (station : Station) (wrap : Bool) (table : List SectorEntry) : Store :=
  { Store.reset with
    wrap := wrap
    pointer := scanPointer station table
    table := table
    scanLeft := (openSectors table).drop 1 }

/-- The scan's first completion, or the start event where there is none (R172, R181). -/
def beginScan (s : State) : State :=
  match openSectors s.store.table with
  | p :: _ => beginOp (.lostRecord p) s
  | [] => s.emit [.startEvent]

/-! ### Reset (R181) -/

/-- The settings in use after a start: the image's where it is valid (R181, R182; log entry 10). -/
def settingsInUse (img : List Byte) : Settings := if imageValid img then settingsOf img else Settings.blank

/-- The node after steps 1 to 3 of the start sequence, before the scan's completions (R181). -/
def startedNode (station : Station) (commission : Bool) (m : Memory) (s : State) : State :=
  let img := m.readRange 0 256
  let g := settingsInUse img
  let table := scanTable m
  { State.reset with
    pending := s.pending
    due := []
    pins := s.pins
    world := s.world
    startRec := { StartRecord.reset with station := station, commission := commission, settingsValid := imageValid img }
    settings := g
    coil := { CoilBuilder.reset with next := scanNext station table, pendingTarget := g.coilTarget }
    store := scannedStore station g.wrap table
    memory := m }

/-- RESET (R1, R112, R171, R181 and every "after reset"). The commands that wait, the levels of the pins and what
comes from outside are the surroundings' (log entries 4, 33 and 39). -/
def execReset (station : Station) (commission : Bool) (torn : Torn) (s : State) : Host.Outcome State Fault Refusal :=
  .next (beginScan (startedNode station commission (tornMemory torn s) s))

/-! ### The start event (R181) -/

/-- The scan has ended (R172). -/
def State.scanEnded (s : State) : Bool :=
  s.store.scanLeft.isEmpty && s.store.inFlight.all (fun f =>
    match f.op with
    | .lostRecord _ => false
    | _ => true)

/-- The metering unit begins (R20, R26): the pairs read are the references, taken by the decoders, and the first evaluation is
100 ms away. -/
def beginMeter (s : State) : State :=
  (s.withPins { s.pins with encA := s.pins.readA, encB := s.pins.readB }).withMeter { s.meter with
    encA := { s.meter.encA with reference := s.pins.readA }
    encB := { s.meter.encB with reference := s.pins.readB }
    keptLength := s.lineLength
    evaluationLeft := some evaluationPeriod }

/-- The sense sampler begins (R60). -/
def beginSampler (s : State) : State :=
  s.emit [.channelStartRequest 6 (intervalRequest .ms1 s.settings.scanPeriod .none)]

/-- The floor line interface begins (R181 step 4). -/
def beginLine (s : State) : State :=
  s.withLine { s.line with rx := .hunt, tx := if s.station = 0 then .quiet else .starting, idle := 0, idleSub := 0 }

/-- The node leaves UNSET (R112, R181): STANDBY, every job begins, and an open chain raises BREAK. -/
def leaveUnset (s : State) : State :=
  let s1 := beginKnot (beginSampler (beginTwist (beginMeter (refreshAlarm (setPermit .standby s)))))
  if s1.pins.breakOpen then raise .breakChain s1 else s1

/-- START_EVENT (R181). -/
def execStartEvent (s : State) : Host.Outcome State Fault Refusal :=
  let s0 := s.take .startEvent
  .next (if s0.startRec.started || !s0.scanEnded then s0
  else
    let s1 := beginLine (s0.withStart { s0.startRec with started := true })
    if s1.startRec.settingsValid && s1.station != 0 then leaveUnset s1 else s1)

end Sys2Proof.Machine
end

