-- ==== Sys2Proof/Machine/Time.lean ====
section
/-! DEFINITION. What step does when no command waits and no event is due (log entries 1 and 3): an expiry that waits is given
(R12), or one µs of the node's time base passes. Timers run on, and each that expires makes its event due. -/

namespace Sys2Proof.Machine

/-! ### Channels (R3, R10 to R16) -/

/-- One count step of a channel at the end of a tick unit. -/
def stepChannel (i : Fin 8) (s : State) : State :=
  let c := s.channel i
  match c.mode, c.state with
  | none, _ => s
  | some m, .running =>
    if isMeasuring m then s.setChannel i { c with count := if c.count = maxCount then maxCount else c.count + 1 }
    else if c.count.toNat ≤ 1 then
      let s1 := s.setChannel i { c with count := 0 }
      if m = .pulse then giveDrive i s1 else giveExpiry i m s1
    else s.setChannel i { c with count := c.count - 1 }
  | some m, .driving =>
    if c.count.toNat ≤ 1 then giveExpiry i m (s.setChannel i { c with count := 0 })
    else s.setChannel i { c with count := c.count - 1 }
  | some _, _ => s

/-- One µs of a channel (R3): its divider, and a count step at the end of a tick unit. -/
def tickChannel (s : State) (i : Fin 8) : State :=
  let c := s.channel i
  if c.state = .running ∨ c.state = .driving then
    match c.unit.micros with
    | some m =>
      if c.divider + 1 < m then s.setChannel i { c with divider := c.divider + 1 }
      else stepChannel i (s.setChannel i { c with divider := 0 })
    | none => s
  else s

/-! ### The sampled inputs (R4, R21) -/

/-- The pairs that the four samples of this µs read at an encoder (R21): those that the surroundings bring (log entry 39), else
the pair read last. -/
def State.samples (s : State) (e : EncoderId) : List (Bool × Bool) :=
  match s.world.levels, e with
  | [], _ => List.replicate 4 (s.pins.read e)
  | l :: _, .a => l.encA.toList
  | l :: _, .b => l.encB.toList

/-- The four samples of an encoder's lines in this µs (R21). -/
def tickEncoder (s : State) (e : EncoderId) : State := (s.samples e).foldl (samplePair e) s

/-- The levels that this µs brings to the inputs that are read as they stand (log entry 39). -/
def showLevels (s : State) : State :=
  match s.world.levels with
  | [] => s
  | l :: _ => s.withPins { s.pins with phase := l.phase, ks := l.ks, ai := l.ai, supply := l.supply }

/-- The sample that this µs brings to SP1–SP4, and the levels still to come (log entry 39). -/
def tickLevels (s : State) : State :=
  match s.world.levels with
  | [] => s
  | l :: rest => { s with pins := { s.pins with sp := l.sp }, world := { s.world with levels := rest } }

/-- A taken level after a sample (R4): a level read on two successive samples is taken. -/
def takenLevel (before now taken : BitVec 4) : BitVec 4 := (before &&& now) ||| (taken &&& (before ||| now))

/-- The edges of spindle n's input at the channels that have it as their input (R4). -/
def spindleEdge (was : BitVec 4) (s : State) (n : Fin 4) : State :=
  let now := s.pins.spTaken.getLsbD n.val
  if was.getLsbD n.val = now then s
  else
    ((List.finRange 8).filter (fun i => (s.channel i).input == .spindle n)).foldl (fun t i => inputEdge i now t) s

/-- A sample of SP1–SP4, and the edges it makes (R4). -/
def tickSpindles (s : State) : State :=
  let before := s.pins.sp
  let was := s.pins.spTaken
  let s1 := tickLevels s
  let s2 := { s1 with pins := { s1.pins with spTaken := takenLevel before s1.pins.sp was } }
  (List.finRange 4).foldl (spindleEdge was) s2

/-! ### Timers of the blocks -/

/-- The event of a timer that has expired. -/
def onExpiry (expired : Bool) (e : Instr) (s : State) : State := if expired then s.emit [e] else s

/-- The metering unit's evaluations (R26). -/
def tickMeter (s : State) : State :=
  let t := timerTick s.meter.evaluationLeft
  onExpiry t.2 .speedEvaluation (s.withMeter { s.meter with evaluationLeft := t.1 })

/-- The twist monitor's hold timer (R57). -/
def tickTwist (s : State) : State :=
  let t := timerTick s.twist.holdLeft
  onExpiry t.2 .paceHoldExpiry (s.withTwist { s.twist with holdLeft := t.1 })

/-- The conversion in progress (R64). -/
def tickSampler (s : State) : State :=
  let t := timerTick s.sampler.conversionLeft
  onExpiry t.2 (.conversionComplete s.sampler.sampled) (s.withSampler { s.sampler with conversionLeft := t.1 })

/-- The phase inputs read (R75). -/
def tickPhase (s : State) : State :=
  let code := s.pins.phase
  let k := s.knot
  if !s.knotNode then s
  else if k.takenCode = some code then (if k.candidate.isSome then s.emit [.phaseCandidate code] else s)
  else if k.candidate = some code then
    onExpiry (s.settings.phaseFilter ≤ k.filterTime + 1) (.phaseCodeChange code)
      (s.withKnot { k with filterTime := k.filterTime + 1 })
  else s.emit [.phaseCandidate code]

/-- The sample timer (R83). -/
def tickKnot (s : State) : State :=
  let t := timerTick s.knot.sampleLeft
  onExpiry t.2 (.knotSample s.pins.ks) (s.withKnot { s.knot with sampleLeft := t.1 })

/-- The events that the idle count brings (R99, R105). -/
def idleEvents (s : State) : List Instr :=
  (if s.line.rx = .pass ∧ idleLimit ≤ s.line.idle then [.passIdle] else []) ++
    (if (s.line.rx = .frame ∨ s.line.rx = .check) ∧ idleLimit ≤ s.line.idle then [.brokenFrame true] else []) ++
    (match s.line.tx, s.line.queue with
      | .starting, _ => if 40 ≤ s.line.idle then [.transmitterJoin] else []
      | .gap, f :: _ => if gapOf s.station f ≤ s.line.idle then [.attemptBegin] else []
      | _, _ => [])

/-- The floor line idle for one µs more (R99, R105). A bit time is 4 µs. -/
def tickIdle (s : State) : State :=
  let s1 := s.withLine (if s.line.idleSub < 3 then { s.line with idleSub := s.line.idleSub + 1 }
    else { s.line with idleSub := 0, idle := s.line.idle + 1 })
  s1.emit (idleEvents s1)

/-- The µs of a byte on the line: 10 bit times (R97). -/
def byteTime : Nat := 40

/-- One µs of another station's byte (R99, R105): at its end the receiver takes it, and an idle begins. -/
def tickByte (left : Nat) (b : LineByte) (rest : List LineByte) (s : State) : State :=
  if 1 < left then s.withLine { s.line with byteLeft := some (left - 1) }
  else
    let x := s.line.rxByte b.value b.stopLow
    ({ s with world := { s.world with line := rest } }.withLine { x.1 with byteLeft := none }).emit x.2

/-- The line while the node sends nothing: a byte of another station that is on it, one that begins, or an idle. -/
def tickListening (s : State) : State :=
  match s.line.byteLeft, s.world.line with
  | some left, b :: rest => tickByte left b rest s
  | some _, [] => s.withLine { s.line with byteLeft := none }
  | none, b :: rest =>
    if b.wait = 0 then s.withLine { s.line.startBit with byteLeft := some (byteTime - 1) }
    else tickIdle { s with world := { s.world with line := { b with wait := b.wait - 1 } :: rest } }
  | none, [] => tickIdle s

/-- The number of the node's own byte that has just ended, with `left` µs of the attempt still to come. -/
def endedByte (left : Nat) (l : FloorLine) : Option Nat :=
  if left % byteTime = 0 then some (l.sending.length - left / byteTime - 1) else none

/-- Whether the byte of a number reads otherwise than it was sent (R106; log entry 39). -/
def State.collidesAt (s : State) (n : Nat) : Bool := s.badReading.any (fun r => r.good == n)

/-- One µs of the attempt in progress (R106): the receiver takes each byte at its end (R99), the last ends the attempt, and one that
reads otherwise than it was sent is a collision. -/
def tickSending (s : State) : State :=
  match s.line.sendLeft with
  | some (left + 1) =>
    let s1 := s.withLine { s.line with sendLeft := some left }
    match endedByte left s.line with
    | some n =>
      if s.collidesAt n then s1.emit [.collision]
      else
        let x := s1.line.rxByte (s.line.sending.getD n 0) false
        onExpiry (left == 0) .attemptSuccess ((s1.withLine x.1).emit x.2)
    | none => s1
  | some 0 => s.emit [.attemptSuccess]
  | none => s

/-- The floor line for one µs (R99, R105, R106). -/
def tickLine (s : State) : State :=
  if !s.startRec.started then s else if s.line.tx = .sending then tickSending s else tickListening s

/-- The presence timer (R103). -/
def tickPresence (s : State) : State :=
  let t := timerTick s.line.presenceLeft
  onExpiry t.2 .presenceTimerExpiry (s.withLine { s.line with presenceLeft := t.1 })

/-- A peer entry one µs older (Table 6-6). -/
def agedPeer (p : Peer) : Peer := { p with age := holdInc removalAge p.age }

/-- Whether an ageing step of an entry has come (R110). -/
def ageingDue (p : Peer) : Bool := (if p.heard then silentAge else removalAge) ≤ p.age

/-- The ages of the peer entries (R110). -/
def tickPeers (s : State) : State :=
  let l := s.peers.map agedPeer
  ({ s with peers := l }).emit ((l.filter ageingDue).map (fun p : Peer => Instr.peerAgeing p.station))

/-- The protection unit's timers (R114, R122): the end of a refusal blink takes the place of a change of the lamp. -/
def tickProtection (s : State) : State :=
  let h := timerTick s.prot.haltLeft
  let b := timerTick s.prot.blinkLeft
  let f := timerTick s.prot.lamp.flashLeft
  let s1 := s.withProt { s.prot with haltLeft := h.1, blinkLeft := b.1, lamp := { s.prot.lamp with flashLeft := f.1 } }
  onExpiry (f.2 && !b.2) .alarmFlash (onExpiry b.2 .refusalBlinkEnd (onExpiry h.2 .haltTimerExpiry s1))

/-- The supply watch (R133). DESIGN CHOICE (log entry 48): no rule gives the voltage of the brown-out reset, so no supply, 0 V
included, trips one here; a brown-out comes as a commanded RESET alone. -/
def tickSupply (s : State) : State :=
  let s1 := s.withPins s.pins.supplyRead
  s1.emit (supplyEvents s1)

/-- The coil builder's timers (R142, R143). -/
def tickCoil (s : State) : State :=
  let r := timerTick s.coil.restLeft
  let c := timerTick s.coil.cutLeft
  onExpiry c.2 .cutTimerExpiry (onExpiry r.2 .restTimerExpiry (s.withCoil { s.coil with restLeft := r.1, cutLeft := c.1 }))

/-- The completion of an operation, with bytes that take another value than the one written (log entry 5). -/
def completionOf (wear : Wear) : StoreOp → Instr
  | .programHeader _ _ => .programHeaderComplete wear
  | .keep _ => .keepComplete wear
  | .markCollected _ _ => .markCollectedComplete wear
  | .eraseBank _ _ => .eraseBankComplete wear
  | .checkRange _ _ _ => .checkComplete
  | .readRecord _ _ _ => .readComplete
  | .lostRecord _ => .lostCompletion wear
  | .commit _ _ => .commitComplete wear

/-- The end of a step of the operation in flight by time: the next step begins, or the completion is due, which carries the last
step out (Table 9-3). -/
def endStepByTime (f : InFlight) (s : State) : State :=
  match endStep s.world.wear f s with
  | (s1, .next step retry) => putStep f.op retry (s1, step)
  | (_, .done _) =>
    (s.withStore { s.store with inFlight := some { f with left := 0 } }).emit [completionOf s.world.wear f.op]

/-- The store's operation in flight (Table 9-3). -/
def tickStore (s : State) : State :=
  match s.store.inFlight with
  | some f =>
    if f.left ≤ 1 then endStepByTime f s else s.withStore { s.store with inFlight := some { f with left := f.left - 1 } }
  | none => s

/-- One µs passes. DESIGN CHOICE (log entry 3): what falls in the same µs is taken in a fixed order, at the levels that the µs
brings: the channels' own time first, then the encoders, the spindle inputs, the speed evaluation, the hold timer, the conversion,
the phase inputs, the sample timer, the floor line, the presence timer, the peers, the protection unit, the supply watch, the coil
builder and the store. -/
def tick (s : State) : State :=
  tickStore (tickCoil (tickSupply (tickProtection (tickPeers (tickPresence (tickLine (tickKnot (tickPhase (tickSampler
    (tickTwist (tickMeter (tickSpindles ([EncoderId.a, .b].foldl tickEncoder
      ((List.finRange 8).foldl tickChannel (showLevels s)))))))))))))))

/-- The first channel whose expiry waits: a DELAY that entered RUNNING with a reload of 0 (R12). -/
def State.waitingExpiry (s : State) : Option (Fin 8) := (List.finRange 8).find? (fun i => (s.channel i).expiryWaits)

/-- The node with no command waiting and no event due: an expiry that waits is given, with no time passed (R12), or one µs
passes. -/
def idle (s : State) : State :=
  match s.waitingExpiry with
  | some i => giveExpiry i .delay s
  | none => tick s

end Sys2Proof.Machine
end

