-- ==== Sys2Proof/Machine/Dispatch.lean ====
section
/-! DEFINITION. The meaning of every command: one arm per row of the table, each one call of its meaning. -/

namespace Sys2Proof.Machine

def exec (i : Instr) (s : State) : Host.Outcome State Fault Refusal :=
  match i with
  | .reset station commission torn => Sys2Proof.Machine.execReset station commission torn s
  | .startEvent => Sys2Proof.Machine.execStartEvent s
  | .channelStartRequest channel request => Sys2Proof.Machine.execChannelStartRequest channel request s
  | .channelStopRequest channel => Sys2Proof.Machine.execChannelStopRequest channel s
  | .setNextReload channel reload => Sys2Proof.Machine.execSetNextReload channel reload s
  | .channelTrigger channel event => Sys2Proof.Machine.execChannelTrigger channel event s
  | .intervalExpiry channel => Sys2Proof.Machine.execIntervalExpiry channel s
  | .periodCapture channel => Sys2Proof.Machine.execPeriodCapture channel s
  | .encoderTransition encoder line1 line2 => Sys2Proof.Machine.execEncoderTransition encoder line1 line2 s
  | .speedEvaluation => Sys2Proof.Machine.execSpeedEvaluation s
  | .pacePartToMetering length => Sys2Proof.Machine.execPacePartToMetering length s
  | .flagSetRequest flag origin => Sys2Proof.Machine.execFlagSetRequest flag origin s
  | .spindleTurn spindle => Sys2Proof.Machine.execSpindleTurn spindle s
  | .twistRunningEntry => Sys2Proof.Machine.execTwistRunningEntry s
  | .twistRunningExit => Sys2Proof.Machine.execTwistRunningExit s
  | .stallCheck => Sys2Proof.Machine.execStallCheck s
  | .twistSegmentRequest coil => Sys2Proof.Machine.execTwistSegmentRequest coil s
  | .pacePartToTwist v => Sys2Proof.Machine.execPacePartToTwist v s
  | .paceSourceSilent => Sys2Proof.Machine.execPaceSourceSilent s
  | .paceHoldExpiry => Sys2Proof.Machine.execPaceHoldExpiry s
  | .paceSourceHeard => Sys2Proof.Machine.execPaceSourceHeard s
  | .scanStart => Sys2Proof.Machine.execScanStart s
  | .conversionComplete result => Sys2Proof.Machine.execConversionComplete result s
  | .samplerRunningEntry => Sys2Proof.Machine.execSamplerRunningEntry s
  | .samplerRunningExit => Sys2Proof.Machine.execSamplerRunningExit s
  | .tensionClearQuestion => Sys2Proof.Machine.execTensionClearQuestion s
  | .tensionClearNotice => Sys2Proof.Machine.execTensionClearNotice s
  | .phaseCodeChange code => Sys2Proof.Machine.execPhaseCodeChange code s
  | .windowOpen lines => Sys2Proof.Machine.execWindowOpen lines s
  | .knotSample lines => Sys2Proof.Machine.execKnotSample lines s
  | .windowClose => Sys2Proof.Machine.execWindowClose s
  | .drawWidthCapture capture saturated => Sys2Proof.Machine.execDrawWidthCapture capture saturated s
  | .knotRunningEntry => Sys2Proof.Machine.execKnotRunningEntry s
  | .knotRunningExit => Sys2Proof.Machine.execKnotRunningExit s
  | .knotSegmentRequest coil => Sys2Proof.Machine.execKnotSegmentRequest coil s
  | .frameReceived frame => Sys2Proof.Machine.execFrameReceived frame s
  | .brokenFrame byIdle => Sys2Proof.Machine.execBrokenFrame byIdle s
  | .presenceTimerExpiry => Sys2Proof.Machine.execPresenceTimerExpiry s
  | .permitStateNotice permit => Sys2Proof.Machine.execPermitStateNotice permit s
  | .withdrawRequest serial => Sys2Proof.Machine.execWithdrawRequest serial s
  | .transmitterJoin => Sys2Proof.Machine.execTransmitterJoin s
  | .attemptBegin => Sys2Proof.Machine.execAttemptBegin s
  | .attemptSuccess => Sys2Proof.Machine.execAttemptSuccess s
  | .collision => Sys2Proof.Machine.execCollision s
  | .peerListFrame frame => Sys2Proof.Machine.execPeerListFrame frame s
  | .peerAgeing station => Sys2Proof.Machine.execPeerAgeing station s
  | .start => Sys2Proof.Machine.execStart s
  | .stop => Sys2Proof.Machine.execStop s
  | .breakOpen => Sys2Proof.Machine.execBreakOpen s
  | .breakClose => Sys2Proof.Machine.execBreakClose s
  | .alarmReset => Sys2Proof.Machine.execAlarmReset s
  | .raiseCause cause => Sys2Proof.Machine.execRaiseCause cause s
  | .clearCause cause => Sys2Proof.Machine.execClearCause cause s
  | .haltTimerExpiry => Sys2Proof.Machine.execHaltTimerExpiry s
  | .withdrawAnswer sent serial => Sys2Proof.Machine.execWithdrawAnswer sent serial s
  | .haltFrame station cause serial length => Sys2Proof.Machine.execHaltFrame station cause serial length s
  | .resumeFrame station serial => Sys2Proof.Machine.execResumeFrame station serial s
  | .presenceHaltPart station halt => Sys2Proof.Machine.execPresenceHaltPart station halt s
  | .tensionAnswer yes => Sys2Proof.Machine.execTensionAnswer yes s
  | .cutEndedAnswer ended => Sys2Proof.Machine.execCutEndedAnswer ended s
  | .heldBackAnswer heldBack => Sys2Proof.Machine.execHeldBackAnswer heldBack s
  | .coilHoldSet => Sys2Proof.Machine.execCoilHoldSet s
  | .coilHoldClear => Sys2Proof.Machine.execCoilHoldClear s
  | .supplyWarning => Sys2Proof.Machine.execSupplyWarning s
  | .supplyRecovery => Sys2Proof.Machine.execSupplyRecovery s
  | .refusalBlinkEnd => Sys2Proof.Machine.execRefusalBlinkEnd s
  | .coilRunningEntry => Sys2Proof.Machine.execCoilRunningEntry s
  | .cutRequest => Sys2Proof.Machine.execCutRequest s
  | .restTimerExpiry => Sys2Proof.Machine.execRestTimerExpiry s
  | .cutDriveStart => Sys2Proof.Machine.execCutDriveStart s
  | .cutPulseExpiry => Sys2Proof.Machine.execCutPulseExpiry s
  | .cutTimerExpiry => Sys2Proof.Machine.execCutTimerExpiry s
  | .cutEndedQuestion => Sys2Proof.Machine.execCutEndedQuestion s
  | .cutDone => Sys2Proof.Machine.execCutDone s
  | .segmentStatisticsAnswer coil part => Sys2Proof.Machine.execSegmentStatisticsAnswer coil part s
  | .reasonNotice code station stopped => Sys2Proof.Machine.execReasonNotice code station stopped s
  | .splice => Sys2Proof.Machine.execSplice s
  | .markSpliceReceived station => Sys2Proof.Machine.execMarkSpliceReceived station s
  | .markCutReceived station coil => Sys2Proof.Machine.execMarkCutReceived station coil s
  | .tallyReceived station tally => Sys2Proof.Machine.execTallyReceived station tally s
  | .tallyWaitExpiry => Sys2Proof.Machine.execTallyWaitExpiry s
  | .keepReport coil kept => Sys2Proof.Machine.execKeepReport coil kept s
  | .heldBackQuestion => Sys2Proof.Machine.execHeldBackQuestion s
  | .supplyNotice => Sys2Proof.Machine.execSupplyNotice s
  | .programHeaderComplete wear => Sys2Proof.Machine.execProgramHeaderComplete wear s
  | .keepComplete wear => Sys2Proof.Machine.execKeepComplete wear s
  | .markCollectedComplete wear => Sys2Proof.Machine.execMarkCollectedComplete wear s
  | .eraseBankComplete wear => Sys2Proof.Machine.execEraseBankComplete wear s
  | .checkComplete => Sys2Proof.Machine.execCheckComplete s
  | .readComplete => Sys2Proof.Machine.execReadComplete s
  | .lostCompletion wear => Sys2Proof.Machine.execLostCompletion wear s
  | .commitComplete wear => Sys2Proof.Machine.execCommitComplete wear s
  | .query source page => Sys2Proof.Machine.execQuery source page s
  | .recall source coil parts => Sys2Proof.Machine.execRecall source coil parts s
  | .collected source coil => Sys2Proof.Machine.execCollected source coil s
  | .key source value => Sys2Proof.Machine.execKey source value s
  | .erase source bank => Sys2Proof.Machine.execErase source bank s
  | .check source first count => Sys2Proof.Machine.execCheck source first count s
  | .setting source index data => Sys2Proof.Machine.execSetting source index data s
  | .settingCommit source => Sys2Proof.Machine.execSettingCommit source s
  | .target source length => Sys2Proof.Machine.execTarget source length s
  | .clearflags source => Sys2Proof.Machine.execClearflags source s
  | .phaseCandidate code => Sys2Proof.Machine.execPhaseCandidate code s
  | .receiverEntersPass => Sys2Proof.Machine.execReceiverEntersPass s
  | .passIdle => Sys2Proof.Machine.execPassIdle s
  | .alarmFlash => Sys2Proof.Machine.execAlarmFlash s

end Sys2Proof.Machine
end

