-- ==== Sys2Proof/Machine/Step.lean ====
section
/-! DEFINITION. One step of the node: the command at the front of the queue, else the oldest event that is due, else an expiry that
waits or one µs of the time base (log entries 1 and 3). -/

namespace Sys2Proof.Machine

/-- One step. A command that waits goes first, and runs on the node with the queue's rest. With none waiting, the oldest due
event is taken (its meaning takes it out of `due`). With neither, an expiry that waits is given or one µs passes. -/
def step (s : State) : Host.Outcome State Fault Refusal :=
  match s.pending with
  | c :: rest => exec c { s with pending := rest }
  | [] =>
    match s.due with
    | e :: _ => exec e s
    | [] => .next (idle s)

/-- The node with the command that a word spells put at the front of its queue. No word spells one. -/
def State.withFetchWord (s : State) (nbits w : Nat) : State :=
  match Sys2Proof.decodeTableWord nbits w with
  | some c => { s with pending := c :: s.pending }
  | none => s

end Sys2Proof.Machine
end

