-- ==== Sys2Proof/Safety.lean ====
section
/-! DEFINITION. The words that claims about the node are made in: that a command completes, which parts of the node it may
change, what it does to the arithmetic status, and the invariants that every step keeps. -/

namespace Sys2Proof.Machine

/-! ### Completion and frames -/

/-- The parts of the node that a command may change, beside the queue of commands. -/
inductive Part where
  | due | pins | startRec | settings | channels | meter | twist | sampler | knot | line | peers | prot | coil | store | memory | world
  deriving DecidableEq, Repr

/-- A part of the node is the same before and after. -/
def Part.kept (s t : State) : Part → Prop
  | .due => t.due = s.due
  | .pins => t.pins = s.pins
  | .startRec => t.startRec = s.startRec
  | .settings => t.settings = s.settings
  | .channels => t.channels = s.channels
  | .meter => t.meter = s.meter
  | .twist => t.twist = s.twist
  | .sampler => t.sampler = s.sampler
  | .knot => t.knot = s.knot
  | .line => t.line = s.line
  | .peers => t.peers = s.peers
  | .prot => t.prot = s.prot
  | .coil => t.coil = s.coil
  | .store => t.store = s.store
  | .memory => t.memory = s.memory
  | .world => t.world = s.world

/-- Every part but those listed is unchanged, and the commands that wait are the same. -/
def Only (changed : List Part) (s t : State) : Prop :=
  t.pending = s.pending ∧ ∀ p : Part, p ∉ changed → p.kept s t

/-- A command runs to a next state, of which something holds. -/
def Completes (c : Instr) (s : State) (P : State → Prop) : Prop := ∃ t, exec c s = .next t ∧ P t

/-- The arithmetic status after an event whose computations have asked for one flag (R35, R37): the flag is set and no other
changes, the origin is taken only where no flag stood, and the first flag asks for ARITH with ARITH-ESCALATE set. -/
def Flagged (flag : ArithFlag) (origin : Origin) (s t : State) : Prop :=
  t.meter.flags = s.meter.flags.set flag ∧
    t.meter.origin = (if s.meter.flags.any = true then s.meter.origin else origin) ∧
    (s.meter.flags.any = false → s.settings.arithEscalate = true → .raiseCause .arith ∈ t.due)

/-- The arithmetic status after an event whose computations have asked for no flag. -/
def Unflagged (s t : State) : Prop := t.meter.flags = s.meter.flags ∧ t.meter.origin = s.meter.origin

/-- What the frames of the transmit queue carry, in queue order. -/
def State.contents (s : State) : List FrameContent := s.line.queue.map QueuedFrame.content

/-- A routine frame was handed to the transmit queue (R102): it stands at its end, or was discarded where 8 were queued. -/
def Joined (c : FrameContent) (s t : State) : Prop :=
  (s.line.queue.length < 8 → t.contents = s.contents ++ [c] ∧ t.line.overruns = s.line.overruns) ∧
    (8 ≤ s.line.queue.length → t.contents = s.contents ∧ t.line.overruns = holdInc 65535 s.line.overruns)

/-- An operation was handed to the store (R159): it is in flight or waits. -/
def HandedToStore (op : StoreOp) (t : State) : Prop := (∃ f, t.store.inFlight = some f ∧ f.op = op) ∨ op ∈ t.store.waiting

/-- The memory is unchanged outside the bytes from `lo` up to, not including, `hi`. -/
def KeepsOutside (lo hi : Nat) (s t : State) : Prop := ∀ a, a < lo ∨ hi ≤ a → t.memory.read a = s.memory.read a

/-! ### Invariants -/

/-- R113: in RUNNING the own cause set is empty and the halt table holds no entry. -/
def RunsUnheld (s : State) : Prop := s.prot.permit = .running → s.prot.causes = [] ∧ s.prot.table = []

/-- R123, R124: in STANDBY the machine is not eligible to resume by itself. -/
def StandbyIneligible (s : State) : Prop := s.prot.permit = .standby → s.prot.eligible = false

/-- No routine frame stands ahead of an urgent one (R102). -/
def urgentFirst (q : List QueuedFrame) : Prop := q.Pairwise (fun f g => g.urgent = true → f.urgent = true)

/-- R102: the transmit queue holds at most 8 frames, at most one of them PRESENCE, and no routine frame stands ahead of an
urgent one. -/
def QueueOrdered (s : State) : Prop :=
  s.line.queue.length ≤ 8 ∧ (s.line.queue.filter (fun f => f.content == .presence)).length ≤ 1 ∧ urgentFirst s.line.queue

/-- R52: windows equals within + below + above + stalled, for every spindle. -/
def WindowsAddUp (s : State) : Prop :=
  ∀ n : Fin 4, (s.spindle n).stats.windows =
    (s.spindle n).stats.within + (s.spindle n).stats.below + (s.spindle n).stats.above + (s.spindle n).stats.stalled

/-- The memory is in canonical form. -/
def MemoryCanonical (s : State) : Prop := s.memory.wf

/-- R130: the halt table holds at most one entry for each station. -/
def HaltsUnique (s : State) : Prop := s.prot.table.Pairwise (fun e f => e.station < f.station)

/-- R137: the lists of a record stay within their sizes. -/
def RecordFits (r : CoilRecord) : Prop := r.halts.length ≤ 8 ∧ r.splices.length ≤ 8 ∧ r.contributors.length ≤ 15

/-- R137 for every slot. -/
def RecordsFit (s : State) : Prop := ∀ r ∈ s.records, RecordFits r

/-- R88: the row history holds at most 16 entries. -/
def HistoryFits (s : State) : Prop := s.knot.history.length ≤ 16

end Sys2Proof.Machine
end

