-- ==== Sys2Proof/Certificates/Slice0/Obligations.lean ====
section
/-! DEFINITION. The statements for the provers. Each docstring names the rules that it rests on. `Completes c s P` says that the
command runs to a next state of which `P` holds; `Only l s t` says that no part of the node but those listed has
changed. `due` is the model's list of events given and not yet taken (log entry 1): a command takes its own event out of
it and may add others. -/

open Sys2Proof Sys2Proof.Machine

/-! ### The step -/

/-- A step takes the command at the front of the queue and runs it on the node with the queue's rest. -/
def Obligations.StepRunsTheFrontCommand : Prop :=
  ∀ (c : Instr) (rest : List Instr) (s : State), s.pending = c :: rest → step s = exec c { s with pending := rest }

/-- With no command waiting, a step takes the oldest event that is due (log entry 1). With none due, a DELAY channel that
entered RUNNING with a reload of 0 gives its expiry (R12); else one µs passes (log entry 3): a timer that runs falls by one,
and its event is due when it reaches 0 (a change of the lamp is not where the refusal blink ends with it: log entry 23); a
channel counts at the end of its tick unit (R3, R10 to R16), and at an expiry that time gives the row of its owner is due,
where the owner has one (log entry 14), and a trigger for every channel ARMED with CHAIN on it (R7, R17); the phase filter
compares the code read with the taken code and the candidate, whose change is due once the filter time has elapsed (R75); the
peers grow older, and an ageing step is due at 3,000 ms for a HEARD entry and at 10,000 ms for a SILENT one (R110); the
inputs take the levels that the surroundings bring (log entry 39), and keep those they have where none come (log entry 4);
SP1 to SP4 are sampled, and an edge taken counts at a COUNT channel (R4, R11); a pair that the samples of an encoder take
makes its transition due (R21), and a supply below 17.0 V for 1 ms, or above 18.0 V for 100 ms, its warning or recovery
(R133). Time acts through the events it makes due: it changes no permit, cause, setting or flag, and no memory where no
operation is in flight; that no supply, however low, trips a reset by itself is the model's choice (log entry 48). -/
def Obligations.StepWithoutCommands : Prop :=
  ∀ s : State, s.pending = [] →
    (∀ (e : Instr) (rest : List Instr), s.due = e :: rest → step s = exec e s) ∧
    (s.due = [] → ∃ t, step s = .next t ∧
      let waits (i : Fin 8) := (s.channel i).mode = some .delay ∧ (s.channel i).state = .running ∧ (s.channel i).count = 0
      let timer (a b : Option Nat) (e : Instr) := (a = none → b = none) ∧ ∀ n, a = some (n + 1) → b = some n ∧ (n = 0 → e ∈ t.due)
      let chains (i : Fin 8) := ∀ j : Fin 8, (s.channel j).state = .armed → (s.channel j).trigger = .chain i →
        .channelTrigger j (.chain i) ∈ t.due
      let ends (i : Fin 8) := ∃ m, (s.channel i).unit.micros = some m ∧ m ≤ (s.channel i).divider + 1
      let wired (i : Fin 8) := ∃ n, (s.channel i).input = .spindle n
      let row (i : Fin 8) (m : RunMode) := ∀ e, (s.withPins t.pins).expiryRow i m = some e → e ∈ t.due
      let now := s.world.levels.head?
      let level := (now.map Levels.sp).getD s.pins.sp
      let supply := (now.map Levels.supply).getD s.pins.supply
      Only [.due, .pins, .channels, .meter, .twist, .sampler, .knot, .line, .peers, .prot, .coil, .store, .memory, .world] s t ∧
      t.prot.permit = s.prot.permit ∧ t.prot.causes = s.prot.causes ∧ t.prot.table = s.prot.table ∧
      t.meter.encA = s.meter.encA ∧ t.meter.encB = s.meter.encB ∧ t.meter.flags = s.meter.flags ∧
      t.line.queue = s.line.queue ∧ t.twist.spindles = s.twist.spindles ∧
      t.pins.breakOpen = s.pins.breakOpen ∧
      (s.store.inFlight = none → t.memory = s.memory ∧ t.records = s.records ∧ t.store = s.store) ∧
      (∀ i, waits i → (∀ j, j < i → ¬ waits j) → Only [.due, .channels] s t ∧ row i .delay ∧ chains i ∧
        (∀ j, j ≠ i → t.channel j = s.channel j) ∧ t.channel i = (if (s.channel i).trigger = .owner then
          { s.channel i with state := .idle } else { s.channel i with state := .armed, count := (s.channel i).reload })) ∧
      ((∀ i, ¬ waits i) →
        timer s.meter.evaluationLeft t.meter.evaluationLeft .speedEvaluation ∧
        timer s.twist.holdLeft t.twist.holdLeft .paceHoldExpiry ∧
        timer s.sampler.conversionLeft t.sampler.conversionLeft (.conversionComplete s.sampler.sampled) ∧
        timer s.knot.sampleLeft t.knot.sampleLeft (.knotSample t.pins.ks) ∧
        timer s.line.presenceLeft t.line.presenceLeft .presenceTimerExpiry ∧
        timer s.prot.haltLeft t.prot.haltLeft .haltTimerExpiry ∧
        timer s.prot.blinkLeft t.prot.blinkLeft .refusalBlinkEnd ∧
        (s.prot.lamp.flashLeft = none → t.prot.lamp.flashLeft = none) ∧
        (∀ n, s.prot.lamp.flashLeft = some (n + 1) → t.prot.lamp.flashLeft = some n ∧
          (n = 0 → (∀ b, s.prot.blinkLeft = some b → 1 < b) → .alarmFlash ∈ t.due)) ∧
        t.peers = s.peers.map (fun p => { p with age := if p.age < 10000000 then p.age + 1 else p.age }) ∧
        (∀ p ∈ s.peers, 10000000 ≤ p.age + 1 ∨ (p.heard = true ∧ 3000000 ≤ p.age + 1) → .peerAgeing p.station ∈ t.due) ∧
        (s.begun = true → s.settings.knot = true →
          let code := t.pins.phase
          t.knot.takenCode = s.knot.takenCode ∧ t.knot.candidate = s.knot.candidate ∧
          (s.knot.takenCode = some code → t.knot.filterTime = s.knot.filterTime ∧
            (s.knot.candidate ≠ none → .phaseCandidate code ∈ t.due)) ∧
          (s.knot.takenCode ≠ some code → s.knot.candidate = some code → t.knot.filterTime = s.knot.filterTime + 1 ∧
            (s.settings.phaseFilter ≤ s.knot.filterTime + 1 → .phaseCodeChange code ∈ t.due)) ∧
          (s.knot.takenCode ≠ some code → s.knot.candidate ≠ some code → t.knot.filterTime = s.knot.filterTime ∧
            .phaseCandidate code ∈ t.due)) ∧
        timer s.coil.restLeft t.coil.restLeft .restTimerExpiry ∧
        timer s.coil.cutLeft t.coil.cutLeft .cutTimerExpiry ∧
        (∀ f, s.store.inFlight = some f → 1 < f.left → t.store = { s.store with inFlight := some { f with left := f.left - 1 } }) ∧
        (∀ i, ¬ wired i → (s.channel i).state = .running ∨ (s.channel i).state = .driving →
          ∀ m, (s.channel i).unit.micros = some m → (s.channel i).divider + 1 < m →
            t.channel i = { s.channel i with divider := (s.channel i).divider + 1 }) ∧
        (∀ i, ¬ wired i → ends i → 2 ≤ (s.channel i).count.toNat →
          (s.channel i).state = .driving ∧ (s.channel i).mode = some .pulse ∨ (s.channel i).state = .running ∧
            ((s.channel i).mode = some .interval ∨ (s.channel i).mode = some .delay ∨ (s.channel i).mode = some .pulse) →
          t.channel i = { s.channel i with divider := 0, count := (s.channel i).count - 1 }) ∧
        (∀ i, ¬ wired i → ends i → (s.channel i).state = .running →
          (s.channel i).mode = some .period ∨ (s.channel i).mode = some .width →
          t.channel i = { s.channel i with
            divider := 0
            count := if (s.channel i).count.toNat = 16777215 then (s.channel i).count else (s.channel i).count + 1 }) ∧
        (∀ i, ¬ wired i → ends i → (s.channel i).state = .running → (s.channel i).count = 1 → (s.channel i).mode = some .interval →
          row i .interval ∧ chains i ∧ t.channel i = { s.channel i with
            divider := 0
            count := (s.channel i).pendingReload.getD (s.channel i).reload
            reload := (s.channel i).pendingReload.getD (s.channel i).reload
            pendingReload := none
            level := if (s.channel i).action = .toggle then !(s.channel i).level else (s.channel i).level }) ∧
        (∀ i, ¬ wired i → ends i → (s.channel i).state = .running → (s.channel i).count = 1 → (s.channel i).mode = some .delay →
          row i .delay ∧ chains i ∧ ((s.channel i).trigger = .owner →
            t.channel i = { s.channel i with divider := 0, state := .idle, count := 0 })) ∧
        (∀ i, ¬ wired i → ends i → (s.channel i).state = .running → (s.channel i).count = 1 → (s.channel i).mode = some .pulse →
          t.channel i = { s.channel i with
            divider := 0
            state := .driving
            count := (s.channel i).drive.getD 1
            level := (s.channel i).action == .drive } ∧ (i = 7 → .cutDriveStart ∈ t.due)) ∧
        (∀ i, ¬ wired i → ends i → (s.channel i).state = .driving → (s.channel i).count = 1 → (s.channel i).mode = some .pulse →
          row i .pulse ∧ chains i ∧ ((s.channel i).trigger = .owner →
            t.channel i = { s.channel i with divider := 0, state := .idle, count := 0, level := false })) ∧
        t.pins.sp = level ∧ t.pins.ai = (now.map Levels.ai).getD s.pins.ai ∧ t.pins.supply = supply ∧
        t.pins.phase = (now.map Levels.phase).getD s.pins.phase ∧ t.pins.ks = (now.map Levels.ks).getD s.pins.ks ∧
        (∀ x : Bool × Bool, (now.map Levels.encA).getD (Vector.replicate 4 s.pins.readA) = Vector.replicate 4 x →
          t.pins.readA = x ∧ t.pins.encA = x ∧
          (s.pins.encA ≠ x → s.begun = true → s.settings.encA.enabled = true → .encoderTransition .a x.1 x.2 ∈ t.due)) ∧
        (∀ x : Bool × Bool, (now.map Levels.encB).getD (Vector.replicate 4 s.pins.readB) = Vector.replicate 4 x →
          t.pins.readB = x ∧ t.pins.encB = x ∧
          (s.pins.encB ≠ x → s.begun = true → s.settings.encB.enabled = true → .encoderTransition .b x.1 x.2 ∈ t.due)) ∧
        (t.pins.supplyLow = if supply < 17000 then holdInc 1000 s.pins.supplyLow else 0) ∧
        (t.pins.supplyHigh = if 18000 < supply then holdInc 100000 s.pins.supplyHigh else 0) ∧
        (s.begun = true → s.prot.supplyWarning = false → 1000 ≤ t.pins.supplyLow → .supplyWarning ∈ t.due) ∧
        (s.begun = true → s.prot.supplyWarning = true → 100000 ≤ t.pins.supplyHigh → .supplyRecovery ∈ t.due) ∧
        (∀ n : Fin 4, t.pins.spTaken.getLsbD n = if level.getLsbD n = s.pins.sp.getLsbD n then level.getLsbD n
          else s.pins.spTaken.getLsbD n) ∧
        (∀ (i : Fin 8) (n : Fin 4), (s.channel i).input = .spindle n → (s.channel i).mode = some .count →
          (s.channel i).unit = .edges → (s.channel i).state = .running →
          let rises := s.pins.spTaken.getLsbD n = false ∧ s.pins.sp.getLsbD n = true ∧ level.getLsbD n = true
          (¬ rises → t.channel i = s.channel i) ∧
          (rises → 2 ≤ (s.channel i).count.toNat → t.channel i = { s.channel i with count := (s.channel i).count - 1 }) ∧
          (rises → (s.channel i).count = 1 → row i .count ∧ chains i ∧ t.channel i = { s.channel i with
            count := (s.channel i).pendingReload.getD (s.channel i).reload
            reload := (s.channel i).pendingReload.getD (s.channel i).reload
            pendingReload := none }))))

/-! ### Reset and start -/

/-- A reset (R1, R20, R40, R61, R74, R112, R136, R157, R171, R172, R181, R182): every block is at its reset values, with what
the model chose where no rule gives a value (the levels of the pins and what the surroundings bring stay: log entries 4 and
39; the commands that wait stay: log entry 33; bands, references, dividers and the fields the model adds start as log entry
12 says); sector 0 gives the settings and their validity; the memory stays where no operation was in flight, and else what
the operation leaves is the model's choice where the rules name no bytes (log entry 5); the scan gives the sector table, the
write pointer and the next coil number (that with no header of the own station the pointer follows, of several sectors that
carry the highest coil number, one that is not VOID, and of these the highest-numbered, is the model's choice: log entry 43);
and the start event is due where no sector is OPEN-ONLY, else the first of them is completed. Settings that are not valid are
taken as blank (log entry 10). An image holds each setting at its place in Table 10-10, and is valid exactly where its check,
layout code and unused bytes are right, the bits with no name are 0, and the roles, ranges and combined conditions of Tables
11-1 and 11-2 hold. -/
def Obligations.ResetReturnsEveryBlock : Prop :=
  (∀ img : List Byte, img.length = 256 →
    let g := settingsOf img
    let n (i k : Nat) := natBE ((img.drop i).take k)
    let bit (i k : Nat) := (byteAt img i).getLsbD k
    let among (lo hi x : Nat) := lo ≤ x ∧ x ≤ hi
    let whole (e : EncoderSettings) := e.enabled = true → among 1 16777215 e.n ∧ among 1 65535 e.d
    g.group = n 1 1 ∧ g.twist = bit 2 7 ∧ g.knot = bit 2 6 ∧ g.coil = bit 2 5 ∧ g.paceSource = n 3 1 ∧
    g.pacePublish = bit 4 7 ∧ g.driftCheck = bit 4 6 ∧ g.follow = bit 4 5 ∧ g.autoResume = bit 4 4 ∧
    g.layEscalate = bit 4 3 ∧ g.meshEscalate = bit 4 2 ∧ g.arithEscalate = bit 4 1 ∧ g.consecutiveStop = bit 4 0 ∧
    g.wrap = bit 5 7 ∧ g.encA = ⟨bit 6 7, bit 6 6, n 7 3, n 10 2⟩ ∧ g.encB = ⟨bit 6 5, bit 6 4, n 12 3, n 15 2⟩ ∧
    g.slipStep = n 17 2 ∧ g.slipLimit = n 19 1 ∧ g.driftLimit = n 20 1 ∧ g.takeUpRatio = n 21 2 ∧
    (∀ i : Fin 4, g.spindles[i] = {
      fitted := bit 23 i.val, pulses := n (24 + 8 * i.val) 2, turnsPerWindow := n (26 + 8 * i.val) 1,
      target := n (27 + 8 * i.val) 3, tolerance := n (30 + 8 * i.val) 1, runLimit := n (31 + 8 * i.val) 1 }) ∧
    g.stallPeriod = n 56 2 ∧ g.pref = n 58 2 ∧ g.paceHold = n 60 2 ∧ g.fittedHeads.toNat = n 62 4 ∧ g.phaseFilter = n 66 1 ∧
    g.openDelay = n 67 2 ∧ g.windowSpan = n 69 2 ∧ g.headFilter = n 71 1 ∧ g.suspectThreshold = n 72 1 ∧
    g.meshRows = n 73 1 ∧ g.meshTarget = n 74 3 ∧ g.meshTolerance = n 77 1 ∧ g.meshRunLimit = n 78 1 ∧
    g.scanPeriod = n 79 2 ∧
    (∀ i : Fin 8, let e := g.scan[i]
      e.input = n (81 + 6 * i.val) 1 ∧ e.mode.code = n (82 + 6 * i.val) 1 / 64 ∧ e.protect = bit (82 + 6 * i.val) 5 ∧
      e.blankInTie = bit (82 + 6 * i.val) 4 ∧ e.filterCount = n (82 + 6 * i.val) 1 % 16 ∧
      e.lowLimit = n (83 + 6 * i.val) 2 ∧ e.highLimit = n (85 + 6 * i.val) 2) ∧
    g.haltTimeout = n 129 1 ∧ g.coilTarget = n 130 4 ∧ g.cutDelay = n 134 2 ∧ g.cutPulse = n 136 2 ∧
    g.cutDoneTimeout = n 138 2 ∧ g.tallyWait = n 140 2 ∧
    (imageValid img = true ↔
      (crc (img.take 254)).toNat = n 254 2 ∧ n 0 1 = 0x31 ∧ (∀ i, 142 ≤ i → i < 254 → byteAt img i = 0xFF) ∧
      n 2 1 % 32 = 0 ∧ n 5 1 % 128 = 0 ∧ n 6 1 % 16 = 0 ∧ n 23 1 < 16 ∧ (g.twist = false ∨ g.knot = false) ∧
      among 1 7 g.group ∧ g.paceSource ≤ 31 ∧ whole g.encA ∧ whole g.encB ∧
      (g.encA.enabled = true ∨ g.encB.enabled = true) ∧
      (g.encA.enabled = true → g.encB.enabled = true → 1 ≤ g.slipStep ∧ among 1 250 g.slipLimit) ∧
      (g.driftCheck = true → among 1 250 g.driftLimit ∧ among 500 2000 g.takeUpRatio) ∧
      (g.twist = true → among 100 10000 g.stallPeriod ∧ (∃ i : Fin 4, g.spindles[i].fitted = true) ∧
        ∀ i : Fin 4, let p := g.spindles[i]
          p.fitted = true → among 1 4095 p.pulses ∧ 1 ≤ p.turnsPerWindow ∧ 1 ≤ p.target ∧ among 1 250 p.tolerance ∧
            among 1 15 p.runLimit) ∧
      (g.follow = true → g.twist = true ∧ 1 ≤ g.paceSource ∧ among 1 4095 g.pref ∧ g.paceHold ≤ 5000 ∧
        1 ≤ g.spindles[(0 : Fin 4)].target) ∧
      (g.knot = true → 25 ≤ g.windowSpan ∧ among 1 8 g.headFilter ∧ among 2 16 g.suspectThreshold ∧ among 1 16 g.meshRows ∧
        1 ≤ g.meshTarget ∧ among 1 250 g.meshTolerance ∧ among 1 15 g.meshRunLimit ∧ g.fittedHeads ≠ 0 ∧
        25 * g.headFilter ≤ g.windowSpan ∧ 1 ≤ g.meshTarget - g.meshTarget * g.meshTolerance / 1000) ∧
      among 1 1000 g.scanPeriod ∧
      (∀ i : Fin 8, let e := g.scan[i]
        e.mode ≠ .off → e.input ≤ 7 ∧ 1 ≤ e.filterCount ∧ e.lowLimit ≤ 4095 ∧ e.highLimit ≤ 4095 ∧
          (e.mode = .band → e.lowLimit ≤ e.highLimit)) ∧
      among 1 60 g.haltTimeout ∧
      (g.coil = true → 1 ≤ g.coilTarget ∧ g.cutDelay ≤ 10000 ∧ among 50 5000 g.cutPulse ∧
        among 1000 60000 g.cutDoneTimeout ∧ among 200 10000 g.tallyWait))) ∧
  ∀ (station : Station) (commission : Bool) (torn : Torn) (s : State),
    Completes (.reset station commission torn) s (fun t =>
      let image := t.memory.readRange 0 256
      let headed (p : Nat) := 16 ≤ p ∧ p ≤ 255 ∧ (t.sectorClass p = .openOnly ∨ t.sectorClass p = .sealed ∨
        t.sectorClass p = .lost ∨ t.sectorClass p = .void)
      let own (p : Nat) := headed p ∧ (t.sectorEntry p).station = station
      let judged (p : Nat) := headed p ∧ (own p ∨ ∀ q, ¬ own q)
      let last (p : Nat) := judged p ∧ ∀ q, judged q → (t.sectorEntry q).coil < (t.sectorEntry p).coil ∨
        (t.sectorEntry q).coil = (t.sectorEntry p).coil ∧ (t.sectorClass q = .void ∧ t.sectorClass p ≠ .void ∨
          (t.sectorClass q = .void ↔ t.sectorClass p = .void) ∧ q ≤ p)
      t.pending = s.pending ∧ t.pins = s.pins ∧ t.world = s.world ∧ t.startRec.station = station ∧
      t.startRec.commission = commission ∧
      t.startRec.started = false ∧ t.startRec.staged = List.replicate 256 0xFF ∧ t.startRec.stagedParts = 0 ∧
      t.channels = Vector.replicate 8 .reset ∧ t.meter = .reset ∧ t.twist = .reset ∧ t.sampler = .reset ∧ t.knot = .reset ∧
      t.line = .reset ∧ t.peers = [] ∧ t.prot = .reset ∧ t.records = [] ∧ t.coil.tally.begun = false ∧
      t.store.full = false ∧ t.store.fault = false ∧ t.store.key = .locked ∧ t.store.keyStation = none ∧
      t.store.waiting = [] ∧ t.store.addressErrors = 0 ∧ t.store.dataErrors = 0 ∧
      t.coil.restLeft = none ∧ t.coil.cutLeft = none ∧ t.coil.forming = [] ∧
      t.coil.tally = { begun := false, startLength := 0, halts := 0, lastCoil := 0, lastSegment := 0 } ∧
      (s.store.inFlight = none → t.memory = s.memory) ∧
      (∀ f, s.memory.wf → s.store.inFlight = some f →
        let clears (a : Nat) := t.memory.read a &&& s.memory.read a = t.memory.read a
        let found (p : Nat) := t.sectorClass p = .erased ∨ t.sectorClass p = .damaged ∨ t.sectorEntry p = scanEntry s.memory p
        (f.step = .nothing → t.memory = s.memory ∨ ∃ image source, f.op = .commit image source) ∧
        (∀ i j source, f.op = .checkRange i j source → f.step = .work → t.memory = s.memory) ∧
        (∀ n parts source, f.op = .readRecord n parts source → f.step = .work → t.memory = s.memory) ∧
        (∀ p, 16 ≤ p → p ≤ 255 → f.step = .void p → (∀ image source, f.op ≠ .commit image source) →
          KeepsOutside (256 * p + 255) (256 * p + 256) s t ∧ clears (256 * p + 255) ∧
          (t.memory.read (256 * p + 255) = 0 ∨ t.sectorClass p = .damaged ∨ t.memory = s.memory)) ∧
        (∀ p image n, 16 ≤ p → p ≤ 255 → f.op = .programHeader n image → f.step = .program p → image.length = 32 →
          KeepsOutside (256 * p) (256 * p + 32) s t ∧
          (t.memory.readRange (256 * p) 32 = image ∨ t.sectorClass p = .damaged ∨ t.sectorEntry p = scanEntry s.memory p)) ∧
        (∀ p r, 16 ≤ p → p ≤ 255 → f.op = .keep r.coil → f.step = .program p → r ∈ s.records →
          (∀ q ∈ s.records, q.coil = r.coil → q = r) → r.anchor = some p → (bodyBytes r).length = 224 →
          classify s.memory p = .openOnly → KeepsOutside (256 * p + 32) (256 * p + 256) s t ∧
          (torn.written < 223 → t.sectorClass p = .openOnly) ∧
          (t.sectorClass p = .openOnly ∨ t.sectorClass p = .sealed ∨ (torn.written = 223 ∧ t.sectorClass p = .damaged))) ∧
        (∀ b, 1 ≤ b → b ≤ 15 → (∃ judged, f.step = .erase b judged) ∨ (f.step = .work ∧ ∃ source, f.op = .eraseBank b source) →
          (∀ image source, f.op ≠ .commit image source) →
          KeepsOutside (4096 * b) (4096 * b + 4096) s t ∧ ∀ i, i < 16 → found (16 * b + i)) ∧
        (∀ image source, f.op = .commit image source → t.startRec.settingsValid = false ∧
          (f.step = .erase 0 1 ∨ f.step = .program 0 → image.length = 256 → KeepsOutside 0 4096 s t))) ∧
      t.startRec.settingsValid = imageValid image ∧
      (imageValid image = true → t.settings = settingsOf image ∧ t.store.wrap = (settingsOf image).wrap ∧
        t.coil.pendingTarget = (settingsOf image).coilTarget) ∧
      (imageValid image = false → t.settings = .blank ∧ t.store.wrap = false) ∧
      t.store.table.length = 240 ∧ (∀ p, 16 ≤ p → p ≤ 255 → t.sectorEntry p = scanEntry t.memory p) ∧
      ((∀ p, ¬ headed p) → t.store.pointer = 16) ∧ ((∀ p, ¬ own p) → t.coil.next = some 1) ∧
      (∀ p, last p → t.store.pointer = (if p = 255 then 16 else p + 1) ∧ (own p → t.coil.next =
        if (t.sectorEntry p).coil < 4294967295 then some ((t.sectorEntry p).coil + 1) else none)) ∧
      ((∀ p, 16 ≤ p → p ≤ 255 → t.sectorClass p ≠ .openOnly) → t.due = [.startEvent] ∧ t.store.inFlight = none) ∧
      (∀ p, 16 ≤ p → p ≤ 255 → t.sectorClass p = .openOnly → (∀ q, 16 ≤ q → q < p → t.sectorClass q ≠ .openOnly) →
        t.due = [] ∧ ∃ f, t.store.inFlight = some f ∧ f.op = .lostRecord p))

/-- The start event (R46, R60, R74, R94, R105, R112, R118, R181; that the requests to the channels wait in due is the
model's choice: log entry 1; so is the reload 0 of the request to CH0 on a KNOT node: log entry 54): with valid settings and
a station of 1–31 the node leaves UNSET, the encoders counting from the pairs read, which are then the pairs taken, the
bands of fitted spindles and of the mesh computed, CH6 asked to start, the turn channels of a TWIST node and CH0 in WIDTH on
a KNOT node too, and the transmitter in STARTING; it is in STANDBY with no cause where the break chain is closed, and an
open chain raises BREAK, so that it is HALTED; with invalid settings or strap 0 it stays UNSET, and at strap 0 the
transmitter stays in QUIET. -/
def Obligations.StartEventDecides : Prop :=
  ∀ s : State, s.startRec.started = false → s.store.inFlight = none → s.store.scanLeft = [] →
    (s.startRec.settingsValid = true → s.startRec.station ≠ 0 →
      Completes .startEvent s (fun t =>
        Only [.due, .pins, .startRec, .meter, .twist, .knot, .line, .prot] s t ∧
        t.startRec = { s.startRec with started := true } ∧
        t.pins = { s.pins with encA := s.pins.readA, encB := s.pins.readB } ∧
        (s.pins.breakOpen = false → t.prot.permit = .standby ∧ t.prot.causes = s.prot.causes ∧ t.prot.eligible = false ∧
          t.line.queue = s.line.queue) ∧
        (s.pins.breakOpen = true → .breakChain ∉ s.prot.causes → .breakChain ∈ t.prot.causes ∧ t.prot.permit = .halted) ∧
        t.line.tx = .starting ∧ t.line.rx = .hunt ∧ t.line.idle = 0 ∧
        t.meter.encA.reference = s.pins.readA ∧ t.meter.encB.reference = s.pins.readB ∧
        t.meter.evaluationLeft = some 100000 ∧
        .channelStartRequest 6 {
          mode := .interval, unit := .ms1, reload := BitVec.ofNat 24 s.settings.scanPeriod, drive := none, trigger := .owner,
          action := .none } ∈ t.due ∧
        (s.settings.twist = true → ∀ n : Fin 4, s.settings.spindles[n].fitted = true →
          (t.spindle n).bandLow = s.settings.spindles[n].target -
            s.settings.spindles[n].target * s.settings.spindles[n].tolerance / 1000 ∧
          (t.spindle n).bandHigh = s.settings.spindles[n].target +
            s.settings.spindles[n].target * s.settings.spindles[n].tolerance / 1000 ∧
          .channelStartRequest (turnChannel n) {
            mode := .count, unit := .edges, reload := BitVec.ofNat 24 s.settings.spindles[n].pulses, drive := none,
            trigger := .owner, action := .none } ∈ t.due) ∧
        (s.settings.knot = true →
          t.knot.meshLow = s.settings.meshTarget - s.settings.meshTarget * s.settings.meshTolerance / 1000 ∧
          t.knot.meshHigh = s.settings.meshTarget + s.settings.meshTarget * s.settings.meshTolerance / 1000 ∧
          .channelStartRequest 0 {
            mode := .width, unit := .us1, reload := 0, drive := none, trigger := .input, action := .none } ∈ t.due) ∧
        (s.settings.twist = false → t.twist = s.twist) ∧ (s.settings.knot = false → t.knot = s.knot))) ∧
    (s.startRec.settingsValid = false ∨ s.startRec.station = 0 →
      Completes .startEvent s (fun t =>
        Only [.due, .startRec, .line] s t ∧ t.startRec.started = true ∧
        t.line.tx = (if s.startRec.station = 0 then TxState.quiet else TxState.starting)))

/-! ### Invariants that every step keeps -/

/-- Every step keeps R113: RUN is on only in RUNNING, and there no own cause is present and the halt table is empty, so that
an event that adds a reason leaves RUNNING for HALTING, or for HALTED at rest; BRAKE is on in every other state. -/
def Obligations.RunningStaysUnheld : Prop :=
  ∀ s t : State, RunsUnheld s → step s = .next t →
    RunsUnheld t ∧ (t.runOut = true ↔ t.prot.permit = .running) ∧ (t.brakeOut = true ↔ t.prot.permit ≠ .running) ∧
      (t.prot.causes ≠ [] ∨ t.prot.table ≠ [] → t.runOut = false ∧ t.brakeOut = true ∧
        (s.prot.permit = .running → t.prot.permit = .halting ∨ t.prot.permit = .halted))

/-- Every step keeps R123 and R124: in STANDBY the machine is not eligible to resume by itself. Every step keeps R130: the
halt table holds at most one entry for each station, in station order. -/
def Obligations.StandbyStaysIneligible : Prop :=
  (∀ s t : State, StandbyIneligible s → step s = .next t → StandbyIneligible t) ∧
  ∀ s t : State, HaltsUnique s → step s = .next t → HaltsUnique t

/-- Every step keeps R102: at most 8 queued frames, at most one PRESENCE, urgent frames first. -/
def Obligations.QueueStaysOrdered : Prop :=
  ∀ s t : State, QueueOrdered s → step s = .next t → QueueOrdered t

/-- Every step keeps R52: the windows of a spindle are the sum of its four classes. Every step keeps R88: the row history
holds at most 16 entries. -/
def Obligations.WindowsStayAddedUp : Prop :=
  (∀ s t : State, WindowsAddUp s → step s = .next t → WindowsAddUp t) ∧
  ∀ s t : State, HistoryFits s → step s = .next t → HistoryFits t

/-- Every step keeps the memory in its canonical form, so that equal memories are equal data (log entry 2). Every step keeps
R137: the halt list and the splice list of a record hold at most 8 entries and its contributor list at most 15, in every
slot. -/
def Obligations.MemoryStaysCanonical : Prop :=
  (∀ s t : State, MemoryCanonical s → step s = .next t → MemoryCanonical t) ∧
  ∀ s t : State, RecordsFit s → step s = .next t → RecordsFit t

/-- The state after reset meets every invariant. -/
def Obligations.ResetMeetsTheInvariants : Prop :=
  RunsUnheld State.reset ∧ StandbyIneligible State.reset ∧ HaltsUnique State.reset ∧ QueueOrdered State.reset ∧
    WindowsAddUp State.reset ∧ HistoryFits State.reset ∧ MemoryCanonical State.reset ∧ RecordsFit State.reset

/-- In UNSET no command but a reset or the start event changes the protection record, which holds its reset values (R112). -/
def Obligations.UnsetProtectionTakesNothing : Prop :=
  ∀ (c : Instr) (s t : State), s.prot = .reset → c ≠ .startEvent → exec c s = .next t → t.prot = .reset

/-! ### Count channels -/

/-- The channels that the roles allocate (R2, Table 1-3; in UNSET none), and a start request (R2, R5, R6, R13). At an
allocated channel: the mode, tick unit, drive length, trigger and output action are taken as asked, adjusted as Table 1-4
says: a reload of 0 becomes 1 in INTERVAL and COUNT mode and, with trigger CHAIN, in DELAY and PULSE mode; a drive length of
0 becomes 1, and none is kept in a mode other than PULSE; PERIOD and WIDTH take trigger INPUT, and CHAIN on the channel
itself becomes OWNER; TOGGLE is kept in INTERVAL mode only and DRIVE in PULSE mode only; COUNT mode counts input edges, and
no other mode does. The capture is cleared and the pending reload removed; a counting-down mode with trigger OWNER runs from
its reload, at once to its drive in PULSE mode with a reload of 0 (that the drive is part of the same event is the model's
choice: log entry 43), one with another trigger is ARMED with its count at the reload, and PERIOD and WIDTH are ARMED with
the count at 0. No other channel changes. At a channel that the roles do not allocate, or in UNSET, the request changes no
channel, so that one that is IDLE with mode OFF stays so (that such a request has no effect is the model's inference: log
entry 24). -/
def Obligations.StartRequestRunsOrArms : Prop :=
  (∀ (i : Fin 8) (s : State), s.allocated i = true ↔ s.begun = true ∧
    ((i.val ≤ 2 ∧ (s.settings.twist = true ∨ s.settings.knot = true)) ∨ (3 ≤ i.val ∧ i.val ≤ 5 ∧ s.settings.twist = true) ∨
      i = 6 ∨ (i = 7 ∧ s.settings.coil = true))) ∧
  (∀ (i : Fin 8) (r : StartRequest) (s : State), s.allocated i = false →
    Completes (.channelStartRequest i r) s (fun t => Only [.due] s t ∧ t.channels = s.channels ∧
      ((s.channel i).state = .idle → (s.channel i).mode = none →
        (t.channel i).state = .idle ∧ (t.channel i).mode = none))) ∧
  ∀ (i : Fin 8) (r : StartRequest) (s : State), s.allocated i = true →
    Completes (.channelStartRequest i r) s (fun t =>
      let c := t.channel i
      let measures := r.mode = .period ∨ r.mode = .width
      let delays := r.mode = .delay ∨ r.mode = .pulse
      Only [.due, .channels] s t ∧ (∀ j : Fin 8, j ≠ i → t.channel j = s.channel j) ∧
      c.mode = some r.mode ∧ c.capture = 0 ∧ c.captureSaturated = false ∧ c.pendingReload = none ∧ c.divider = 0 ∧
      (r.mode = .count → c.unit = .edges) ∧ (r.mode ≠ .count → r.unit = .edges → c.unit = .us1) ∧
      (r.mode ≠ .count → r.unit ≠ .edges → c.unit = r.unit) ∧
      (r.reload ≠ 0 → c.reload = r.reload) ∧ (r.reload = 0 → r.mode = .interval ∨ r.mode = .count → c.reload = 1) ∧
      (∀ k, r.reload = 0 → delays → r.trigger = .chain k → k ≠ i → c.reload = 1) ∧
      (r.reload = 0 → delays → (∀ k, r.trigger ≠ .chain k) → c.reload = 0) ∧
      (∀ d, r.mode = .pulse → r.drive = some d → c.drive = some (if d = 0 then 1 else d)) ∧
      (r.mode ≠ .pulse → c.drive = none) ∧
      (measures → c.trigger = .input) ∧ (¬ measures → r.trigger = .chain i → c.trigger = .owner) ∧
      (¬ measures → r.trigger ≠ .chain i → c.trigger = r.trigger) ∧
      c.action = (if (r.mode = .interval ∧ r.action = .toggle) ∨ (r.mode = .pulse ∧ r.action = .drive) then r.action else .none) ∧
      (¬ measures → c.trigger = .owner → r.mode ≠ .pulse ∨ c.reload ≠ 0 →
        c.state = .running ∧ c.count = c.reload ∧ c.level = false) ∧
      (r.mode = .pulse → c.trigger = .owner → c.reload = 0 →
        c.state = .driving ∧ some c.count = c.drive ∧ c.level = (c.action == .drive)) ∧
      (¬ measures → c.trigger ≠ .owner → c.state = .armed ∧ c.count = c.reload ∧ c.level = false) ∧
      (measures → c.state = .armed ∧ c.count = 0 ∧ c.level = false))

/-- A stop request and a set-next-reload request (R6, R8, R9): a stop leaves the channel IDLE with count 0, no pending reload
and the output low (that the drive length and the input stay is the model's choice: log entry 43), and an IDLE channel as
it was; a new reload is pending while RUNNING and taken at once while ARMED, in
INTERVAL or COUNT mode only, 0 as 1. No other channel changes. -/
def Obligations.StopAndSetNextReloadAct : Prop :=
  ∀ (i : Fin 8) (m : BitVec 24) (s : State),
    Completes (.channelStopRequest i) s (fun t =>
      Only [.due, .channels] s t ∧ (∀ j : Fin 8, j ≠ i → t.channel j = s.channel j) ∧
      ((s.channel i).state = .idle → t.channel i = s.channel i) ∧
      ((s.channel i).state ≠ .idle →
        t.channel i = { s.channel i with state := .idle, count := 0, pendingReload := none, level := false })) ∧
    Completes (.setNextReload i m) s (fun t =>
      Only [.due, .channels] s t ∧ (∀ j : Fin 8, j ≠ i → t.channel j = s.channel j) ∧
      let used := (s.channel i).mode = some .interval ∨ (s.channel i).mode = some .count
      let n : BitVec 24 := if m = 0 then 1 else m
      (used → (s.channel i).state = .running → t.channel i = { s.channel i with pendingReload := some n }) ∧
      (used → (s.channel i).state = .armed → t.channel i = { s.channel i with reload := n, count := n }) ∧
      ((s.channel i).state = .idle ∨ (s.channel i).state = .driving → t.channel i = s.channel i) ∧
      (¬ used → t.channel i = s.channel i))

/-- A trigger (R7, R12, R13): an ARMED channel that waits for it enters RUNNING with its count at the reload, or at 0 in
PERIOD and WIDTH mode; in PULSE mode with a reload of 0 it is at once in its drive, as part of the same event (model's
choice: log entry 43), and CH7 gives its drive-start notice; a channel that is not ARMED does not use it. -/
def Obligations.TriggerStartsAnArmedChannel : Prop :=
  ∀ (i : Fin 8) (e : TriggerEvent) (s : State),
    Completes (.channelTrigger i e) s (fun t =>
      Only [.due, .channels] s t ∧ (∀ j : Fin 8, j ≠ i → t.channel j = s.channel j) ∧
      ((s.channel i).state ≠ .armed → t.channel i = s.channel i) ∧
      ((s.channel i).state = .armed →
        (e = .input ∧ (s.channel i).trigger = .input ∧ (s.channel i).input ≠ .none) ∨
          (∃ k, e = .chain k ∧ (s.channel i).trigger = .chain k) ∨ (∃ k, e = .line k ∧ (s.channel i).trigger = .line k) →
        ((s.channel i).mode = some .period ∨ (s.channel i).mode = some .width →
          t.channel i = { s.channel i with state := .running, count := 0, divider := 0 }) ∧
        ((s.channel i).mode = some .interval ∨ (s.channel i).mode = some .count ∨ (s.channel i).mode = some .delay ∨
            ((s.channel i).mode = some .pulse ∧ (s.channel i).reload ≠ 0) →
          t.channel i = { s.channel i with state := .running, count := (s.channel i).reload, divider := 0 }) ∧
        ((s.channel i).mode = some .pulse → (s.channel i).reload = 0 →
          t.channel i = { s.channel i with
            state := .driving
            count := (s.channel i).drive.getD 1
            divider := 0
            level := (s.channel i).action == .drive } ∧ (i = 7 → .cutDriveStart ∈ t.due))))

/-- The expiry of an INTERVAL channel and the active edge that ends a PERIOD measurement (R10, R14, R16, R17; log entry 14):
the interval's count and reload take the pending reload if there is one, TOGGLE inverts the output, and the row of the owner
is due where it has one; the period's count is captured, saturated exactly at its maximum, and the next measurement begins
at 0. Either expiry is the trigger of every channel ARMED with CHAIN on the channel (R7). -/
def Obligations.IntervalsReloadAndPeriodsCapture : Prop :=
  ∀ (i : Fin 8) (s : State), (s.channel i).state = .running →
    let chains (t : State) := ∀ j : Fin 8, (s.channel j).state = .armed → (s.channel j).trigger = .chain i →
      .channelTrigger j (.chain i) ∈ t.due
    ((s.channel i).mode = some .interval →
      Completes (.intervalExpiry i) s (fun t => chains t ∧
        Only [.due, .channels] s t ∧ (∀ j : Fin 8, j ≠ i → t.channel j = s.channel j) ∧
        t.channel i = { s.channel i with
          count := (s.channel i).pendingReload.getD (s.channel i).reload
          reload := (s.channel i).pendingReload.getD (s.channel i).reload
          pendingReload := none
          level := if (s.channel i).action = .toggle then !(s.channel i).level else (s.channel i).level } ∧
        (i = 0 → s.settings.twist = true → .stallCheck ∈ t.due) ∧ (i = 6 → .scanStart ∈ t.due))) ∧
    ((s.channel i).mode = some .period → (s.channel i).input ≠ .none →
      Completes (.periodCapture i) s (fun t => chains t ∧
        Only [.due, .channels] s t ∧ (∀ j : Fin 8, j ≠ i → t.channel j = s.channel j) ∧
        t.channel i = { s.channel i with
          capture := (s.channel i).count
          captureSaturated := decide ((s.channel i).count.toNat = 16777215)
          count := 0
          divider := 0 }))

/-! ### Metering -/

/-- A transition of an enabled encoder (R21 to R24, R31, R32, R140, Table 2-2): a valid one moves L × D + r by N, forward in
the order low low, high low, high high, low high and backward against it, unless L is held at a limit, where OVF or UNF is
set with the encoder as its origin if no flag stood and limit reached becomes yes; it keeps r below D, and makes the taken
pair the reference; with both encoders enabled a count of A at which its advance has reached the slip step checks the slip,
and no other count does; a count that changes the line length and brings the segment of an OPEN coil to its target ends the
coil with TARGET and asks for COIL-END and the hold, and its cut starts in this event with the line at rest and no GATHERING
record in the CLOSING slot (R142); a slip above 65,535 ‰ sets RNG with origin SLIP, and a changed line length before the
start of an OPEN coil sets RNG with origin CONVERT (R30, R32, R140; that SLIP comes first where both set it is the model's
choice: log entry 43); an invalid transition, which differs in both lines, counts nothing but one error, held at 255. -/
def Obligations.TransitionsCountAndKeepTheResidue : Prop :=
  ∀ (e : EncoderId) (line1 line2 : Bool) (s : State), s.begun = true → (s.settings.encoder e).enabled = true →
    let forward (a b : Bool × Bool) := (a = (false, false) ∧ b = (true, false)) ∨ (a = (true, false) ∧ b = (true, true)) ∨
      (a = (true, true) ∧ b = (false, true)) ∨ (a = (false, true) ∧ b = (false, false))
    let was := (s.meter.encoder e).reference
    (∀ k : Int, 0 < (s.settings.encoder e).d →
        (k = 1 ∧ forward was (line1, line2)) ∨ (k = -1 ∧ forward (line1, line2) was) →
      Completes (.encoderTransition e line1 line2) s (fun t =>
        let advance := t.meter.encA.length - s.meter.slipA
        let advanceB := t.meter.encB.length - s.meter.slipB
        let checked := e = .a ∧ s.settings.encA.enabled = true ∧ s.settings.encB.enabled = true ∧
          (s.settings.slipStep : Int) * 1000 ≤ advance
        let scaled : Int := (s.meter.encoder e).residue + (if (s.settings.encoder e).invert then -k else k) * (s.settings.encoder e).n
        let length := (s.meter.encoder e).length + scaled.fdiv (s.settings.encoder e).d
        let held (flag : ArithFlags → Bool) := flag t.meter.flags = true ∧ (t.meter.encoder e).limitReached = true ∧
          t.meter.origin = if s.meter.flags.any = true then s.meter.origin else if e = .a then Origin.meterA else Origin.meterB
        let reached (r : CoilRecord) := s.settings.coil = true ∧ r.state = .opened ∧ t.lineLength ≠ s.lineLength ∧
          r.target ≤ (t.lineLength - r.startMicrometres).toNat / 1000
        let atRest := s.meter.atRest = true ∧ ∀ c, s.coil.closingSlot = some c → c.state ≠ .gathering
        let above := 549755813887 < length
        let below := length < -549755813888
        let slipped := checked ∧ 65535 < |advance - advanceB| * 1000 / advance
        let behind := ∃ r, s.coil.openSlot = some r ∧ s.settings.coil = true ∧ r.state = .opened ∧
          t.lineLength ≠ s.lineLength ∧ t.lineLength < r.startMicrometres
        Only [.due, .pins, .meter, .coil] s t ∧ (t.meter.encoder e).reference = (line1, line2) ∧
        (t.meter.encoder e).errors = (s.meter.encoder e).errors ∧
        (t.meter.encoder e).residue < (s.settings.encoder e).d ∧
        ((t.meter.encoder e).residue : Int) = scaled - scaled.fdiv (s.settings.encoder e).d * (s.settings.encoder e).d ∧
        (549755813887 < length → (t.meter.encoder e).length = 549755813887 ∧ held ArithFlags.ovf) ∧
        (length < -549755813888 → (t.meter.encoder e).length = -549755813888 ∧ held ArithFlags.unf) ∧
        (-549755813888 ≤ length → length ≤ 549755813887 → (t.meter.encoder e).length = length ∧
          (t.meter.encoder e).limitReached = (s.meter.encoder e).limitReached) ∧
        (-549755813888 < (t.meter.encoder e).length → (t.meter.encoder e).length < 549755813887 →
          (t.meter.encoder e).length * (s.settings.encoder e).d + (t.meter.encoder e).residue =
            (s.meter.encoder e).length * (s.settings.encoder e).d + (s.meter.encoder e).residue +
              (if (s.settings.encoder e).invert then -k else k) * (s.settings.encoder e).n) ∧
        -549755813888 ≤ (t.meter.encoder e).length ∧ (t.meter.encoder e).length ≤ 549755813887 ∧
        (¬ checked → t.meter.slipA = s.meter.slipA ∧ t.meter.slipB = s.meter.slipB ∧ t.meter.slipRun = s.meter.slipRun ∧
          t.meter.lastSlip = s.meter.lastSlip) ∧
        (checked → t.meter.slipA = t.meter.encA.length ∧ t.meter.slipB = t.meter.encB.length ∧
          (0 < advance → (t.meter.lastSlip : Int) = min (|advance - advanceB| * 1000 / advance) 65535)) ∧
        (∀ r, s.coil.openSlot = some r → reached r → .raiseCause .coilEnd ∈ t.due ∧ .coilHoldSet ∈ t.due ∧
          ∃ q, t.coil.openSlot = some q ∧ q.coil = r.coil ∧ q.endReason = some .target ∧
            (atRest → q.state = .cutting) ∧ (¬ atRest → q.state = .ending)) ∧
        ((checked → 0 < advance) →
          (t.meter.flags.ovf = true ↔ s.meter.flags.ovf = true ∨ above) ∧
          (t.meter.flags.unf = true ↔ s.meter.flags.unf = true ∨ below) ∧ t.meter.flags.dvz = s.meter.flags.dvz ∧
          (t.meter.flags.rng = true ↔ s.meter.flags.rng = true ∨ slipped ∨ behind) ∧
          (s.meter.flags.any = true → t.meter.origin = s.meter.origin) ∧
          (s.meter.flags.any = false → ¬ above → ¬ below →
            (slipped → t.meter.origin = .slip) ∧ (¬ slipped → behind → t.meter.origin = .convert) ∧
            (¬ slipped → ¬ behind → t.meter.origin = s.meter.origin))) ∧
        ((∀ r, s.coil.openSlot = some r → ¬ reached r) → t.coil = s.coil))) ∧
    (line1 ≠ was.1 → line2 ≠ was.2 →
      Completes (.encoderTransition e line1 line2) s (fun t =>
        Only [.due, .pins, .meter] s t ∧
        t.meter = s.meter.setEncoder e { s.meter.encoder e with
          reference := (line1, line2)
          errors := if (s.meter.encoder e).errors < 255 then (s.meter.encoder e).errors + 1
            else (s.meter.encoder e).errors }))

/-- A count forward and a count back return L and r exactly to where they were (2.2, R23). -/
def Obligations.CountForwardAndBackCancel : Prop :=
  ∀ (g : EncoderSettings) (e : EncoderRecord), 0 < g.d → g.n ≤ 16777215 → e.residue < g.d →
    -500000000000 ≤ e.length → e.length ≤ 500000000000 →
    (accumulate g 1 e).2 = none ∧ accumulate g (-1) (accumulate g 1 e).1 = (e, none)

/-- A speed evaluation (R26 to R28, R122, Table 7-4): v, REVERSE, the zero run and at rest follow from the difference of the
line length, and the next evaluation is 100 ms away; a zero evaluation adds one to the run, which holds at 3 and sets at
rest there, and any other returns it to 0 and clears at rest. At rest newly set in HALTING makes the decision: HALTED while
an own cause or a peer halt stands, STANDBY with none and not eligible, HALTED under the coil hold, else RUNNING, with the
halt timer stopped; in HALTING without it, and in every other permit state, the protection record does not change. -/
def Obligations.SpeedEvaluationFollowsTheLine : Prop :=
  ∀ s : State, s.begun = true →
    Completes .speedEvaluation s (fun t =>
      let d := (s.lineLength - s.meter.keptLength).tdiv 100
      let held := s.prot.causes ≠ [] ∨ s.prot.table ≠ []
      let rested := s.meter.atRest = false ∧ t.meter.atRest = true
      Only [.due, .meter, .prot] s t ∧ t.meter.keptLength = s.lineLength ∧ t.meter.evaluationLeft = some 100000 ∧
      (d < 0 → t.meter.speed = 0 ∧ t.meter.reverse = true) ∧
      (0 ≤ d → d ≤ 65535 → (t.meter.speed : Int) = d ∧ t.meter.reverse = false) ∧
      (65535 < d → t.meter.speed = 65535 ∧ t.meter.reverse = false ∧ t.meter.flags = { s.meter.flags with rng := true } ∧
        t.meter.origin = if s.meter.flags.any = true then s.meter.origin else .speed) ∧
      (d ≤ 65535 → t.meter = { s.meter with
        keptLength := t.meter.keptLength, speed := t.meter.speed, reverse := t.meter.reverse, zeroRun := t.meter.zeroRun,
        atRest := t.meter.atRest, evaluationLeft := t.meter.evaluationLeft }) ∧
      (d ≠ 0 → t.meter.zeroRun = 0 ∧ t.meter.atRest = false) ∧
      (d = 0 → s.meter.zeroRun < 2 → t.meter.zeroRun = s.meter.zeroRun + 1 ∧ t.meter.atRest = s.meter.atRest) ∧
      (d = 0 → s.meter.zeroRun = 2 ∨ s.meter.zeroRun = 3 → t.meter.zeroRun = 3 ∧ t.meter.atRest = true) ∧
      (s.prot.permit ≠ .halting ∨ ¬ rested → t.prot = s.prot) ∧
      (s.prot.permit = .halting → rested →
        t.prot.causes = s.prot.causes ∧ t.prot.table = s.prot.table ∧ t.prot.haltLeft = none ∧
        .permitStateNotice t.prot.permit ∈ t.due ∧
        (held → t.prot.permit = .halted) ∧ (¬ held → s.prot.eligible = false → t.prot.permit = .standby) ∧
        (¬ held → s.prot.eligible = true → s.prot.coilHold = true → t.prot.permit = .halted) ∧
        (¬ held → s.prot.eligible = true → s.prot.coilHold = false → t.prot.permit = .running ∧ .coilRunningEntry ∈ t.due)))

/-- The slip check and the drift check (R31 to R34; log entry 6): a slip in ‰ of encoder A's advance becomes the last slip
and moves both checkpoints, and the second above the limit in succession raises SLIP; a pace part becomes the drift
reference, after a check against the one before it where the expected advance is at least 100 mm, and the third drift above
the limit raises DRIFT. A slip or a drift above 65,535 ‰ is taken as 65,535, and sets RNG with origin SLIP or DRIFT; one
that is not sets no flag. -/
def Obligations.SlipAndDriftAreChecked : Prop :=
  (∀ s : State, 0 < s.meter.encA.length - s.meter.slipA →
    let a := s.meter.encA.length - s.meter.slipA
    let b := s.meter.encB.length - s.meter.slipB
    let m := (checkSlip s).meter
    (65535 < |a - b| * 1000 / a → Flagged .rng .slip s (checkSlip s)) ∧
    (|a - b| * 1000 / a ≤ 65535 → Unflagged s (checkSlip s)) ∧
    (m.lastSlip : Int) = min (|a - b| * 1000 / a) 65535 ∧ m.slipA = s.meter.encA.length ∧ m.slipB = s.meter.encB.length ∧
    (m.lastSlip ≤ s.settings.slipLimit → m.slipRun = 0) ∧
    (s.settings.slipLimit < m.lastSlip → s.meter.slipRun = 0 → m.slipRun = 1) ∧
    (s.settings.slipLimit < m.lastSlip → s.meter.slipRun ≠ 0 → m.slipRun = 0 ∧ .raiseCause .slip ∈ (checkSlip s).due)) ∧
  (∀ (length : BitVec 32) (s : State), s.begun = true → s.settings.driftCheck = true → s.settings.paceSource ≠ 0 →
    Completes (.pacePartToMetering length) s (fun t =>
      Only [.due, .meter] s t ∧ t.meter.driftReference = some (length.toNat, s.lineLength) ∧
      (s.meter.driftReference = none → t.meter = { s.meter with driftReference := some (length.toNat, s.lineLength) }) ∧
      (∀ peer own, s.meter.driftReference = some (peer, own) →
        let expected := (((length.toNat : Int) - peer) * s.settings.takeUpRatio + 500).tdiv 1000
        (expected < 100 → t.meter = { s.meter with driftReference := some (length.toNat, s.lineLength) }) ∧
        (100 ≤ expected →
          let drift := |(s.lineLength - own).tdiv 1000 - expected| * 1000 / expected
          (t.meter.lastDrift : Int) = min drift 65535 ∧ (65535 < drift → Flagged .rng .drift s t) ∧
          (drift ≤ 65535 → Unflagged s t) ∧
          (t.meter.lastDrift ≤ s.settings.driftLimit → t.meter.driftRun = 0) ∧
          (s.settings.driftLimit < t.meter.lastDrift → s.meter.driftRun < 2 → t.meter.driftRun = s.meter.driftRun + 1) ∧
          (s.settings.driftLimit < t.meter.lastDrift → s.meter.driftRun = 2 → t.meter.driftRun = 0 ∧
            .raiseCause .drift ∈ t.due)))))

/-- A request to set an arithmetic flag (R35, R37; log entry 6): the flag is set, the origin is taken only if no flag stood,
and with ARITH-ESCALATE set the first flag asks for ARITH. -/
def Obligations.FlagRequestKeepsTheFirstOrigin : Prop :=
  ∀ (flag : ArithFlag) (origin : Origin) (s : State), s.begun = true →
    Completes (.flagSetRequest flag origin) s (fun t =>
      Only [.due, .meter] s t ∧ t.meter.flags.any = true ∧
      t.meter.origin = (if s.meter.flags.any then s.meter.origin else origin) ∧
      t.meter.flags = s.meter.flags.set flag ∧ { t.meter with flags := s.meter.flags, origin := s.meter.origin } = s.meter ∧
      t.due = s.due.erase (.flagSetRequest flag origin) ++
        (if s.meter.flags.any = false ∧ s.settings.arithEscalate = true then [.raiseCause .arith] else []))

/-! ### Twist supervision -/

/-- A turn (R11, R41, R44 to R47, R52; log entry 14): with the window OPEN, below the full count it is counted with the line
length read; at the full count the window closes with the lay of R45 over its turns, which is classed, counted in the
statistics and judged in the band run, where the run limit makes a lay fault and asks for LAY if lays escalate; a lay held
at 16,777,215 sets OVF, and one of an advance of 0 or less UNF, with origin LAY-n, and no other lay sets a flag; the stall
run returns to 0, the closed mark is set, and the next window begins at the same length. With the window IDLE the turn is
not used. No other spindle changes, and of the channels only its own, which reloads, and triggers those chained on it,
unless its edge has done that. -/
def Obligations.SpindleTurnCountsOrCloses : Prop :=
  ∀ (n : Fin 4) (s : State), s.begun = true → s.settings.twist = true →
    Completes (.spindleTurn n) s (fun t =>
      let p := s.spindle n
      let c := s.channel (turnChannel n)
      let full := s.settings.spindles[n].turnsPerWindow
      let span := s.lineLength - p.startLength
      let turns : Int := p.turns + 1
      let tooLong := 16777215 < (2 * span + turns) / (2 * turns)
      let lay := (layOf span (p.turns + 1)).1
      let out := lay < p.bandLow ∨ p.bandHigh < lay
      let fault := out ∧ s.settings.spindles[n].runLimit ≤ p.bandRun + 1
      Only [.due, .channels, .meter, .twist] s t ∧ (∀ m : Fin 4, m ≠ n → t.spindle m = s.spindle m) ∧
      (∀ j : Fin 8, j ≠ turnChannel n → t.channel j = s.channel j) ∧
      (.spindleTurn n ∈ s.due → t.channel (turnChannel n) = c) ∧
      (.spindleTurn n ∉ s.due → c.mode = some .count → c.state = .running → c.input ≠ .none → t.channel (turnChannel n) =
        { c with
          count := c.pendingReload.getD c.reload, reload := c.pendingReload.getD c.reload, pendingReload := none } ∧
        ∀ j : Fin 8, (s.channel j).state = .armed → (s.channel j).trigger = .chain (turnChannel n) →
          .channelTrigger j (.chain (turnChannel n)) ∈ t.due) ∧
      (c.input = .none → t.channel (turnChannel n) = c) ∧
      (p.windowOpen = false → t.twist = s.twist ∧ t.meter = s.meter) ∧
      (p.windowOpen = true → p.turns + 1 < full →
        t.spindle n = { p with turns := p.turns + 1, lastTurnLength := s.lineLength } ∧ t.meter = s.meter) ∧
      { t.meter with flags := s.meter.flags, origin := s.meter.origin } = s.meter ∧
      (p.windowOpen = true → full ≤ p.turns + 1 →
        (span ≤ 0 → Flagged .unf (.lay n) s t) ∧ (tooLong → Flagged .ovf (.lay n) s t) ∧
        (0 < span → ¬ tooLong → Unflagged s t) ∧ (t.spindle n).lastLay = some lay ∧
        (t.spindle n).lastClass =
          (if lay < p.bandLow then LayClass.below else if p.bandHigh < lay then LayClass.above else LayClass.within) ∧
        (t.spindle n).closedMark = true ∧ (t.spindle n).stallRun = 0 ∧ (t.spindle n).turns = 0 ∧
        (t.spindle n).startLength = s.lineLength ∧ (t.spindle n).lastTurnLength = s.lineLength ∧
        (t.spindle n).windowOpen = true ∧
        (¬ out → (t.spindle n).bandRun = 0) ∧ (out → ¬ fault → (t.spindle n).bandRun = p.bandRun + 1) ∧
        (fault → (t.spindle n).bandRun = 0 ∧ (s.settings.layEscalate = true → .raiseCause .lay ∈ t.due)) ∧
        (p.stats.windows < 4294967295 → (t.spindle n).stats = { p.stats with
          windows := p.stats.windows + 1
          within := if out then p.stats.within else p.stats.within + 1
          below := if lay < p.bandLow then p.stats.below + 1 else p.stats.below
          above := if ¬ lay < p.bandLow ∧ p.bandHigh < lay then p.stats.above + 1 else p.stats.above
          layFaults := if fault then p.stats.layFaults + 1 else p.stats.layFaults
          minLay := some (match p.stats.minLay with
            | some m => min m lay
            | none => lay)
          maxLay := some (match p.stats.maxLay with
            | some m => max m lay
            | none => lay)
          sumLay := p.stats.sumLay + lay }) ∧
        (p.stats.windows = 4294967295 → (t.spindle n).stats = p.stats)))

/-- The lay of a window, and the mesh of a mesh window, of 1 to 255 turns or rows (R45, R47, R93, R94): the length for each
turn rounded to the nearest µm with a half rounded up, clamped at 16,777,215 with OVF, and 1 with UNF for an advance of 0 or
less; lays out of band are counted in succession, the run limit makes a fault and returns the run to 0, and so does a WITHIN
lay without one. -/
def Obligations.LayIsRoundedAndJudged : Prop :=
  (∀ (delta : Int) (n : Nat), 0 < n → n ≤ 255 →
    1 ≤ (layOf delta n).1 ∧ (layOf delta n).1 ≤ 16777215 ∧
    (delta ≤ 0 → layOf delta n = (1, some .unf)) ∧
    (0 < delta → (n : Int) ≤ 2 * delta → 2 * delta < 33554431 * n →
      (layOf delta n).2 = none ∧ 2 * ((layOf delta n).1 : Int) * n ≤ 2 * delta + n ∧
        2 * delta + n < 2 * (((layOf delta n).1 : Int) + 1) * n) ∧
    (0 < delta → 33554431 * n ≤ 2 * delta → layOf delta n = (16777215, some .ovf))) ∧
  (∀ low high lay limit run : Nat, run < limit →
    (lay < low ∨ high < lay → run + 1 < limit → nextBandRun (classOf low high lay) limit run = (run + 1, false)) ∧
    (lay < low ∨ high < lay → run + 1 = limit → nextBandRun (classOf low high lay) limit run = (0, true)) ∧
    (low ≤ lay → lay ≤ high → nextBandRun (classOf low high lay) limit run = (0, false)))

/-- The notices of entering and of leaving RUNNING at the twist monitor (R42, R43): at the entry every fitted spindle's window
opens at the present line length and its channel and CH0 are started, CH5 too if the follow reference is available and CH5
does not run once the requests to it that are due have been taken (log entry 44); at the exit the
windows become IDLE without a close, and CH0 and CH5 are stopped. The lays, classes and statistics stay. -/
def Obligations.TwistFollowsRunning : Prop :=
  ∀ s : State, s.begun = true → s.settings.twist = true →
    Completes .twistRunningEntry s (fun t =>
      Only [.due, .twist] s t ∧ { t.twist with spindles := s.twist.spindles } = s.twist ∧
      (∀ n : Fin 4, s.settings.spindles[n].fitted = true → t.spindle n = { s.spindle n with
        windowOpen := true, turns := 0, startLength := s.lineLength, lastTurnLength := s.lineLength, closedMark := false }) ∧
      (∀ n : Fin 4, s.settings.spindles[n].fitted = false → t.spindle n = s.spindle n) ∧
      (∀ n : Fin 4, s.settings.spindles[n].fitted = true → .channelStartRequest (turnChannel n) {
        mode := .count, unit := .edges, reload := BitVec.ofNat 24 s.settings.spindles[n].pulses, drive := none,
        trigger := .owner, action := .none } ∈ t.due) ∧
      .channelStartRequest 0 {
        mode := .interval, unit := .ms1, reload := BitVec.ofNat 24 s.settings.stallPeriod, drive := none, trigger := .owner,
        action := .none } ∈ t.due ∧
      (∀ h, s.settings.follow = true → s.twist.halfPeriod = some h → s.twist.flowing = true → s.twist.condition ≠ .lost →
        s.referenceRuns = false → .channelStartRequest 5 {
          mode := .interval, unit := .us1, reload := BitVec.ofNat 24 h, drive := none, trigger := .owner,
          action := .toggle } ∈ t.due)) ∧
    Completes .twistRunningExit s (fun t =>
      Only [.due, .twist] s t ∧ { t.twist with spindles := s.twist.spindles } = s.twist ∧
      (∀ n : Fin 4, s.settings.spindles[n].fitted = true → t.spindle n = { s.spindle n with
        windowOpen := false, turns := 0, bandRun := 0, stallRun := 0, closedMark := false }) ∧
      (∀ n : Fin 4, s.settings.spindles[n].fitted = false → t.spindle n = s.spindle n) ∧
      t.due = s.due.erase .twistRunningExit ++ [.channelStopRequest 0, .channelStopRequest 5])

/-- A stall check (R47 to R50, R52; log entry 6), spindle by spindle: a closed mark is taken back and the window goes on; an
unmarked window with turns closes short over its whole turns, is classed, counted in the statistics and judged in the band
run, where the run limit makes a lay fault and asks for LAY if lays escalate, and the next begins at the last turn; one with
no turn is STALLED, keeps its start and its last lay, asks for DVZ with the spindle as its origin, which it takes where no
flag stood and no spindle before it closed, and at the second in succession raises STRAND. The arithmetic status has the
flags that the spindles ask for, DVZ at a STALLED close, OVF at a lay held at 16,777,215 and UNF at one of an advance of 0
or less, and where none stood the origin LAY-n of the first spindle that asks. -/
def Obligations.StallCheckClosesUnmarkedWindows : Prop :=
  ∀ s : State, s.begun = true → s.settings.twist = true →
    Completes .stallCheck s (fun t =>
      Only [.due, .channels, .meter, .twist] s t ∧ (∀ j : Fin 8, j ≠ 0 → t.channel j = s.channel j) ∧
      { t.twist with spindles := s.twist.spindles } = s.twist ∧
      (let asks (m : Fin 4) : Option ArithFlag :=
        let p := s.spindle m
        let span := p.lastTurnLength - p.startLength
        if p.windowOpen = false ∨ p.closedMark = true then none
        else if p.turns = 0 then some .dvz
        else if span ≤ 0 then some .unf
        else if 16777215 < (2 * span + p.turns) / (2 * p.turns) then some .ovf
        else none
      { t.meter with flags := s.meter.flags, origin := s.meter.origin } = s.meter ∧
      t.meter.flags = ((List.finRange 4).filterMap asks).foldl ArithFlags.set s.meter.flags ∧
      (s.meter.flags.any = true → t.meter.origin = s.meter.origin) ∧
      ((∀ n, asks n = none) → t.meter.origin = s.meter.origin) ∧
      ∀ n, asks n ≠ none → (∀ m, m < n → asks m = none) → s.meter.flags.any = false → t.meter.origin = .lay n ∧
        (s.settings.arithEscalate = true → .raiseCause .arith ∈ t.due)) ∧
      ∀ n : Fin 4,
        let p := s.spindle n
        let lay := (layOf (p.lastTurnLength - p.startLength) p.turns).1
        let out := lay < p.bandLow ∨ p.bandHigh < lay
        let fault := out ∧ s.settings.spindles[n].runLimit ≤ p.bandRun + 1
        let first := ∀ m : Fin 4, m < n → (s.spindle m).windowOpen = false ∨ (s.spindle m).closedMark = true
        (p.windowOpen = false → t.spindle n = p) ∧
        (p.windowOpen = true → p.closedMark = true → t.spindle n = { p with closedMark := false }) ∧
        (p.windowOpen = true → p.closedMark = false → 0 < p.turns →
          (t.spindle n).lastLay = some lay ∧ (t.spindle n).windowOpen = true ∧
          (t.spindle n).lastClass =
            (if lay < p.bandLow then LayClass.below else if p.bandHigh < lay then LayClass.above else LayClass.within) ∧
          (¬ out → (t.spindle n).bandRun = 0) ∧ (out → ¬ fault → (t.spindle n).bandRun = p.bandRun + 1) ∧
          (fault → (t.spindle n).bandRun = 0 ∧ (s.settings.layEscalate = true → .raiseCause .lay ∈ t.due)) ∧
          (p.stats.windows < 4294967295 → (t.spindle n).stats = { p.stats with
            windows := p.stats.windows + 1
            within := if out then p.stats.within else p.stats.within + 1
            below := if lay < p.bandLow then p.stats.below + 1 else p.stats.below
            above := if ¬ lay < p.bandLow ∧ p.bandHigh < lay then p.stats.above + 1 else p.stats.above
            layFaults := if fault then p.stats.layFaults + 1 else p.stats.layFaults
            minLay := some (match p.stats.minLay with
              | some m => min m lay
              | none => lay)
            maxLay := some (match p.stats.maxLay with
              | some m => max m lay
              | none => lay)
            sumLay := p.stats.sumLay + lay }) ∧
          (p.stats.windows = 4294967295 → (t.spindle n).stats = p.stats) ∧
          (t.spindle n).stallRun = 0 ∧ (t.spindle n).turns = 0 ∧ (t.spindle n).closedMark = false ∧
          (t.spindle n).startLength = p.lastTurnLength ∧ (t.spindle n).lastTurnLength = p.lastTurnLength) ∧
        (p.windowOpen = true → p.closedMark = false → p.turns = 0 →
          { t.spindle n with lastClass := p.lastClass, stats := p.stats, stallRun := p.stallRun } = p ∧
          (t.spindle n).lastClass = .stalled ∧ (t.spindle n).stallRun = (if p.stallRun = 0 then 1 else 0) ∧
          (p.stats.windows < 4294967295 → (t.spindle n).stats =
            { p.stats with windows := p.stats.windows + 1, stalled := p.stats.stalled + 1 }) ∧
          (p.stats.windows = 4294967295 → (t.spindle n).stats = p.stats) ∧
          t.meter.flags.dvz = true ∧ (s.meter.flags.any = true → t.meter.origin = s.meter.origin) ∧
          (s.meter.flags.any = false → first → t.meter.origin = .lay n) ∧ (p.stallRun ≠ 0 → .raiseCause .strand ∈ t.due)))

/-- The coil builder's requests for segment statistics (R53, R95): the twist monitor hands over the totals over its fitted
spindles, with the least and the greatest of their lays and the mean of all, each absent where there is none, and the knot
monitor its eight counts; both return them to zero, and the suspect set is emptied. -/
def Obligations.SegmentRequestsHandOverAndClear : Prop :=
  ∀ (coil : BitVec 32) (s : State), s.begun = true →
    (s.settings.twist = true →
      Completes (.twistSegmentRequest coil) s (fun t =>
        let fitted := ((List.finRange 4).filter (fun n => s.settings.spindles[n].fitted)).map (fun n => (s.spindle n).stats)
        let lays := (fitted.map (fun (u : SpindleStats) => u.within + u.below + u.above)).sum
        Only [.due, .twist] s t ∧ { t.twist with spindles := s.twist.spindles } = s.twist ∧
        (∀ n : Fin 4, t.spindle n = { s.spindle n with stats := .zero }) ∧
        ∃ totals, t.due = s.due.erase (.twistSegmentRequest coil) ++ [.segmentStatisticsAnswer coil (.twist totals)] ∧
          totals.windows = min (fitted.map SpindleStats.windows).sum 4294967295 ∧
          totals.outOfBand = min (fitted.map (fun (u : SpindleStats) => u.below + u.above)).sum 4294967295 ∧
          totals.stalled = min (fitted.map SpindleStats.stalled).sum 4294967295 ∧
          totals.layFaults = min (fitted.map SpindleStats.layFaults).sum 4294967295 ∧
          totals.meanLay = (if lays = 0 then none else some ((fitted.map SpindleStats.sumLay).sum / lays)) ∧
          (totals.minLay = none ↔ ∀ u ∈ fitted, u.minLay = none) ∧
          (∀ k, totals.minLay = some k ↔ (∃ u ∈ fitted, u.minLay = some k) ∧ ∀ u ∈ fitted, ∀ l, u.minLay = some l → k ≤ l) ∧
          (totals.maxLay = none ↔ ∀ u ∈ fitted, u.maxLay = none) ∧
          (∀ k, totals.maxLay = some k ↔ (∃ u ∈ fitted, u.maxLay = some k) ∧ ∀ u ∈ fitted, ∀ l, u.maxLay = some l → l ≤ k))) ∧
    (s.settings.knot = true →
      Completes (.knotSegmentRequest coil) s (fun t =>
        Only [.due, .knot] s t ∧ t.knot = { s.knot with stats := zeroCounts, suspects := 0 } ∧
        t.due = s.due.erase (.knotSegmentRequest coil) ++ [.segmentStatisticsAnswer coil (.knot s.knot.stats)]))

/-- A pace part at the twist monitor of a node with FOLLOW (R55, R56, R58; log entries 6, 37 and 44): at v = 0 the flow
stops and the half-period stays; else the half-period is that of the pace, clamped to 10–16,777,215 µs, where one held at 10
sets OVF and one held at 16,777,215 UNF, with origin FOLLOW; a source that was lost clears PACE-LOST; and in RUNNING CH5 is
started, given its new reload, or stopped, as it runs once the requests to it that are due have been taken. -/
def Obligations.PacePartRecomputesTheHalfPeriod : Prop :=
  ∀ (v : BitVec 16) (s : State), s.follows = true →
    Completes (.pacePartToTwist v) s (fun t =>
      let h := (1000 * s.settings.spindles[(0 : Fin 4)].target + v.toNat * s.settings.pref) / (2 * v.toNat * s.settings.pref)
      let clamped := if h < 10 then 10 else if 16777215 < h then 16777215 else h
      Only [.due, .meter, .twist] s t ∧ t.twist.spindles = s.twist.spindles ∧ t.twist.condition = .tracking ∧
      (s.twist.condition = .lost → .clearCause .paceLost ∈ t.due) ∧
      (v = 0 → t.twist.flowing = false ∧ t.twist.halfPeriod = s.twist.halfPeriod ∧ t.meter = s.meter ∧
        (s.twistRunning = true → s.referenceRuns = true → .channelStopRequest 5 ∈ t.due)) ∧
      (v ≠ 0 → t.twist.flowing = true ∧ t.twist.halfPeriod = some clamped ∧
        { t.meter with flags := s.meter.flags, origin := s.meter.origin } = s.meter ∧
        (10 ≤ h → h ≤ 16777215 → t.meter = s.meter) ∧ (h < 10 → Flagged .ovf .follow s t) ∧
        (16777215 < h → Flagged .unf .follow s t) ∧
        (s.twistRunning = true → s.referenceRuns = false → .channelStartRequest 5 {
          mode := .interval, unit := .us1, reload := BitVec.ofNat 24 clamped, drive := none, trigger := .owner,
          action := .toggle } ∈ t.due) ∧
        (s.twistRunning = true → s.referenceRuns = true → .setNextReload 5 (BitVec.ofNat 24 clamped) ∈ t.due)))

/-- The pace source falling SILENT, the hold timer and the source heard again (R57, R58; log entries 28, 37 and 44): TRACKING
holds for the pace hold, HOLDING is lost at the timer with PACE-LOST raised and the flow stopped, and a notice that it is
heard brings TRACKING back, with PACE-LOST cleared after a loss. In any other source condition nothing of the follow record
changes. -/
def Obligations.PaceSourceIsHeldLostAndFound : Prop :=
  ∀ s : State, s.follows = true →
    Completes .paceSourceSilent s (fun t => Only [.due, .twist] s t ∧
      (s.twist.condition = .tracking →
        t.twist = { s.twist with condition := .holding, holdLeft := some (s.settings.paceHold * 1000) } ∧
        (s.settings.paceHold = 0 → .paceHoldExpiry ∈ t.due)) ∧
      (s.twist.condition ≠ .tracking → t.twist = s.twist)) ∧
    Completes .paceHoldExpiry s (fun t => Only [.due, .twist] s t ∧
      (s.twist.condition = .holding →
        t.twist = { s.twist with condition := .lost, flowing := false, holdLeft := none } ∧ .raiseCause .paceLost ∈ t.due ∧
        (s.twistRunning = true → s.referenceRuns = true → .channelStopRequest 5 ∈ t.due)) ∧
      (s.twist.condition ≠ .holding → t.twist = s.twist)) ∧
    Completes .paceSourceHeard s (fun t => Only [.due, .twist] s t ∧
      (s.twist.condition = .tracking → t.twist = s.twist) ∧
      (s.twist.condition ≠ .tracking → t.twist = { s.twist with condition := .tracking, holdLeft := none }) ∧
      (s.twist.condition = .lost → .clearCause .paceLost ∈ t.due))

/-! ### Sense sampling -/

/-- A CH6 expiry and the sampler's notices (R63 to R65, R70 to R72; log entries 4 and 40): in SCANNING an overrun is
counted; in IDLE the first entry that is active and not passed over (one that blanks in tie is, on a KNOT node with the
taken sector S0 or S1: R66) is converted, its input sampled with 0 V and below as 0, 10 V and above as 4,095, and a voltage
between as a result next to it; with none the scan ends at once; the running view follows RUNNING, and entries with PROTECT
begin their runs afresh; TENSION may be cleared exactly when every locked entry's result lies in its window of Table 4-3
(one that is OFF has none, and is never locked), and the clear unlocks every entry and keeps the trip values. -/
def Obligations.SamplerScansAndTakesItsNotices : Prop :=
  ∀ s : State, s.begun = true →
    let starts (n : Fin 8) := s.settings.scan[n].mode ≠ .off ∧ ¬ (s.settings.knot = true ∧ s.settings.scan[n].blankInTie = true ∧
      (s.knot.takenSector = some .s0 ∨ s.knot.takenSector = some .s1))
    let inside (n : Fin 8) (r : Nat) := match s.settings.scan[n].mode with
      | .off => True
      | .low => s.settings.scan[n].lowLimit ≤ r
      | .high => r ≤ s.settings.scan[n].highLimit
      | .band => s.settings.scan[n].lowLimit ≤ r ∧ r ≤ s.settings.scan[n].highLimit
    Completes .scanStart s (fun t =>
      Only [.due, .channels, .sampler] s t ∧ (∀ j : Fin 8, j ≠ 6 → t.channel j = s.channel j) ∧
      (s.sampler.position ≠ none → t.sampler = { s.sampler with overruns := holdInc 65535 s.sampler.overruns }) ∧
      (s.sampler.position = none → (∀ n : Fin 8, ¬ starts n) →
        t.sampler = { s.sampler with conversionLeft := none }) ∧
      (∀ n : Fin 8, s.sampler.position = none → starts n → (∀ m : Fin 8, m < n → ¬ starts m) →
        t.sampler = { s.sampler with
          position := some n
          conversionLeft := some 125
          sampled := t.sampler.sampled } ∧
        let level := s.pins.ai.toList.getD s.settings.scan[n].input 0
        (level ≤ 0 → t.sampler.sampled = 0) ∧ (4095000 ≤ level → t.sampler.sampled = 4095) ∧
        (0 ≤ level → level ≤ 4095000 → level - 1000 < 1000 * (t.sampler.sampled.toNat : Int) ∧
          1000 * (t.sampler.sampled.toNat : Int) < level + 1000))) ∧
    Completes .samplerRunningEntry s (fun t => Only [.due, .sampler] s t ∧
      { t.sampler with entries := s.sampler.entries } = { s.sampler with runningView := true } ∧
      ∀ n : Fin 8, t.sampler.entries[n] = if s.settings.scan[n].mode ≠ .off ∧ s.settings.scan[n].protect = true then
        { s.sampler.entries[n] with filterRun := 0, tripped := false } else s.sampler.entries[n]) ∧
    Completes .samplerRunningExit s (fun t => Only [.due, .sampler] s t ∧ t.sampler = { s.sampler with runningView := false }) ∧
    Completes .tensionClearQuestion s (fun t => Only [.due] s t ∧
      ∃ yes, t.due = s.due.erase .tensionClearQuestion ++ [.tensionAnswer yes] ∧
        (yes = true ↔ ∀ n : Fin 8, s.sampler.entries[n].locked = true →
          inside n s.sampler.entries[n].result)) ∧
    Completes .tensionClearNotice s (fun t => Only [.due, .sampler] s t ∧
      { t.sampler with entries := s.sampler.entries } = s.sampler ∧
      ∀ n : Fin 8, t.sampler.entries[n] = { s.sampler.entries[n] with locked := false })

/-- A conversion that completes (R62, R64, R66 to R69): the result is stored and judged by the window of Table 4-3 (an entry
that is OFF has none, and is never converted); one in window ends the run; out of window the run grows by one and at the
filter count the entry trips, counted and recorded unless locked; a PROTECT trip in the running view locks the entry and
raises TENSION; the next entry is converted or the scan ends. -/
def Obligations.ConversionFiltersAndTrips : Prop :=
  ∀ (result : BitVec 12) (n : Fin 8) (s : State), s.sampler.position = some n →
    let starts (n : Fin 8) := s.settings.scan[n].mode ≠ .off ∧ ¬ (s.settings.knot = true ∧ s.settings.scan[n].blankInTie = true ∧
      (s.knot.takenSector = some .s0 ∨ s.knot.takenSector = some .s1))
    let inside (n : Fin 8) (r : Nat) := match s.settings.scan[n].mode with
      | .off => True
      | .low => s.settings.scan[n].lowLimit ≤ r
      | .high => r ≤ s.settings.scan[n].highLimit
      | .band => s.settings.scan[n].lowLimit ≤ r ∧ r ≤ s.settings.scan[n].highLimit
    Completes (.conversionComplete result) s (fun t =>
      let e := s.sampler.entries[n]
      let g := s.settings.scan[n]
      let r := result.toNat
      let acts := g.protect = true ∧ s.sampler.runningView = true
      Only [.due, .sampler] s t ∧
      (∀ m : Fin 8, m ≠ n → t.sampler.entries[m] = s.sampler.entries[m]) ∧
      t.sampler.overruns = s.sampler.overruns ∧ t.sampler.runningView = s.sampler.runningView ∧
      (inside n r → t.sampler.entries[n] = { e with result := r, filterRun := 0, tripped := false }) ∧
      (¬ inside n r → e.tripped = true → t.sampler.entries[n] = { e with result := r }) ∧
      (¬ inside n r → e.tripped = false → e.filterRun + 1 < g.filterCount →
        t.sampler.entries[n] = { e with result := r, filterRun := e.filterRun + 1 }) ∧
      (¬ inside n r → e.tripped = false → g.filterCount ≤ e.filterRun + 1 →
        { t.sampler.entries[n] with locked := e.locked } = { e with
          result := r
          filterRun := e.filterRun + 1
          tripped := true
          tripCount := holdInc 65535 e.tripCount
          tripValue := if e.locked = true then e.tripValue else some r } ∧
        (acts → t.sampler.entries[n].locked = true ∧ .raiseCause .tension ∈ t.due) ∧
        (¬ acts → t.sampler.entries[n].locked = e.locked)) ∧
      (∀ m : Fin 8, n < m → starts m → (∀ k : Fin 8, n < k → k < m → ¬ starts k) →
        t.sampler.position = some m ∧ t.sampler.conversionLeft = some 125) ∧
      ((∀ m : Fin 8, n < m → ¬ starts m) → t.sampler.position = none ∧ t.sampler.conversionLeft = none))

/-! ### Knot supervision -/

/-- A change of the taken code that is not a forward step (R76, R77, R81, Tables 5-3 and 5-4; log entry 4): with no taken
sector a valid code is established and no row is judged; a backward step abandons the row; a code of no sector, or a step of
2 to 4 sectors, is a phase fault, which is counted, abandons the row, leaves no taken sector and raises PHASE in the running
view. Entering S3 is an active edge of the in-draw signal at CH0 (R4, R15, R78), which begins a measurement where CH0 waits
for it in WIDTH mode, and leaving S3 an inactive edge, which ends it: the count is captured, CH0 is ARMED again and gives
its expiry. -/
def Obligations.PhaseChangesAreJudged : Prop :=
  ∀ (code : BitVec 3) (s : State), s.begun = true → s.settings.knot = true → s.knot.takenCode ≠ some code →
    Completes (.phaseCodeChange code) s (fun t =>
      let abandoned := t.knot.rowValid = false ∧ t.knot.rowOutcome = .none ∧ t.knot.rowMissed = 0 ∧ t.knot.window = .idle ∧
        t.knot.mesh = (if s.knot.mesh = .opened then MeshState.waiting else s.knot.mesh) ∧
        t.knot.rowCounter = s.knot.rowCounter ∧ t.knot.stats = s.knot.stats ∧ t.knot.history = s.knot.history ∧
        (s.knot.window ≠ .idle → .channelStopRequest 1 ∈ t.due ∧ .channelStopRequest 2 ∈ t.due)
      let faulted := t.knot.takenSector = none ∧ t.knot.phaseFaults = holdInc 65535 s.knot.phaseFaults ∧ abandoned ∧
        (s.knot.runningView = true → .raiseCause .phase ∈ t.due)
      let shaft := (s.channel 0).input = .inDraw ∧ (s.channel 0).mode = some .width
      let full := decide ((s.channel 0).count.toNat = 16777215)
      let drawn := (s.knot.takenSector ≠ some .s3 → t.knot.takenSector = some .s3 → shaft → (s.channel 0).state = .armed →
          (s.channel 0).trigger = .input → t.channel 0 = { s.channel 0 with state := .running, count := 0, divider := 0 }) ∧
        (s.knot.takenSector = some .s3 → t.knot.takenSector ≠ some .s3 → shaft → (s.channel 0).state = .running →
          t.channel 0 = { s.channel 0 with
            state := .armed, count := 0, capture := (s.channel 0).count, captureSaturated := full } ∧
          .drawWidthCapture (s.channel 0).count full ∈ t.due ∧
          ∀ j : Fin 8, (s.channel j).state = .armed → (s.channel j).trigger = .chain 0 → .channelTrigger j (.chain 0) ∈ t.due) ∧
        ((s.knot.takenSector = some .s3 ↔ t.knot.takenSector = some .s3) → t.channel 0 = s.channel 0)
      Only [.due, .pins, .channels, .meter, .knot] s t ∧ drawn ∧
      t.pins = (if .phaseCodeChange code ∈ s.due then s.pins else { s.pins with phase := code }) ∧
      (∀ j : Fin 8, j ≠ 0 → t.channel j = s.channel j) ∧ t.knot.takenCode = some code ∧ t.knot.candidate = none ∧
      (sectorOf code = none → faulted) ∧
      (∀ k, s.knot.takenSector = none → sectorOf code = some k →
        t.knot = { s.knot with takenCode := some code, candidate := none, filterTime := 0, takenSector := some k }) ∧
      (∀ j k, s.knot.takenSector = some j → sectorOf code = some k → sectorDistance j k = 5 →
        t.knot.takenSector = some k ∧ t.knot.phaseFaults = s.knot.phaseFaults ∧ abandoned) ∧
      (∀ j k, s.knot.takenSector = some j → sectorOf code = some k → 2 ≤ sectorDistance j k → sectorDistance j k ≤ 4 → faulted))

/-- A forward step (R78 to R80, R82, R86, R88 to R90, R92 to R94; the counts as far as they stay in their ranges, beyond
which the model takes a free value: log entry 17), with the edges of the in-draw signal at CH0: into S3 with a VALID row the
window becomes PENDING and CH1 and CH2 are started; into S4 it ends as the row's outcome says; into S0 a VALID row is
completed: out of the running view as an inch row, in it as a sampled row, whose missed heads are counted and join the
suspects at the threshold, and KNOT is asked for where a head missed in the seen row before is missed again; the mesh window
counts sampled rows and at their number computes and judges the mesh, with MESH asked for at a fault, and with OVF for a
mesh held at 16,777,215, or UNF for one of an advance of 0 or less, set with origin MESH; and a new VALID row begins; into
the other sectors only the phase moves. -/
def Obligations.ForwardStepsRunTheRow : Prop :=
  ∀ (code : BitVec 3) (j k : Sector) (s : State), s.begun = true → s.settings.knot = true → s.knot.takenCode ≠ some code →
    s.knot.takenSector = some j → sectorOf code = some k → sectorDistance j k = 1 →
    Completes (.phaseCodeChange code) s (fun t =>
      let moved := { s.knot with takenCode := some code, candidate := none, filterTime := 0, takenSector := some k }
      let next := if s.knot.rowCounter < 4294967295 then s.knot.rowCounter + 1 else 0
      let row : RowEntry := {
        number := next, missed := if s.knot.rowOutcome = .unseen then 0 else s.knot.rowMissed,
        short := s.knot.rowOutcome == .short, unseen := s.knot.rowOutcome == .unseen }
      let sampled := s.knot.rowValid = true ∧ s.knot.runningView = true
      let history := (s.knot.history ++ [row]).drop (s.knot.history.length + 1 - 16)
      let misses (h : Fin 32) := (history.filter (fun e => e.missed.getLsbD h)).length
      let joins (h : Fin 32) : Bool := row.missed.getLsbD h && !s.knot.suspects.getLsbD h &&
        decide (s.settings.suspectThreshold ≤ misses h)
      let heads (p : Fin 32 → Bool) := ((List.finRange 32).filter p).length
      let seenBefore (e : RowEntry) := (history.dropLast.filter (fun f => !f.unseen)).getLast? = some e
      let twice := row.unseen = false ∧ ∃ e, seenBefore e ∧ ∃ h : Fin 32, row.missed.getLsbD h = true ∧ e.missed.getLsbD h = true
      let span := s.lineLength - s.knot.meshStart
      let tooLong := 16777215 < (2 * span + s.settings.meshRows) / (2 * s.settings.meshRows)
      let mesh := (layOf span s.settings.meshRows).1
      let out := mesh < s.knot.meshLow ∨ s.knot.meshHigh < mesh
      let fault := out ∧ s.settings.meshRunLimit ≤ s.knot.meshRun + 1
      let meshed := sampled ∧ s.knot.mesh = .opened ∧ s.settings.meshRows ≤ s.knot.meshCounted + 1
      let shaft := (s.channel 0).input = .inDraw ∧ (s.channel 0).mode = some .width
      let full := decide ((s.channel 0).count.toNat = 16777215)
      let drawn := (s.knot.takenSector ≠ some .s3 → t.knot.takenSector = some .s3 → shaft → (s.channel 0).state = .armed →
          (s.channel 0).trigger = .input → t.channel 0 = { s.channel 0 with state := .running, count := 0, divider := 0 }) ∧
        (s.knot.takenSector = some .s3 → t.knot.takenSector ≠ some .s3 → shaft → (s.channel 0).state = .running →
          t.channel 0 = { s.channel 0 with
            state := .armed, count := 0, capture := (s.channel 0).count, captureSaturated := full } ∧
          .drawWidthCapture (s.channel 0).count full ∈ t.due ∧
          ∀ j : Fin 8, (s.channel j).state = .armed → (s.channel j).trigger = .chain 0 → .channelTrigger j (.chain 0) ∈ t.due) ∧
        ((s.knot.takenSector = some .s3 ↔ t.knot.takenSector = some .s3) → t.channel 0 = s.channel 0)
      Only [.due, .pins, .channels, .meter, .knot] s t ∧ t.knot.takenSector = some k ∧ drawn ∧
      (∀ c : Fin 8, c ≠ 0 → t.channel c = s.channel c) ∧
      { t.meter with flags := s.meter.flags, origin := s.meter.origin } = s.meter ∧
      (k ≠ .s0 ∨ ¬ meshed ∨ (0 < span ∧ ¬ tooLong) → Unflagged s t) ∧
      (k = .s0 → meshed → (span ≤ 0 → Flagged .unf .mesh s t) ∧ (tooLong → Flagged .ovf .mesh s t)) ∧
      (k = .s1 ∨ k = .s2 ∨ k = .s5 → t.knot = moved) ∧
      (k = .s3 → s.knot.rowValid = true → t.knot = { moved with window := .pending, samples := 0 } ∧
        .channelStartRequest 1 (delayRequest .us1 s.settings.openDelay) ∈ t.due ∧
        .channelStartRequest 2 (delayRequest .us1 (s.settings.openDelay + s.settings.windowSpan)) ∈ t.due) ∧
      (k = .s3 → s.knot.rowValid = false → t.knot = moved) ∧
      (k = .s4 → s.knot.window = .idle → t.knot = moved) ∧
      (k = .s4 → s.knot.window = .pending →
        t.knot = { moved with window := .idle, rowOutcome := .unseen, rowMissed := 0 } ∧ .channelStopRequest 1 ∈ t.due ∧
        .channelStopRequest 2 ∈ t.due) ∧
      (k = .s4 → s.knot.window = .opened →
        t.knot = { moved with
          window := .idle
          sampleLeft := none
          rowOutcome := .short
          rowMissed := s.settings.fittedHeads &&& ~~~s.knot.tight } ∧ .channelStopRequest 2 ∈ t.due) ∧
      (k = .s4 → s.knot.window = .closed → t.knot = { moved with window := .idle }) ∧
      (k = .s0 → t.knot.rowValid = true ∧ t.knot.rowOutcome = .none ∧ t.knot.rowMissed = 0 ∧
        (s.knot.mesh = .waiting → t.knot.mesh = .opened ∧ t.knot.meshStart = s.lineLength ∧ t.knot.meshCounted = 0) ∧
        (s.knot.mesh = .idle → t.knot.mesh = .idle) ∧
        (s.knot.mesh = .opened → t.knot.mesh = .opened ∧ (¬ sampled → t.knot.meshCounted = s.knot.meshCounted) ∧
          (sampled → ¬ meshed → t.knot.meshCounted = s.knot.meshCounted + 1)) ∧
        (¬ meshed → t.knot.lastMesh = s.knot.lastMesh ∧ t.knot.meshRun = s.knot.meshRun ∧
          t.knot.stats.meshWindows = s.knot.stats.meshWindows ∧ t.knot.stats.meshOutOfBand = s.knot.stats.meshOutOfBand ∧
          t.knot.stats.meshFaults = s.knot.stats.meshFaults) ∧
        (meshed → t.knot.lastMesh = some mesh ∧ t.knot.meshStart = s.lineLength ∧ t.knot.meshCounted = 0 ∧
          (¬ out → t.knot.meshRun = 0) ∧ (out → ¬ fault → t.knot.meshRun = s.knot.meshRun + 1) ∧
          (fault → t.knot.meshRun = 0 ∧ (s.settings.meshEscalate = true → .raiseCause .mesh ∈ t.due)) ∧
          (s.knot.stats.meshWindows < 4294967295 → t.knot.stats.meshWindows = s.knot.stats.meshWindows + 1 ∧
            t.knot.stats.meshOutOfBand = (if out then s.knot.stats.meshOutOfBand + 1 else s.knot.stats.meshOutOfBand) ∧
            t.knot.stats.meshFaults = (if fault then s.knot.stats.meshFaults + 1 else s.knot.stats.meshFaults))) ∧
        (s.knot.rowValid = false → t.knot.rowCounter = s.knot.rowCounter ∧ t.knot.history = s.knot.history ∧
          t.knot.stats = s.knot.stats) ∧
        (s.knot.rowValid = true → s.knot.runningView = false → t.knot.rowCounter = next ∧
          t.knot.history = s.knot.history ∧ t.knot.suspects = s.knot.suspects ∧
          t.knot.stats.inchRows = holdInc 4294967295 s.knot.stats.inchRows) ∧
        (sampled → t.knot.rowCounter = next ∧ t.knot.history = history ∧
          (∀ h : Fin 32, t.knot.suspects.getLsbD h = (s.knot.suspects.getLsbD h || joins h)) ∧
          (s.settings.consecutiveStop = true → twice → .raiseCause .knot ∈ t.due) ∧
          (s.settings.consecutiveStop = false ∨ ¬ twice → .raiseCause .knot ∉ s.due → .raiseCause .knot ∉ t.due) ∧
          (s.knot.stats.sampledRows < 4294967295 → t.knot.stats.sampledRows = s.knot.stats.sampledRows + 1 ∧
            t.knot.stats.unseenRows = (if row.unseen = true then s.knot.stats.unseenRows + 1 else s.knot.stats.unseenRows) ∧
            (s.knot.stats.missedKnots + 32 ≤ 4294967295 → t.knot.stats.missedKnots = s.knot.stats.missedKnots +
              (if row.unseen = true then 0 else heads (fun h => row.missed.getLsbD h))) ∧
            (s.knot.stats.headFaults + 32 ≤ 4294967295 → t.knot.stats.headFaults = s.knot.stats.headFaults + heads joins)))))

/-- The sampling window (R83 to R85): CH1 opens a PENDING window with its first sample, a sample moves the run of every
fitted head that is not TIGHT, and CH2 closes an OPEN window with the fitted heads that are not TIGHT missed. In another
window state the events are not used (the model's choice: log entry 28). That the count of samples is held at 2,622 is the
model's inference (log entry 35). -/
def Obligations.WindowSamplesTheHeads : Prop :=
  ∀ (lines : BitVec 32) (s : State), s.begun = true → s.settings.knot = true → 1 ≤ s.settings.headFilter →
    Completes (.windowOpen lines) s (fun t => Only [.due, .pins, .channels, .knot] s t ∧
      (∀ j : Fin 8, j ≠ 1 → t.channel j = s.channel j) ∧ (s.knot.window ≠ .pending → t.knot = s.knot) ∧
      (s.knot.window = .pending → { t.knot with headRuns := s.knot.headRuns, tight := s.knot.tight } =
          { s.knot with window := .opened, samples := 1, sampleLeft := some 25 } ∧
        ∀ h : Fin 32, (t.knot.headRuns[h] =
            if s.settings.fittedHeads.getLsbD h = true ∧ lines.getLsbD h = true then 1 else 0) ∧
          (t.knot.tight.getLsbD h = true ↔
            s.settings.fittedHeads.getLsbD h = true ∧ lines.getLsbD h = true ∧ s.settings.headFilter = 1))) ∧
    Completes (.knotSample lines) s (fun t => Only [.due, .pins, .knot] s t ∧ (s.knot.window ≠ .opened → t.knot = s.knot) ∧
      (s.knot.window = .opened → { t.knot with headRuns := s.knot.headRuns, tight := s.knot.tight } =
          { s.knot with samples := holdInc 2622 s.knot.samples, sampleLeft := some 25 } ∧
        ∀ h : Fin 32, let watched := s.settings.fittedHeads.getLsbD h = true ∧ s.knot.tight.getLsbD h = false
          (¬ watched → t.knot.headRuns[h] = s.knot.headRuns[h] ∧ t.knot.tight.getLsbD h = s.knot.tight.getLsbD h) ∧
          (watched → lines.getLsbD h = false → t.knot.headRuns[h] = 0 ∧ t.knot.tight.getLsbD h = false) ∧
          (watched → lines.getLsbD h = true → t.knot.headRuns[h] = s.knot.headRuns[h] + 1 ∧
            (t.knot.tight.getLsbD h = true ↔ s.settings.headFilter ≤ s.knot.headRuns[h] + 1)))) ∧
    Completes .windowClose s (fun t => Only [.due, .channels, .knot] s t ∧ (∀ j : Fin 8, j ≠ 2 → t.channel j = s.channel j) ∧
      (s.knot.window ≠ .opened → t.knot = s.knot) ∧
      (s.knot.window = .opened → t.knot = { s.knot with
        window := .closed
        sampleLeft := none
        rowOutcome := .seen
        rowMissed := s.settings.fittedHeads &&& ~~~s.knot.tight }))

/-- A code read by the phase filter, the draw width capture, and the notices of RUNNING at the knot monitor (R15, R75, R78,
R91; log entries 4 and 14): the taken code drops the candidate, another becomes the candidate with its filter time begun,
and with a phase filter of 0 it is taken at once; the last draw width takes the capture of CH0, which is ARMED again; the
entry sets the mesh window WAITING, and the exit empties the history and the suspect set and ends the mesh window. -/
def Obligations.KnotFiltersCodesAndTakesNotices : Prop :=
  ∀ (code : BitVec 3) (capture : BitVec 24) (saturated : Bool) (s : State), s.begun = true → s.settings.knot = true →
    Completes (.phaseCandidate code) s (fun t =>
      Only [.due, .pins, .channels, .meter, .knot] s t ∧
      t.pins = (if .phaseCandidate code ∈ s.due then s.pins else { s.pins with phase := code }) ∧
      (s.knot.takenCode = some code → t.knot = { s.knot with candidate := none, filterTime := 0 }) ∧
      (s.knot.takenCode ≠ some code → s.settings.phaseFilter = 0 → t.knot.takenCode = some code ∧ t.knot.candidate = none) ∧
      (s.knot.takenCode ≠ some code → s.settings.phaseFilter ≠ 0 → s.knot.candidate = some code → t.knot = s.knot) ∧
      (s.knot.takenCode ≠ some code → s.settings.phaseFilter ≠ 0 → s.knot.candidate ≠ some code →
        t.knot = { s.knot with candidate := some code, filterTime := 0 })) ∧
    Completes (.drawWidthCapture capture saturated) s (fun t => Only [.due, .channels, .knot] s t ∧
      (∀ j : Fin 8, j ≠ 0 → t.channel j = s.channel j) ∧
      t.knot = { s.knot with drawWidth := capture, drawSaturated := saturated } ∧
      (s.due = [] → (s.channel 0).mode = some .width → (s.channel 0).state = .running → (s.channel 0).input ≠ .none →
        t.channel 0 = { s.channel 0 with
        state := .armed, count := 0, capture := capture, captureSaturated := decide (capture.toNat = 16777215) })) ∧
    Completes .knotRunningEntry s (fun t => Only [.due, .knot] s t ∧
      t.knot = { s.knot with runningView := true, mesh := .waiting }) ∧
    Completes .knotRunningExit s (fun t => Only [.due, .knot] s t ∧
      t.knot = { s.knot with
        runningView := false, history := [], suspects := 0, mesh := .idle, meshCounted := 0, meshRun := 0 })

/-! ### The floor line -/

/-- A whole frame (R98 to R101, R173; log entry 26), judged in the order of R100: a wrong check is counted, the node's own
frames and those of another group are discarded uncounted, an invalid one is counted, and an accepted one is counted and
handed to the peer list and to the owners of its kind: the halt and pace parts of a PRESENCE, HALT, RESUME, MARK with the
channels ARMED for its kind, a TALLY for this station, and each of the nine service requests for this station; a reply, and
a TALLY or request for another station, goes to the peer list only. A frame is valid (R180) where its kind is one of Table
10-3, the header bits shown as 0 are 0, it has a source, the destination and the reply flag suit the kind, the length is one
of the kind's, and the part flags of a PRESENCE or TALLY and the mark kind of a MARK agree with it. -/
def Obligations.FramesAreJudgedInOrder : Prop :=
  (∀ f : RawFrame,
    let kind := f.h0.toNat / 16
    let reply := f.h0.getLsbD 3
    let n := f.payload.length
    let b (i : Nat) := (f.payload.getD i 0)
    frameValid f = true ↔ 1 ≤ kind ∧ kind ≤ 14 ∧ f.h1.toNat < 32 ∧ f.h2.toNat < 32 ∧ f.h1 ≠ 0 ∧ (f.h2 = 0 ↔ kind ≤ 4) ∧
      (kind ≤ 5 → reply = false) ∧
      (kind = 1 → n = 9 + (if (b 0).getLsbD 2 = true then 6 else 0) + (if (b 0).getLsbD 1 = true then 2 else 0)) ∧
      (kind = 2 → n = 6) ∧ (kind = 3 → n = 1) ∧ (kind = 4 → n = 9 ∧ (b 0 = 1 ∨ b 0 = 2)) ∧
      (kind = 5 → ((b 5).getLsbD 7 = false ∨ (b 5).getLsbD 6 = false) ∧
        n = if (b 5).getLsbD 7 = true then 32 else if (b 5).getLsbD 6 = true then 39 else 7) ∧
      (kind = 6 → if reply = true then 2 ≤ n ∧ n ≤ 40 else n = 1) ∧
      (kind = 7 → if reply = true then n = 1 ∨ n = 34 else n = 5) ∧
      (kind = 8 → if reply = true then n = 1 ∨ n = 2 else n = 4) ∧ (kind = 9 → if reply = true then n = 2 else n = 1) ∧
      (kind = 10 → n = 1) ∧ (kind = 11 → if reply = true then n = 1 ∨ n = 5 else n = 2) ∧
      (kind = 12 → if reply = true then n = 2 else n = 33 ∨ n = 1) ∧ (kind = 13 → if reply = true then n = 1 else n = 4) ∧
      (kind = 14 → if reply = true then n = 1 else n = 0)) ∧
  ∀ (f : RawFrame) (s : State), s.startRec.started = true →
    Completes (.frameReceived f) s (fun t =>
      let l : FloorLine := { s.line with rx := RxState.hunt, idle := 0, idleSub := 0, taken := [], unseen := false }
      let good := crc (frameChecked f) = f.check
      let foreign := s.startRec.station ≠ 0 ∧ frameSource f ≠ s.startRec.station
      let grouped := s.begun = true → frameGroup f = s.settings.group ∨ frameGroup f = 0
      let kept := t.due = s.due.erase (.frameReceived f)
      let source := frameSource f
      let b := f.payload
      let heard : HeardFrame := {
        station := source, sequence := f.h3, presence := if frameKind f = 1 then some (presenceOf b) else none }
      let paced := s.begun = true ∧ source.val = s.settings.paceSource
      let asked := frameIsReply f = false ∧ frameDestination f = s.startRec.station
      Only [.due, .line] s t ∧
      (¬ good → t.line = { l with checkErrors := holdInc 65535 s.line.checkErrors } ∧ kept) ∧
      (good → ¬ foreign → t.line = l ∧ kept) ∧
      (good → foreign → ¬ grouped → t.line = l ∧ kept) ∧
      (good → foreign → grouped → frameValid f = false → t.line = { l with invalid := holdInc 65535 s.line.invalid } ∧ kept) ∧
      (good → foreign → grouped → frameValid f = true →
        t.line = { l with accepted := holdInc 65535 s.line.accepted } ∧ .peerListFrame heard ∈ t.due ∧
        (frameKind f = 1 → .presenceHaltPart source (presenceOf b).halt ∈ t.due ∧
          ∀ part, (presenceOf b).pace = some part → paced →
            (s.settings.twist = true → s.settings.follow = true → .pacePartToTwist part.v ∈ t.due) ∧
            (s.settings.driftCheck = true → .pacePartToMetering part.length ∈ t.due)) ∧
        (frameKind f = 2 → .haltFrame source (byteAt b 0) (byteAt b 1) (wordAt b 2) ∈ t.due) ∧
        (frameKind f = 3 → .resumeFrame source (byteAt b 0) ∈ t.due) ∧
        (frameKind f = 4 → byteAt b 0 = 1 → .markCutReceived source (wordAt b 1) ∈ t.due ∧
          ∀ i : Fin 8, (s.channel i).state = .armed → (s.channel i).trigger = .line .cut →
            .channelTrigger i (.line .cut) ∈ t.due) ∧
        (frameKind f = 4 → byteAt b 0 = 2 → .markSpliceReceived source ∈ t.due ∧
          ∀ i : Fin 8, (s.channel i).state = .armed → (s.channel i).trigger = .line .splice →
            .channelTrigger i (.line .splice) ∈ t.due) ∧
        (frameKind f = 5 → frameDestination f = s.startRec.station → .tallyReceived source (tallyOf b) ∈ t.due) ∧
        (frameKind f = 5 → frameDestination f ≠ s.startRec.station →
          t.due = s.due.erase (.frameReceived f) ++ [.peerListFrame heard]) ∧
        (6 ≤ frameKind f → ¬ asked → t.due = s.due.erase (.frameReceived f) ++ [.peerListFrame heard]) ∧
        (frameKind f = 6 → asked → .query source (byteAt b 0) ∈ t.due) ∧
        (frameKind f = 7 → asked → .recall source (wordAt b 0) (byteAt b 4) ∈ t.due) ∧
        (frameKind f = 8 → asked → .collected source (wordAt b 0) ∈ t.due) ∧
        (frameKind f = 9 → asked → .key source (byteAt b 0) ∈ t.due) ∧
        (frameKind f = 10 → asked → .erase source (byteAt b 0) ∈ t.due) ∧
        (frameKind f = 11 → asked → .check source (byteAt b 0) (byteAt b 1) ∈ t.due) ∧
        (frameKind f = 12 → asked → b = [0xFF] → .settingCommit source ∈ t.due) ∧
        (frameKind f = 12 → asked → b ≠ [0xFF] → .setting source (byteAt b 0) (b.drop 1) ∈ t.due) ∧
        (frameKind f = 13 → asked → .target source (wordAt b 0) ∈ t.due) ∧
        (frameKind f = 14 → asked → .clearflags source ∈ t.due)))

/-- The receiver without a frame, and the presence timer (R99, R103, R105; log entry 39): a frame broken by an idle leaves
HUNT and another broken frame PASS, each counted, and an idle of more than 15 bit times ends PASS; a start bit of another
station returns the idle count to 0, a byte on the line holds it there, and at its end the receiver takes it: the sync byte
after such an idle begins a frame, whatever its stop bit reads, and any other byte in HUNT leads to PASS; the bytes of a
frame are taken up to the second check byte, and a low stop bit or a length above 40 breaks the frame; an expiry hands the
queue a PRESENCE, merged into one already queued, and restarts with the interval of the permit state, and a notice of a new
permit state cuts a longer time to it. -/
def Obligations.ReceiverAndPresenceTimerAct : Prop :=
  (∀ (byIdle : Bool) (s : State), s.startRec.started = true →
      Completes (.brokenFrame byIdle) s (fun t => Only [.due, .line] s t ∧ t.line = { s.line with
        rx := if byIdle = true then RxState.hunt else RxState.pass
        idle := if byIdle = true then max 16 s.line.idle else 0
        idleSub := if byIdle = true then s.line.idleSub else 0
        taken := []
        unseen := false
        broken := holdInc 65535 s.line.broken }) ∧
      Completes .receiverEntersPass s (fun t => Only [.due, .line] s t ∧
        t.line = { s.line with rx := .pass, idle := 0, idleSub := 0, taken := [], unseen := false }) ∧
      Completes .passIdle s (fun t => Only [.due, .line] s t ∧
        (s.line.rx = .pass → t.line = { s.line with rx := .hunt, idle := max 16 s.line.idle }) ∧
        (s.line.rx ≠ .pass → t.line = s.line))) ∧
  (∀ (b : LineByte) (rest : List LineByte) (s : State), s.pending = [] → s.due = [] → s.waitingExpiry = none →
      s.startRec.started = true → s.line.tx ≠ .sending → s.world.line = b :: rest → ∃ t, step s = .next t ∧
        t.line.queue = s.line.queue ∧
        (s.line.byteLeft = none → b.wait = 0 → t.line.idle = 0 ∧ t.line.byteLeft = some 39 ∧ t.line.rx = s.line.rx ∧
          (t.line.began = true ↔ s.line.unseen = true ∨ 15 < s.line.idle)) ∧
        (s.line.byteLeft = none → b.wait ≠ 0 → t.line.byteLeft = none ∧
          t.line.idle = (if s.line.idleSub < 3 then s.line.idle else s.line.idle + 1)) ∧
        (∀ n, s.line.byteLeft = some n → 1 < n → t.line.byteLeft = some (n - 1) ∧ t.line.rx = s.line.rx ∧
          t.line.idle = s.line.idle) ∧
        (∀ n, s.line.byteLeft = some n → n ≤ 1 →
          let taken := s.line.taken ++ [b.value]
          let whole := 5 + (byteAt taken 4).toNat
          let inFrame := s.line.rx = .frame ∨ s.line.rx = .check
          let broken := b.stopLow = true ∨ (taken.length = 5 ∧ 40 < b.value.toNat)
          t.line.byteLeft = none ∧ t.world.line = rest ∧
          (s.line.rx = .hunt → s.line.began = true → b.value = 0xC3 → t.line.rx = .frame ∧ t.line.taken = []) ∧
          (s.line.rx = .hunt → s.line.began = false ∨ b.value ≠ 0xC3 → t.line.rx = .pass ∧ .receiverEntersPass ∈ t.due) ∧
          (s.line.rx = .pass → t.line.rx = .pass) ∧
          (inFrame → broken → t.line.rx = .pass ∧ .brokenFrame false ∈ t.due) ∧
          (inFrame → ¬ broken → taken.length < 5 ∨ taken.length < whole → t.line.rx = .frame ∧ t.line.taken = taken) ∧
          (inFrame → ¬ broken → 5 ≤ taken.length → taken.length = whole ∨ taken.length = whole + 1 →
            t.line.rx = .check ∧ t.line.taken = taken) ∧
          (inFrame → ¬ broken → 5 ≤ taken.length → taken.length = whole + 2 → t.line.rx = .hunt ∧ .frameReceived {
            h0 := byteAt taken 0, h1 := byteAt taken 1, h2 := byteAt taken 2, h3 := byteAt taken 3,
            payload := (taken.drop 5).take (byteAt taken 4).toNat,
            check := byteAt taken (whole) ++ byteAt taken (whole + 1) } ∈ t.due))) ∧
  (∀ (p : Permit) (left : Nat) (s : State), s.line.presenceLeft = some left →
      let interval (q : Permit) : Nat := if q = .running ∨ q = .halting then 250000 else 1000000
      Completes .presenceTimerExpiry s (fun t => Only [.due, .meter, .line] s t ∧
        t.line.presenceLeft = some (interval s.prot.permit) ∧
        (FrameContent.presence ∈ s.contents → t.contents = s.contents ∧ t.line.overruns = s.line.overruns) ∧
        (FrameContent.presence ∉ s.contents → Joined .presence s t)) ∧
      Completes (.permitStateNotice p) s (fun t => Only [.due, .line] s t ∧
        t.line = { s.line with presenceLeft := some (min left (interval p)) }))

/-- A withdraw request (R104): a queued HALT of the serial that is not on the line is removed and answered WITHDRAWN; one on
the line is marked, and its answer waits; with none queued the answer is SENT. -/
def Obligations.WithdrawRequestIsAnswered : Prop :=
  ∀ (serial : Byte) (s : State),
    Completes (.withdrawRequest serial) s (fun t => Only [.due, .meter, .line] s t ∧
      ((∀ f ∈ s.line.queue, isHaltOf serial f = false) → t.line = s.line ∧ .withdrawAnswer true serial ∈ t.due) ∧
      (∀ f, s.line.queue.find? (isHaltOf serial) = some f → f.onLine = false →
        t.contents = (s.line.queue.eraseP (isHaltOf serial)).map QueuedFrame.content ∧ .withdrawAnswer false serial ∈ t.due) ∧
      (∀ f, s.line.queue.find? (isHaltOf serial) = some f → f.onLine = true →
        t.contents = s.contents ∧ (∃ g ∈ t.line.queue, isHaltOf serial g = true ∧ g.onLine = true ∧ g.withdrawn = true) ∧
        t.due = s.due.erase (.withdrawRequest serial)))

/-- The transmitter joins the line and begins an attempt (R29, R97, R98, R105, R106, R108, R175, R176, Tables 10-2 to 10-7;
log entry 25): in STARTING the presence timer starts, and the state becomes READY with nothing queued, else GAP or, once the
gap is reached, SENDING; an attempt begins in GAP once the idle count has reached the head frame's gap, 24 + 4 × ((s + a)
mod 4) bit times for an urgent frame of attempt count a at station s and 40 + 10 × ((3 × s + 5 × a) mod 16) for a routine
one, and not before; it marks the head frame, gives it the node's sequence number if it has none, and sends the sync byte,
the four header bytes, the length, the payload of its kind as the node stands in this event, and the check over all but the
sync byte. The pace part of a PRESENCE that begins at a negative line length sets RNG with origin CONVERT, and no other
begin sets a flag. The pages of a STATUS reply carry the values of Table 10-2 as R176 codes them; that page 3 has no byte
for ANY, that classes, stopped timers, empty places and values set and clear are carried as here, and that VOID-MARK is
coded while its step runs, is the model's choice (log entry 7), and so are the rounding of a remaining time to whole ms (log
entry 3) and the place of the anchor (log entry 42). -/
def Obligations.TransmitterJoinsAndSends : Prop :=
  (∀ s : State,
    let page (n : Nat) := pageContent s n
    let yes (b : Bool) : Byte := if b = true then 1 else 0
    let one (n : Nat) : Byte := BitVec.ofNat 8 n
    let zero (k : Nat) (v : Option Nat) := bytesBE k (v.getD 0)
    let ones (k : Nat) (v : Option Nat) : List Byte := match v with
      | some n => bytesBE k n
      | none => List.replicate k 0xFF
    let ms (v : Option Nat) := v.map (fun us => (us + 999) / 1000)
    let places (l : List StoreOp) : List Byte :=
      (l.take 4).map (fun o => one o.code) ++ List.replicate (4 - (l.take 4).length) 0xFF
    let count (c : SectorClass) := one (s.store.table.filter (fun e => e.cls == c)).length
    let k := s.knot
    let p := s.prot
    let l := s.line
    page 0 = bytesBE 2 Config.vendorCode.toNat ++ bytesBE 2 Config.partCode.toNat ++ [Config.revision] ++
      bytesBE 4 Config.serialNumber.toNat ++ [one s.startRec.station.val, yes s.startRec.commission,
        yes s.startRec.settingsValid, one s.settings.group, if s.begun = true then one ((if s.settings.twist = true then 128 else 0) +
          (if s.settings.knot = true then 64 else 0) + (if s.settings.coil = true then 32 else 0)) else 0, one p.permit.code] ++
      bytesBE 3 (causeSet p.causes).toNat ++ [one (coilStateCode s.coil.openSlot)] ++ bytesBE 4 s.currentCoil.toNat ++
      [one s.store.key.code, one ((s.store.keyStation.map Fin.val).getD 0), yes s.store.inFlight.isSome, yes s.store.full,
        yes s.store.fault] ∧
    (∀ (n : Nat) (g : EncoderSettings) (e : EncoderRecord),
      (n = 1 ∧ g = s.settings.encA ∧ e = s.meter.encA) ∨ (n = 2 ∧ g = s.settings.encB ∧ e = s.meter.encB) →
      page n = [yes g.enabled] ++ intBE 5 e.length ++ bytesBE 2 e.residue ++ [one e.errors, yes e.limitReached] ++
        bytesBE 3 g.n ++ bytesBE 2 g.d) ∧
    (∀ i : Fin 4,
      let g := s.settings.spindles[i]
      let e := s.spindle i
      let u := e.stats
      page (12 + i.val) = [yes g.fitted, yes e.windowOpen, one e.turns] ++ intBE 5 e.startLength ++ zero 3 e.lastLay ++
        [one e.lastClass.code, one e.bandRun, one e.stallRun] ++ bytesBE 3 e.bandLow ++ bytesBE 4 e.bandHigh ∧
      page (16 + i.val) = bytesBE 4 u.windows ++ bytesBE 4 u.within ++ bytesBE 4 u.below ++ bytesBE 4 u.above ++
        bytesBE 4 u.stalled ++ bytesBE 4 u.layFaults ++ zero 3 u.minLay ++ zero 3 u.maxLay ++ bytesBE 7 u.sumLay ∧
      page (33 + i.val) = ((k.history.drop (4 * i.val)).take 4).flatMap (fun r => bytesBE 4 r.number ++
        bytesBE 4 r.missed.toNat ++ [one ((if r.short = true then 2 else 0) + (if r.unseen = true then 1 else 0))])) ∧
    page 20 = [yes s.settings.follow] ++ zero 3 s.twist.halfPeriod ++ [yes s.twist.flowing, one s.twist.condition.code] ∧
    page 21 = [yes s.sampler.position.isSome] ++ ones 1 (s.sampler.position.map Fin.val) ++ bytesBE 2 s.sampler.overruns ++
      bytesBE 2 s.settings.scanPeriod ∧
    (∀ i : Fin 8,
      let g := s.settings.scan[i]
      let e := s.sampler.entries[i]
      page (22 + i.val) = [one g.input, one g.mode.code] ++ bytesBE 2 g.lowLimit ++ bytesBE 2 g.highLimit ++
        [one g.filterCount, yes g.protect, yes g.blankInTie] ++ bytesBE 2 e.result ++ [one e.filterRun, yes e.tripped] ++
        bytesBE 2 e.tripCount ++ ones 2 e.tripValue ++ [yes e.locked] ∧
      page (55 + i.val) = ((p.table.drop (4 * i.val)).take 4).flatMap (fun h => [one h.station.val, h.cause, h.serial] ++
        ones 4 (h.length.map BitVec.toNat) ++ [if h.byHalt = true then 0 else 1]) ∧
      ∀ slot ∈ [(64, s.coil.openSlot), (72, s.coil.closingSlot), (80, s.coil.heldSlot)],
        (slot.2 = none → page (slot.1 + i.val) = [0xFF]) ∧
        (∀ r, slot.2 = some r →
          let q : CoilRecord := if r.state = .sealing ∨ r.state = .held then r else { r with
            flags := r.flags.union s.meter.flags
            contributors := r.contributors.map (fun c =>
              if c.station = s.startRec.station then { c with flags := s.meter.flags, origin := one s.meter.origin.code } else c) }
          page (slot.1 + i.val) = [one r.state.code, yes r.heldBack] ++ (((recordBytes q).drop (32 * i.val)).take 32) ++
            (if i = 0 then zero 1 r.anchor else []))) ∧
    page 30 = ones 1 (k.takenCode.map BitVec.toNat) ++ ones 1 (k.takenSector.map Sector.code) ++ bytesBE 2 k.phaseFaults ++
      [yes k.rowValid, one k.rowOutcome.code] ++ bytesBE 4 k.rowCounter ++ [one k.window.code] ++ bytesBE 2 k.samples ++
      bytesBE 3 k.drawWidth.toNat ++ [yes k.drawSaturated] ++ bytesBE 4 k.suspects.toNat ∧
    page 31 = [one k.mesh.code] ++ intBE 5 k.meshStart ++ [one k.meshCounted] ++ zero 3 k.lastMesh ++ bytesBE 3 k.meshLow ++
      bytesBE 4 k.meshHigh ++ [one k.meshRun] ∧
    page 32 = bytesBE 4 k.stats.sampledRows ++ bytesBE 4 k.stats.unseenRows ++ bytesBE 4 k.stats.inchRows ++
      bytesBE 4 k.stats.missedKnots ++ bytesBE 4 k.stats.headFaults ++ bytesBE 4 k.stats.meshWindows ++
      bytesBE 4 k.stats.meshOutOfBand ++ bytesBE 4 k.stats.meshFaults ∧
    page 37 = [one l.tx.code, one l.queue.length] ++ l.queue.flatMap (fun f => [if f.urgent = true then 0 else 1, one f.attempts]) ++
      [l.counter] ++ bytesBE 2 l.accepted ++ bytesBE 2 l.broken ++ bytesBE 2 l.checkErrors ++ bytesBE 2 l.invalid ++
      bytesBE 2 l.sent ++ bytesBE 2 l.collisions ++ bytesBE 2 l.drops ++ bytesBE 2 l.overruns ∧
    (∀ i, i < 16 → (s.peers[i]? = none → page (38 + i) = []) ∧
      ∀ e, s.peers[i]? = some e → page (38 + i) = [one e.station.val, e.roles, e.permit] ++ bytesBE 3 e.causes.toNat ++
        bytesBE 4 e.coil.toNat ++ ones 2 (e.pace.map (fun x => x.v.toNat)) ++ ones 4 (e.pace.map (fun x => x.length.toNat)) ++
        (match e.halt with
          | some h => [h.serial, h.cause]
          | none => [0, 0]) ++ [e.sequence, if e.heard = true then 0 else 1] ++ bytesBE 2 (e.age / 1000)) ∧
    page 54 = [one p.permit.code] ++ bytesBE 3 (causeSet p.causes).toNat ++ [one p.serial, one p.episode.code] ++
      zero 1 (p.latest.map Cause.code) ++ zero 1 p.sentSerial ++ [one p.outstanding, yes p.eligible] ++ ones 2 (ms p.haltLeft) ++
      [yes p.coilHold, yes p.supplyWarning, yes (p.permit == .running), yes (p.permit != .running), yes p.lamp.lit,
        if p.blinkLeft = none then one p.lamp.pattern.code else 3] ∧
    page 63 = [one (coilStateCode s.coil.openSlot)] ++ zero 4 s.coil.next ++ bytesBE 4 s.coil.pendingTarget ++
      ones 1 (ms s.coil.restLeft) ++ ones 2 (ms s.coil.cutLeft) ++ (if s.settings.coil = true then [] else
        [yes s.coil.tally.begun] ++ intBE 5 s.coil.tally.startLength ++ [one s.coil.tally.halts] ++
          bytesBE 4 s.coil.tally.lastCoil.toNat ++ bytesBE 4 s.coil.tally.lastSegment) ∧
    page 88 = [yes s.store.inFlight.isSome, yes s.store.full, yes s.store.fault, yes (!s.store.wrap), one s.store.pointer] ++
      ones 1 (s.store.inFlight.map (fun f => match f.step with
        | .void _ => 2
        | _ => f.op.code)) ++ places s.store.waiting ++ places (s.store.waiting.drop 4) ++
      [one s.store.key.code, one ((s.store.keyStation.map Fin.val).getD 0), count .erased, count .openOnly, count .sealed,
        count .lost, count .void, count .damaged, one (s.store.table.filter (fun e => e.collected)).length] ++
      bytesBE 2 s.store.addressErrors ++ bytesBE 2 s.store.dataErrors) ∧
  [Permit.unset, .standby, .running, .halting, .halted].map Permit.code = [0, 1, 2, 3, 4] ∧
  [none, some RunMode.interval, some .count, some .period, some .width, some .delay, some .pulse].map modeCode =
    [0, 1, 2, 3, 4, 5, 6] ∧
  [ChannelState.idle, .armed, .running, .driving].map ChannelState.code = [0, 1, 2, 3] ∧
  [LayClass.none, .within, .below, .above, .stalled].map LayClass.code = [0, 1, 2, 3, 4] ∧
  [PaceCondition.tracking, .holding, .lost].map PaceCondition.code = [0, 1, 2] ∧
  [ScanMode.off, .low, .high, .band].map ScanMode.code = [0, 1, 2, 3] ∧
  [Sector.s0, .s1, .s2, .s3, .s4, .s5].map Sector.code = [0, 1, 2, 3, 4, 5] ∧
  [RowOutcome.none, .seen, .short, .unseen].map RowOutcome.code = [0, 1, 2, 3] ∧
  [WindowState.idle, .pending, .opened, .closed].map WindowState.code = [0, 1, 2, 3] ∧
  [MeshState.idle, .waiting, .opened].map MeshState.code = [0, 1, 2] ∧
  [TxState.quiet, .starting, .ready, .gap, .sending].map TxState.code = [0, 1, 2, 3, 4] ∧
  [Episode.quiet, .standing, .closing].map Episode.code = [0, 1, 2] ∧
  [AlarmPattern.dark, .steady, .flashing].map AlarmPattern.code = [0, 1, 2] ∧
  [RecordState.opened, .ending, .cutting, .ended, .gathering, .sealing, .held].map RecordState.code = [0, 1, 2, 3, 4, 5, 6] ∧
  [KeyState.locked, .half, .opened, .frozen].map KeyState.code = [0, 1, 2, 3] ∧
  ∀ s : State,
    let gap (f : QueuedFrame) := if f.urgent = true then 24 + 4 * ((s.startRec.station.val + f.attempts) % 4)
      else 40 + 10 * ((3 * s.startRec.station.val + 5 * f.attempts) % 16)
    let paced := s.begun = true ∧ s.settings.pacePublish = true
    let measured (f : QueuedFrame) (t : State) :=
      { t.meter with flags := s.meter.flags, origin := s.meter.origin } = s.meter ∧
      (f.content = .presence → paced → s.lineLength < 0 → Flagged .rng .convert s t) ∧
      (f.content ≠ .presence ∨ ¬ paced ∨ 0 ≤ s.lineLength → Unflagged s t)
    Completes .transmitterJoin s (fun t => Only [.due, .meter, .line] s t ∧
      (s.line.tx ≠ .starting → t.line = s.line ∧ t.meter = s.meter) ∧
      (s.line.tx = .starting → t.line.presenceLeft = some 0 ∧ .presenceTimerExpiry ∈ t.due ∧ t.contents = s.contents ∧
        (s.line.queue = [] → t.line.tx = .ready ∧ t.meter = s.meter) ∧
        (∀ f rest, s.line.queue = f :: rest → gap f ≤ max 40 s.line.idle → t.line.tx = .sending ∧ measured f t) ∧
        (∀ f rest, s.line.queue = f :: rest → max 40 s.line.idle < gap f → t.line.tx = .gap ∧ t.meter = s.meter))) ∧
    Completes .attemptBegin s (fun t => Only [.due, .meter, .line] s t ∧
      (s.line.tx ≠ .gap → t.line = s.line ∧ t.meter = s.meter) ∧
      (∀ f rest, s.line.queue = f :: rest → s.line.idle < gap f → t.line = s.line ∧ t.meter = s.meter) ∧
      ∀ f rest, s.line.tx = .gap → s.line.queue = f :: rest → gap f ≤ s.line.idle →
        let number := f.sequence.getD s.line.counter
        let queue : List QueuedFrame := { f with sequence := some number, onLine := true } :: rest
        let counter := if f.sequence = none then s.line.counter + 1 else s.line.counter
        let began : State := { s with due := s.due.erase .attemptBegin, line := { s.line.startBit with
          tx := .sending, counter := counter, queue := queue } }
        let c := f.content
        let group := if s.begun = true then s.settings.group else 0
        let payload := c.payload began
        let body : List Byte := [BitVec.ofNat 8 (16 * c.kindCode + (if c.isReply = true then 8 else 0) + group),
          BitVec.ofNat 8 s.startRec.station.val, BitVec.ofNat 8 c.destination.val, number,
          BitVec.ofNat 8 payload.length] ++ payload
        let mask := (if s.begun = true ∧ s.settings.twist = true then 128 else 0) +
          (if s.begun = true ∧ s.settings.knot = true then 64 else 0) +
          (if s.begun = true ∧ s.settings.coil = true then 32 else 0)
        measured f t ∧ t.line.tx = .sending ∧ t.line.queue = queue ∧ t.line.counter = counter ∧ t.line.idle = 0 ∧
        t.line.sending = [0xC3] ++ body ++ bytesBE 2 (crc body).toNat ∧ t.line.sendLeft = some (40 * t.line.sending.length) ∧
        (c = .presence → c.kindCode = 1 ∧ c.isReply = false ∧ c.destination = 0 ∧ payload =
          [BitVec.ofNat 8 (mask + (if paced then 16 else 0) + (if s.meter.reverse = true then 8 else 0) +
              (if paced then 4 else 0) + (if s.prot.episode = .standing then 2 else 0)),
            BitVec.ofNat 8 s.prot.permit.code] ++
          bytesBE 3 (causeSet s.prot.causes).toNat ++ bytesBE 4 s.currentCoil.toNat ++
          (if paced then bytesBE 2 (s.meter.speed % 65536) ++ bytesBE 4 (s.lineLength.toNat / 1000 % 4294967296) else []) ++
          (if s.prot.episode = .standing then
            [BitVec.ofNat 8 s.prot.serial, (s.prot.latest.map Cause.byte).getD 0] else [])) ∧
        (∀ d n l, c = .halt d n l → c.kindCode = 2 ∧ c.isReply = false ∧ c.destination = 0 ∧
          payload = [d, n] ++ bytesBE 4 l.toNat) ∧
        (∀ n, c = .resume n → c.kindCode = 3 ∧ c.isReply = false ∧ c.destination = 0 ∧ payload = [n]) ∧
        (∀ k n l, c = .mark k n l → c.kindCode = 4 ∧ c.isReply = false ∧ c.destination = 0 ∧
          payload = [if k = .cut then 1 else 2] ++ bytesBE 4 n.toNat ++ bytesBE 4 l.toNat) ∧
        (∀ d y, c = .tally d y → c.kindCode = 5 ∧ c.isReply = false ∧ c.destination = d ∧
          payload = bytesBE 4 y.coil.toNat ++ [y.halts, BitVec.ofNat 8 ((if y.twist.isSome = true then 128 else 0) +
              (if y.knot.isSome = true then 64 else 0) + (if y.flags.ovf = true then 8 else 0) +
              (if y.flags.unf = true then 4 else 0) + (if y.flags.dvz = true then 2 else 0) +
              (if y.flags.rng = true then 1 else 0)), y.origin] ++
            (match y.twist with
              | some u => bytesBE 4 u.windows ++ bytesBE 4 u.outOfBand ++ bytesBE 4 u.stalled ++ bytesBE 4 u.layFaults ++
                bytesBE 3 (u.minLay.getD 0) ++ bytesBE 3 (u.maxLay.getD 0) ++ bytesBE 3 (u.meanLay.getD 0)
              | none => []) ++
            (match y.knot with
              | some u => bytesBE 4 u.sampledRows ++ bytesBE 4 u.unseenRows ++ bytesBE 4 u.inchRows ++
                bytesBE 4 u.missedKnots ++ bytesBE 4 u.headFaults ++ bytesBE 4 u.meshWindows ++
                bytesBE 4 u.meshOutOfBand ++ bytesBE 4 u.meshFaults
              | none => [])) ∧
        (∀ kind d b, c = .reply kind d b → c.kindCode = kind.code ∧ c.isReply = true ∧ c.destination = d ∧ payload = b) ∧
        (∀ d page, c = .status d page → c.kindCode = 6 ∧ c.isReply = true ∧ c.destination = d ∧
          (page.toNat ≤ 88 → payload = [0, page] ++ pageContent began page.toNat) ∧
          (88 < page.toNat → payload = [5, page]) ∧
          (page = 3 → payload = [0, 3] ++ intBE 5 s.lineLength ++ bytesBE 2 s.meter.speed ++
            [if s.meter.reverse = true then 1 else 0, if s.meter.atRest = true then 1 else 0] ++ bytesBE 2 s.meter.lastSlip ++
            [BitVec.ofNat 8 s.meter.slipRun] ++ bytesBE 2 s.meter.lastDrift ++ [BitVec.ofNat 8 s.meter.driftRun,
              if s.meter.flags.ovf = true then 1 else 0, if s.meter.flags.unf = true then 1 else 0,
              if s.meter.flags.dvz = true then 1 else 0, if s.meter.flags.rng = true then 1 else 0,
              BitVec.ofNat 8 s.meter.origin.code]) ∧
          (∀ i : Fin 8, page.toNat = 4 + i.val → payload = [0, page, BitVec.ofNat 8 (modeCode (s.channel i).mode),
              BitVec.ofNat 8 (s.channel i).state.code] ++ bytesBE 3 (s.channel i).reload.toNat ++
            bytesBE 3 (s.channel i).capture.toNat ++ [if (s.channel i).captureSaturated = true then 1 else 0])))

/-- The end of an attempt (R99, R104, R106, R107; log entries 3 and 39): a success removes the frame and counts it sent,
with the receiver in HUNT; a collision is counted and removes a frame marked for withdrawal, keeps one of fewer than 8
attempts with one attempt more, and drops the others, a HALT with LINE raised. A withdrawn HALT is answered. The receiver
takes the byte at which the collision is found as it takes any: in HUNT a sync byte begins a frame, whatever its stop bit
reads, and another byte leads to PASS uncounted; in a frame a low stop bit breaks it, the second check byte ends it, and a
byte inside it leaves it for the idle to break. As time ends a byte, a reading of it that differs from the byte sent, or
whose stop bit is low, makes a collision due; with none, or with one that reads as it was sent, the attempt goes on, and its
last byte makes the success due. -/
def Obligations.AttemptsSucceedOrCollide : Prop :=
  ∀ (f : QueuedFrame) (s : State), s.line.tx = .sending → s.line.queue.find? QueuedFrame.onLine = some f →
    let left := s.line.queue.eraseP QueuedFrame.onLine
    let idleState (q : List QueuedFrame) : TxState := if q = [] then .ready else .gap
    let remaining : Surroundings := { s.world with readings := s.world.readings.drop 1 }
    let differs (good : Nat) (value : Byte) (stopLow : Bool) := stopLow = true ∨ s.line.sending[good]? ≠ some value
    (s.pending = [] → s.due = [] → s.waitingExpiry = none → s.startRec.started = true →
      ∀ left, s.line.sendLeft = some (left + 1) → left < 40 * s.line.sending.length → ∃ t, step s = .next t ∧
        t.line.sendLeft = some left ∧ t.line.tx = .sending ∧ t.line.queue = s.line.queue ∧ t.world.readings = s.world.readings ∧
        (left % 40 = 0 → ∀ good value stopLow rest, s.world.readings = some ⟨good, value, stopLow⟩ :: rest →
          good + left / 40 + 1 = s.line.sending.length → differs good value stopLow → .collision ∈ t.due) ∧
        (left = 0 → (∀ good value stopLow rest, s.world.readings = some ⟨good, value, stopLow⟩ :: rest →
          good + 1 ≠ s.line.sending.length ∨ ¬ differs good value stopLow) → .attemptSuccess ∈ t.due)) ∧
    Completes .attemptSuccess s (fun t => Only [.due, .line, .world] s t ∧ t.world = remaining ∧ t.line.queue = left ∧
      t.line.tx = idleState left ∧ t.line.rx = .hunt ∧ t.line.taken = [] ∧
      t.line.sent = holdInc 65535 s.line.sent ∧ t.line.collisions = s.line.collisions ∧ t.line.idle = 0 ∧
      (∀ c n l, f.withdrawn = true → f.content = .halt c n l → .withdrawAnswer true n ∈ t.due) ∧
      (f.withdrawn = false → t.due = s.due.erase .attemptSuccess)) ∧
    Completes .collision s (fun t => Only [.due, .line, .world] s t ∧ t.world = remaining ∧ t.line.sent = s.line.sent ∧
      t.line.collisions = holdInc 65535 s.line.collisions ∧ t.line.idle = 0 ∧ t.line.tx = idleState t.line.queue ∧
      t.line.broken = s.line.broken ∧ t.line.checkErrors = s.line.checkErrors ∧
      (f.withdrawn = true → t.line.queue = left ∧ t.line.drops = s.line.drops ∧
        ∀ c n l, f.content = .halt c n l → .withdrawAnswer false n ∈ t.due) ∧
      (f.withdrawn = false → f.attempts < 7 → t.line.drops = s.line.drops ∧ t.line.queue = s.line.queue.map (fun g =>
        if g.onLine = true then { g with attempts := g.attempts + 1, onLine := false } else g)) ∧
      (f.withdrawn = false → 7 ≤ f.attempts → t.line.queue = left ∧ t.line.drops = holdInc 65535 s.line.drops ∧
        ∀ c n l, f.content = .halt c n l → .raiseCause .lineFailed ∈ t.due) ∧
      (∀ good value stopLow, (∃ rest, s.world.readings = some ⟨good, value, stopLow⟩ :: rest ∧ good ≤ s.line.bytesEnded ∧
            differs good value stopLow) ∨ ((∀ g v l rest, s.world.readings = some ⟨g, v, l⟩ :: rest → ¬ differs g v l) ∧
            good = s.line.bytesEnded ∧ value = ~~~ byteAt s.line.sending good ∧ stopLow = false) →
        let taken := s.line.taken ++ [value]
        let whole := 5 + (byteAt taken 4).toNat
        let inFrame := s.line.rx = .frame ∨ s.line.rx = .check
        let broken := stopLow = true ∨ (taken.length = 5 ∧ 40 < value.toNat)
        (s.line.rx = .hunt → s.line.began = true → value = 0xC3 → t.line.rx = .frame ∧ t.line.taken = []) ∧
        (s.line.rx = .hunt → s.line.began = false ∨ value ≠ 0xC3 → t.line.rx = .pass ∧ .receiverEntersPass ∈ t.due) ∧
        (inFrame → broken → t.line.rx = .pass ∧ .brokenFrame false ∈ t.due) ∧
        (inFrame → ¬ broken → taken.length < 5 ∨ taken.length < whole → t.line.rx = .frame ∧ t.line.taken = taken) ∧
        (inFrame → ¬ broken → 5 ≤ taken.length → taken.length = whole + 2 → t.line.rx = .hunt ∧ .frameReceived {
          h0 := byteAt taken 0, h1 := byteAt taken 1, h2 := byteAt taken 2, h3 := byteAt taken 3,
          payload := (taken.drop 5).take (byteAt taken 4).toNat,
          check := byteAt taken whole ++ byteAt taken (whole + 1) } ∈ t.due)))

/-- The peer list (R109, R110; that an entry takes the bytes of a PRESENCE as they came, also outside their ranges, is the
model's choice: log entry 47): an accepted frame refreshes its station's entry, and a PRESENCE of a station without one adds
it while fewer than 16 are held, or in place of the SILENT entry unheard for the longest time in ms; with no entry SILENT the
pace source takes the place of the entry unheard for the longest, the lowest station giving way among equal times, and any
other station adds none; an ageing step that was due for the station of an entry refreshed or added is so no more; ageing
makes a HEARD entry SILENT and removes a SILENT one. No other entry changes, and the twist monitor hears of its pace source.
-/
def Obligations.PeersAreHeardAndAge : Prop :=
  ∀ (f : HeardFrame) (s : State),
    (s.station ≠ 0 → f.station ≠ 0 → f.station ≠ s.station →
      Completes (.peerListFrame f) s (fun t => Only [.due, .peers] s t ∧
        (∀ p, s.peer f.station = some p → (∀ q : Station, q ≠ f.station → t.peer q = s.peer q) ∧
          (f.presence = none → t.peer f.station = some { p with sequence := f.sequence, heard := true, age := 0 }) ∧
          (∀ i, f.presence = some i → t.peer f.station = some (peerOf f.station f.sequence i)) ∧
          (p.heard = false → s.isPaceSource f.station = true → s.follows = true → .paceSourceHeard ∈ t.due)) ∧
        (∀ i, s.peer f.station = none → f.presence = some i → s.peers.length < 16 →
          (∀ q : Station, q ≠ f.station → t.peer q = s.peer q) ∧
          t.peer f.station = some (peerOf f.station f.sequence i) ∧
          (s.isPaceSource f.station = true → s.follows = true → .paceSourceHeard ∈ t.due)) ∧
        (∀ i p, s.peer f.station = none → f.presence = some i → 16 ≤ s.peers.length → p ∈ s.peers →
          p.heard = false ∨ ((∀ q ∈ s.peers, q.heard = true) ∧ s.isPaceSource f.station = true) →
          (∀ q ∈ s.peers, q.heard = p.heard → q.age / 1000 < p.age / 1000 ∨
            (q.age / 1000 = p.age / 1000 ∧ p.station ≤ q.station)) →
          t.peer f.station = some (peerOf f.station f.sequence i) ∧ t.peer p.station = none ∧
          (∀ q : Station, q ≠ f.station → q ≠ p.station → t.peer q = s.peer q) ∧
          (s.isPaceSource f.station = true → s.follows = true → .paceSourceHeard ∈ t.due)) ∧
        (∀ i, s.peer f.station = none → f.presence = some i → 16 ≤ s.peers.length → s.isPaceSource f.station = false →
          (∀ p ∈ s.peers, p.heard = true) → t.peers = s.peers) ∧
        (t.peer f.station ≠ none → .peerAgeing f.station ∉ t.due) ∧
        (s.peer f.station = none → f.presence = none → t.peers = s.peers))) ∧
    Completes (.peerAgeing f.station) s (fun t => Only [.due, .peers] s t ∧
      (∀ q : Station, q ≠ f.station → t.peer q = s.peer q) ∧ (s.peer f.station = none → t.peers = s.peers) ∧
      (∀ p, s.peer f.station = some p → p.heard = false → t.peer f.station = none) ∧
      (∀ p, s.peer f.station = some p → p.heard = true →
        t.peer f.station = some { p with heard := false, age := max 3000000 p.age } ∧
        (s.isPaceSource f.station = true → s.follows = true → .paceSourceSilent ∈ t.due)))

/-! ### Protection -/

/-- A request to raise a cause, STOP, and BREAK opening (R29, R102, R115, R117, R118, R121, R124, R126, R127): the cause
joins the set; a group-wide one issues a HALT of the next serial, whose length sets RNG with origin CONVERT where it is
negative, queued after the last urgent frame where there is room, in a queue of 8 in place of the youngest routine frame not
on the line, and discarded with LINE to be raised where there is none, either counted as an overrun; it asks for the
withdrawal of a standing one; RUNNING goes to HALTING, and on to HALTED at rest, STANDBY to HALTED; out of RUNNING a
latching cause ends eligibility; the coil builder has its notice. A cause that is present changes nothing. (Withdrawals
outstanding has no upper bound in the model: log entry 1.) -/
def Obligations.RaisedCausesActInOrder : Prop :=
  ∀ (c : Cause) (e : Instr) (s : State), s.begun = true →
    e = .raiseCause c ∨ (e = .stop ∧ c = .operator) ∨ (e = .breakOpen ∧ c = .breakChain) →
    let joined (q : List QueuedFrame) (t : State) := (q.takeWhile QueuedFrame.urgent).map QueuedFrame.content ++
      [FrameContent.halt c.byte (BitVec.ofNat 8 t.prot.serial) (mmField s.lineLength)] ++
      (q.dropWhile QueuedFrame.urgent).map QueuedFrame.content
    Completes e s (fun t =>
      Only [.due, .pins, .meter, .line, .prot] s t ∧
      t.pins = (if e = .breakOpen then { s.pins with breakOpen := true } else s.pins) ∧
      (c ∈ s.prot.causes → t.prot = s.prot ∧ t.line = s.line ∧ t.meter = s.meter ∧ t.due = s.due.erase e) ∧
      (c ∉ s.prot.causes →
        (∀ d : Cause, d ∈ t.prot.causes ↔ d = c ∨ d ∈ s.prot.causes) ∧ t.prot.table = s.prot.table ∧
        t.prot.coilHold = s.prot.coilHold ∧ t.prot.supplyWarning = s.prot.supplyWarning ∧
        { t.meter with flags := s.meter.flags, origin := s.meter.origin } = s.meter ∧
        (c.groupWide = true → s.lineLength < 0 → Flagged .rng .convert s t) ∧
        (c.groupWide = false ∨ 0 ≤ s.lineLength → Unflagged s t) ∧
        (c.groupWide = true → t.prot.serial = (if s.prot.serial = 255 then 1 else s.prot.serial + 1) ∧
          t.prot.latest = some c ∧ t.prot.episode = .standing ∧
          (s.line.queue.length < 8 → t.line.overruns = s.line.overruns ∧ t.contents = joined s.line.queue t) ∧
          (∀ before f after, s.line.queue = before ++ f :: after → 8 ≤ s.line.queue.length →
            f.urgent = false → f.onLine = false → (∀ g ∈ after, g.urgent = true ∨ g.onLine = true) →
            t.line.overruns = holdInc 65535 s.line.overruns ∧ t.contents = joined (before ++ after) t) ∧
          (8 ≤ s.line.queue.length → (∀ g ∈ s.line.queue, g.urgent = true ∨ g.onLine = true) →
            t.line.overruns = holdInc 65535 s.line.overruns ∧ t.contents = s.contents ∧ .raiseCause .lineFailed ∈ t.due) ∧
          (s.prot.episode = .quiet → t.prot.sentSerial = none ∧ t.prot.outstanding = s.prot.outstanding) ∧
          (s.prot.episode = .standing → t.prot.outstanding = s.prot.outstanding + 1 ∧
            .withdrawRequest (BitVec.ofNat 8 s.prot.serial) ∈ t.due)) ∧
        (c.groupWide = false → t.prot.serial = s.prot.serial ∧ t.prot.latest = s.prot.latest ∧
          t.prot.episode = s.prot.episode ∧ t.line = s.line) ∧
        (s.prot.permit = .standby → t.prot.permit = .halted) ∧
        (s.prot.permit = .running → s.meter.atRest = false → t.prot.permit = .halting ∧
          t.prot.eligible = (s.settings.autoResume && !c.latching) ∧
          t.prot.haltLeft = some (s.settings.haltTimeout * 1000000)) ∧
        (s.prot.permit = .running → s.meter.atRest = true → t.prot.permit = .halted ∧ t.prot.haltLeft = none) ∧
        (s.prot.permit = .running → .samplerRunningExit ∈ t.due ∧ .twistRunningExit ∈ t.due ∧ .knotRunningExit ∈ t.due) ∧
        (s.prot.permit = .halting ∨ s.prot.permit = .halted → t.prot.permit = s.prot.permit ∧
          t.prot.eligible = (s.prot.eligible && !c.latching)) ∧
        .reasonNotice c.byte s.station (s.prot.permit == .running) ∈ t.due ∧ (c = .supply → .supplyNotice ∈ t.due)))

/-- A request to clear a cause and the answers to the questions of ALARM-RESET (R72, R115, R119, R123, R128): the cause
leaves the set; with no group-wide cause left a STANDING episode closes with a withdraw request, and with one left it stays
STANDING; in HALTED the last reason's going leads to STANDBY, or to RUNNING or the hold where the node is eligible. An
absent cause, and an answer that denies, changes nothing. (Withdrawals outstanding has no upper bound in the model: log
entry 1.) -/
def Obligations.ClearedCausesActInOrder : Prop :=
  ∀ (c : Cause) (e : Instr) (s : State),
    (e = .tensionAnswer false ∨ e = .cutEndedAnswer false ∨ e = .heldBackAnswer true →
      Completes e s (fun t => Only [.due] s t ∧ t.due = s.due.erase e)) ∧
    (e = .clearCause c ∨ (e = .tensionAnswer true ∧ c = .tension) ∨ (e = .cutEndedAnswer true ∧ c = .cutter) ∨
        (e = .heldBackAnswer false ∧ c = .store) →
      Completes e s (fun t =>
        Only [.due, .prot] s t ∧ (c ∉ s.prot.causes → t.prot = s.prot ∧ t.due = s.due.erase e) ∧
        (c ∈ s.prot.causes →
          let last := s.prot.permit = .halted ∧ (∀ d ∈ s.prot.causes, d = c) ∧ s.prot.table = []
          (∀ d : Cause, d ∈ t.prot.causes ↔ d ≠ c ∧ d ∈ s.prot.causes) ∧ t.prot.table = s.prot.table ∧
          t.prot.serial = s.prot.serial ∧ t.prot.coilHold = s.prot.coilHold ∧ (c = .tension → .tensionClearNotice ∈ t.due) ∧
          (c.groupWide = true → s.prot.episode = .standing → (∀ d ∈ s.prot.causes, d.groupWide = true → d = c) →
            t.prot.episode = .closing ∧ t.prot.outstanding = s.prot.outstanding + 1 ∧
            .withdrawRequest (BitVec.ofNat 8 s.prot.serial) ∈ t.due) ∧
          (c.groupWide = false ∨ s.prot.episode ≠ .standing ∨ (∃ d ∈ s.prot.causes, d ≠ c ∧ d.groupWide = true) →
            t.prot.episode = s.prot.episode ∧
            t.prot.outstanding = s.prot.outstanding) ∧
          (¬ last → t.prot.permit = s.prot.permit ∧ t.prot.eligible = s.prot.eligible) ∧
          (last → s.prot.eligible = false → t.prot.permit = .standby) ∧
          (last → s.prot.eligible = true → s.prot.coilHold = false → t.prot.permit = .running ∧ .coilRunningEntry ∈ t.due) ∧
          (last → s.prot.eligible = true → s.prot.coilHold = true → t.prot.permit = .halted))))

/-- START and the lamp's own times (R114, R116; log entry 23): STANDBY is left for RUNNING when no reason and no hold stands
and the pace source is heard where FOLLOW is set, and else the refusal blink begins; in HALTING and HALTED OPERATOR is
cleared, and a node that this takes to STANDBY is started in the same event; in RUNNING nothing changes. The blink changes the
lamp every 250 ms and ends in the decided pattern, and the flashing pattern changes it every 500 ms. Every step keeps the
lamp's pattern the decided one: dark in UNSET; steady with a latching cause; flashing with none but another cause, a peer
halt or, outside RUNNING, the hold; dark otherwise; and a pattern that a step decides anew begins, flashing begins lit. -/
def Obligations.StartRunsOrIsRefused : Prop :=
  (∀ s t : State, step s = .next t →
    let decided (u : State) (p : AlarmPattern) :=
      (u.prot.permit = .unset → p = .dark) ∧
      (u.prot.permit ≠ .unset → (∃ c ∈ u.prot.causes, c.latching = true) → p = .steady) ∧
      (u.prot.permit ≠ .unset → (∀ c ∈ u.prot.causes, c.latching = false) →
        (u.prot.causes ≠ [] ∨ u.prot.table ≠ [] ∨ (u.prot.coilHold = true ∧ u.prot.permit ≠ .running) → p = .flashing) ∧
        (u.prot.causes = [] → u.prot.table = [] → u.prot.coilHold = false ∨ u.prot.permit = .running → p = .dark))
    decided s s.prot.lamp.pattern → decided t t.prot.lamp.pattern ∧
      (t.prot.lamp.pattern ≠ s.prot.lamp.pattern → t.prot.blinkLeft = none →
        (t.prot.lamp.lit = true ↔ t.prot.lamp.pattern ≠ .dark) ∧
        t.prot.lamp.flashLeft = if t.prot.lamp.pattern = .flashing then some 500000 else none)) ∧
  ∀ s : State,
    let clean := s.prot.coilHold = false ∧ (s.settings.follow = true →
      ∃ p ∈ s.peers, p.station.val = s.settings.paceSource ∧ p.heard = true)
    let entered (t : State) := t.prot.permit = .running ∧ .twistRunningEntry ∈ t.due ∧ .samplerRunningEntry ∈ t.due ∧
      .knotRunningEntry ∈ t.due ∧ .coilRunningEntry ∈ t.due ∧ .permitStateNotice .running ∈ t.due
    let refused (t : State) := t.prot.permit = .standby ∧ t.prot.blinkLeft = some 1500000 ∧ t.prot.lamp.lit = true ∧
      t.prot.lamp.flashLeft = some 250000
    Completes .start s (fun t =>
      Only [.due, .prot] s t ∧
      (s.prot.permit = .standby → s.prot.causes = [] → s.prot.table = [] → clean → entered t) ∧
      (s.prot.permit = .standby → s.prot.causes ≠ [] ∨ s.prot.table ≠ [] ∨ ¬ clean → refused t ∧
        { t.prot with blinkLeft := s.prot.blinkLeft, lamp := s.prot.lamp } = s.prot) ∧
      (s.prot.permit = .running ∨ s.prot.permit = .unset → t.prot = s.prot) ∧
      (s.prot.permit = .halting → t.prot.permit = .halting ∧
        ∀ d : Cause, d ∈ t.prot.causes ↔ d ≠ .operator ∧ d ∈ s.prot.causes) ∧
      (s.prot.permit = .halted → .operator ∉ s.prot.causes → t.prot = s.prot) ∧
      (s.prot.permit = .halted → s.prot.causes = [.operator] → s.prot.table = [] → s.prot.eligible = false →
        t.prot.causes = [] ∧ (clean → entered t) ∧ (¬ clean → refused t)) ∧
      (s.prot.permit = .halted → (∃ d ∈ s.prot.causes, d ≠ .operator) ∨ s.prot.table ≠ [] → t.prot.permit = .halted)) ∧
    Completes .refusalBlinkEnd s (fun t => Only [.due, .prot] s t ∧ (s.prot.blinkLeft = none → t.prot = s.prot) ∧
      (s.prot.blinkLeft ≠ none → t.prot = { s.prot with
        blinkLeft := none
        lamp := { pattern := s.prot.lamp.pattern
                  lit := s.prot.lamp.pattern != .dark
                  flashLeft := if s.prot.lamp.pattern = .flashing then some 500000 else none } })) ∧
    Completes .alarmFlash s (fun t => Only [.due, .prot] s t ∧
      (s.prot.blinkLeft ≠ none →
        t.prot = { s.prot with lamp := { s.prot.lamp with lit := !s.prot.lamp.lit, flashLeft := some 250000 } }) ∧
      (s.prot.blinkLeft = none → s.prot.lamp.pattern = .flashing →
        t.prot = { s.prot with lamp := { s.prot.lamp with lit := !s.prot.lamp.lit, flashLeft := some 500000 } }) ∧
      (s.prot.blinkLeft = none → s.prot.lamp.pattern ≠ .flashing → t.prot = s.prot))

/-- ALARM-RESET and the halt timer (R119, R122, R123, R128, Table 7-4; log entry 28): ten causes are cleared without
condition, BREAK where the chain is closed, the halts of stations that are not HEARD are removed, and TENSION, CUTTER and
STORE are asked about, in RUNNING nothing; where the last reason goes in HALTED the node enters STANDBY when it is not
eligible, stays HALTED under the coil hold and enters RUNNING else; where the last group-wide cause goes a STANDING episode
closes with a withdraw request (withdrawals outstanding has no upper bound in the model: log entry 1); in HALTING the timer's
expiry enters HALTED while a reason stands, STANDBY with none and not eligible, HALTED under the coil hold, else RUNNING. -/
def Obligations.AlarmResetAndHaltTimerAct : Prop :=
  ∀ s : State,
    Completes .alarmReset s (fun t =>
      let always := [Cause.operator, .lineFailed, .strand, .lay, .knot, .mesh, .phase, .slip, .drift, .arith]
      Only [.due, .prot] s t ∧ (s.prot.permit = .running ∨ s.prot.permit = .unset → t.prot = s.prot) ∧
      (s.prot.permit ≠ .running → s.prot.permit ≠ .unset →
        (∀ d : Cause, d ∈ t.prot.causes ↔
          d ∈ s.prot.causes ∧ d ∉ always ∧ (d = .breakChain → s.pins.breakOpen = true)) ∧
        t.prot.table = s.prot.table.filter (fun e => (s.peer e.station).any Peer.heard) ∧
        let held := t.prot.causes ≠ [] ∨ t.prot.table ≠ []
        let last := s.prot.permit = .halted ∧ (s.prot.causes ≠ [] ∨ s.prot.table ≠ []) ∧ ¬ held
        let closes := s.prot.episode = .standing ∧ (∃ c ∈ s.prot.causes, c.groupWide = true) ∧
          ∀ c ∈ t.prot.causes, c.groupWide = false
        t.prot.coilHold = s.prot.coilHold ∧ t.prot.serial = s.prot.serial ∧
        (¬ last → t.prot.permit = s.prot.permit ∧ t.prot.eligible = s.prot.eligible) ∧
        (last → s.prot.eligible = false → t.prot.permit = .standby) ∧
        (last → s.prot.eligible = true → s.prot.coilHold = true → t.prot.permit = .halted) ∧
        (last → s.prot.eligible = true → s.prot.coilHold = false → t.prot.permit = .running ∧ .coilRunningEntry ∈ t.due) ∧
        (closes → t.prot.episode = .closing ∧ t.prot.outstanding = s.prot.outstanding + 1 ∧
          .withdrawRequest (BitVec.ofNat 8 s.prot.serial) ∈ t.due) ∧
        (¬ closes → t.prot.episode = s.prot.episode ∧ t.prot.outstanding = s.prot.outstanding) ∧
        (.tension ∈ s.prot.causes → .tensionClearQuestion ∈ t.due) ∧ (.cutter ∈ s.prot.causes → .cutEndedQuestion ∈ t.due) ∧
        (.store ∈ s.prot.causes → .heldBackQuestion ∈ t.due))) ∧
    Completes .haltTimerExpiry s (fun t =>
      let held := s.prot.causes ≠ [] ∨ s.prot.table ≠ []
      Only [.due, .prot] s t ∧ t.prot.causes = s.prot.causes ∧ t.prot.table = s.prot.table ∧
      (s.prot.permit ≠ .halting → t.prot = s.prot) ∧
      (s.prot.permit = .halting → t.prot.haltLeft = none ∧ .permitStateNotice t.prot.permit ∈ t.due ∧
        (held → t.prot.permit = .halted) ∧ (¬ held → s.prot.eligible = false → t.prot.permit = .standby) ∧
        (¬ held → s.prot.eligible = true → s.prot.coilHold = true → t.prot.permit = .halted) ∧
        (¬ held → s.prot.eligible = true → s.prot.coilHold = false → t.prot.permit = .running ∧ .coilRunningEntry ∈ t.due)))

/-- An answer to a withdraw request (R129): one less is outstanding, SENT moves the sent serial on to a serial issued later,
which of two serials was issued later is judged by the nearer one counted backward around 255 (the model's inference: log
entry 32); and the last answer of a CLOSING episode ends it, with a RESUME of the sent serial if there is one. -/
def Obligations.WithdrawAnswersEndTheEpisode : Prop :=
  ∀ (sent : Bool) (serial : Byte) (s : State), 0 < s.prot.outstanding →
    Completes (.withdrawAnswer sent serial) s (fun t =>
      let back (x : Nat) := (s.prot.serial + 255 - x) % 255
      let later : Nat := match s.prot.sentSerial with
        | none => serial.toNat
        | some y => if back serial.toNat < back y then serial.toNat else y
      let known := if sent = true then some later else s.prot.sentSerial
      let ends := s.prot.outstanding = 1 ∧ s.prot.episode = .closing
      Only [.due, .meter, .line, .prot] s t ∧ t.prot.outstanding = s.prot.outstanding - 1 ∧
      (sent = true → s.prot.sentSerial = none → known = some serial.toNat) ∧
      (¬ ends → t.line = s.line ∧
        t.prot = { s.prot with outstanding := s.prot.outstanding - 1, sentSerial := known }) ∧
      (ends → t.prot = { s.prot with outstanding := 0, sentSerial := none, episode := .quiet, latest := none } ∧
        (∀ x, known = some x → Joined (.resume (BitVec.ofNat 8 x)) s t) ∧ (known = none → t.line = s.line)))

/-- The halt table (R121, R130 to R132; that an entry and its notice take a cause and a serial as they came, also outside
their ranges, is the model's choice: log entry 47): a HALT or the halt part of a PRESENCE sets or replaces its station's
entry and gives the coil builder a notice, a serial already held changes nothing, and a new entry is a reason; a RESUME of
the entry's serial and a PRESENCE without a halt part remove it. No other entry changes. -/
def Obligations.HaltTableFollowsTheLine : Prop :=
  ∀ (station : Station) (cause serial : Byte) (length : BitVec 32) (s : State), s.begun = true → s.station ≠ 0 →
    station ≠ 0 → station ≠ s.station →
    let others (t : State) := ∀ q : Station, q ≠ station → t.haltOf q = s.haltOf q
    let last := s.prot.permit = .halted ∧ s.prot.causes = [] ∧ ∀ e ∈ s.prot.table, e.station = station
    let removed (t : State) := t.haltOf station = none ∧ others t ∧ t.prot.causes = s.prot.causes ∧
      (¬ last → t.prot.permit = s.prot.permit) ∧ (last → s.prot.eligible = false → t.prot.permit = .standby) ∧
      (last → s.prot.eligible = true → s.prot.coilHold = true → t.prot.permit = .halted) ∧
      (last → s.prot.eligible = true → s.prot.coilHold = false → t.prot.permit = .running ∧ .coilRunningEntry ∈ t.due)
    let taken (entry : HaltEntry) (t : State) :=
      (∀ f, s.haltOf station = some f → f.serial = serial → t.prot = s.prot) ∧
      (∀ f, s.haltOf station = some f → f.serial ≠ serial → t.haltOf station = some entry ∧ others t ∧
        t.prot.permit = s.prot.permit ∧ .reasonNotice cause station false ∈ t.due) ∧
      (s.haltOf station = none → t.haltOf station = some entry ∧ others t ∧ t.prot.causes = s.prot.causes ∧
        .reasonNotice cause station (s.prot.permit == .running) ∈ t.due ∧
        (s.prot.permit = .standby → t.prot.permit = .halted) ∧
        (s.prot.permit = .running → s.meter.atRest = false → t.prot.permit = .halting ∧
          t.prot.eligible = s.settings.autoResume) ∧
        (s.prot.permit = .running → s.meter.atRest = true → t.prot.permit = .halted))
    Completes (.haltFrame station cause serial length) s (fun t => Only [.due, .prot] s t ∧ taken ⟨station, cause, serial, some length, true⟩ t) ∧
    Completes (.presenceHaltPart station (some ⟨serial, cause⟩)) s (fun t => Only [.due, .prot] s t ∧
      taken ⟨station, cause, serial, none, false⟩ t) ∧
    Completes (.presenceHaltPart station none) s (fun t => Only [.due, .prot] s t ∧
      (s.haltOf station = none → t.prot = s.prot) ∧ (s.haltOf station ≠ none → removed t)) ∧
    Completes (.resumeFrame station serial) s (fun t => Only [.due, .prot] s t ∧
      (∀ f, s.haltOf station = some f → f.serial = serial → removed t) ∧
      (∀ f, s.haltOf station = some f → f.serial ≠ serial → t.prot = s.prot) ∧
      (s.haltOf station = none → t.prot = s.prot))

/-- The coil hold, the supply watch and BREAK closing (R118, R125, R133; log entry 4): the hold is set and cleared, and its
clear starts an eligible HALTED node with no reason; a warning in NORMAL raises SUPPLY and a recovery in WARNING clears it,
and neither is taken in its own state; a chain that closes clears nothing. -/
def Obligations.HoldAndSupplyAreWatched : Prop :=
  ∀ s : State, s.begun = true →
    let resumes := s.prot.permit = .halted ∧ s.prot.causes = [] ∧ s.prot.table = [] ∧ s.prot.eligible = true
    Completes .coilHoldSet s (fun t => Only [.due, .prot] s t ∧
      { t.prot with lamp := s.prot.lamp } = { s.prot with coilHold := true }) ∧
    Completes .coilHoldClear s (fun t => Only [.due, .prot] s t ∧
      { t.prot with lamp := s.prot.lamp } =
        { s.prot with coilHold := false, permit := if resumes then Permit.running else s.prot.permit } ∧
      (resumes → .coilRunningEntry ∈ t.due)) ∧
    Completes .supplyWarning s (fun t => Only [.due, .pins, .prot] s t ∧ t.pins.supply < 17000 ∧ (s.prot.supplyWarning = true → t.prot = s.prot) ∧
      (s.prot.supplyWarning = false → t.prot.supplyWarning = true ∧ .supply ∈ t.prot.causes ∧
        (.supply ∉ s.prot.causes → .supplyNotice ∈ t.due ∧ t.prot.permit ≠ .running))) ∧
    Completes .supplyRecovery s (fun t => Only [.due, .pins, .prot] s t ∧ 18000 < t.pins.supply ∧ (s.prot.supplyWarning = false → t.prot = s.prot) ∧
      (s.prot.supplyWarning = true → t.prot.supplyWarning = false ∧ .supply ∉ t.prot.causes)) ∧
    Completes .breakClose s (fun t => Only [.due, .pins] s t ∧ t.pins = { s.pins with breakOpen := false })

/-! ### Coil building -/

/-- The notice of entering RUNNING at the coil builder (R138, R148): a COIL node with an empty OPEN slot opens a coil of the
next number at the present line length and hands the store its header, its one contributor entry being the own one,
EXPECTED, with no halts, clear flags and origin NONE (these three are the model's choice: log entry 46; that the start
length of a negative line length is a conversion that sets RNG, with origin CONVERT, is the model's inference: log entry
45), or has the hold set when the numbers are exhausted; a node without COIL begins its segment once. An open at a line
length of 0 or more sets no flag. -/
def Obligations.RunningOpensACoil : Prop :=
  ∀ s : State, s.begun = true →
    Completes .coilRunningEntry s (fun t =>
      let opens := s.settings.coil = true ∧ s.coil.openSlot = none ∧ s.coil.next ≠ none
      Only [.due, .meter, .line, .coil, .store] s t ∧
      { t.meter with flags := s.meter.flags, origin := s.meter.origin } = s.meter ∧
      (opens → s.lineLength < 0 → Flagged .rng .convert s t) ∧ (¬ opens ∨ 0 ≤ s.lineLength → Unflagged s t) ∧
      (∀ r, s.settings.coil = true → s.coil.openSlot = some r → t.coil = s.coil ∧ t.store = s.store) ∧
      (s.settings.coil = true → s.coil.openSlot = none → s.coil.next = none → t.coil = s.coil ∧ .coilHoldSet ∈ t.due) ∧
      (∀ n, s.settings.coil = true → s.coil.openSlot = none → s.coil.next = some n →
        ∃ r, t.coil = { s.coil with openSlot := some r, next := if n < 4294967295 then some (n + 1) else none } ∧
          r.state = .opened ∧ r.coil = n ∧ r.startMicrometres = s.lineLength ∧ r.startLength = mmOf s.lineLength ∧
          r.target = s.coil.pendingTarget ∧ r.station = s.station ∧ r.group = s.settings.group ∧ r.net = s.settings.knot ∧
          r.anchor = none ∧ r.endReason = none ∧ r.segment = none ∧ r.cutDriven = false ∧ r.halts = [] ∧ r.haltCount = 0 ∧
          r.splices = [] ∧ r.spliceCount = 0 ∧ r.twist = none ∧ r.knot = none ∧
          r.contributors = [ownContributor s.station] ∧ HandedToStore (.programHeader n (headerBytes r)) t) ∧
      (s.settings.coil = false → t.store = s.store ∧ t.coil = if s.coil.tally.begun = true then s.coil else { s.coil with
        tally := { s.coil.tally with begun := true, startLength := s.lineLength, halts := 0 } }))

/-- The end of a coil by hand and its cut (R13, R139, R141 to R143; log entries 14, 28 and 34): CUT-REQUEST out of RUNNING
ends the coil, which is cut at once where the line is at rest and the CLOSING slot holds no GATHERING record, and is judged
again every 100 ms; the cut starts CH7; its drive sets cut driven in the OPEN slot's record, the pulse's end starts the cut
timer, and the timer's end raises CUTTER. In CUTTING with CH7 IDLE the request repeats the cut. -/
def Obligations.CutsBeginAtRest : Prop :=
  ∀ (r : CoilRecord) (s : State), s.begun = true → s.settings.coil = true → s.coil.openSlot = some r →
    let pulse : Instr := .channelStartRequest 7 {
      mode := .pulse, unit := .ms1, reload := BitVec.ofNat 24 s.settings.cutDelay,
      drive := some (BitVec.ofNat 24 s.settings.cutPulse), trigger := .owner, action := .drive }
    let cutting (q : CoilRecord) (t : State) := pulse ∈ t.due ∧
      t.coil = { s.coil with openSlot := some { q with state := .cutting }, restLeft := none, cutLeft := none }
    let repeats := r.state = .cutting ∧ (s.channel 7).state = .idle
    let ends := r.state = .opened ∧ s.prot.permit ≠ .running
    let mayStart := s.meter.atRest = true ∧ ∀ c, s.coil.closingSlot = some c → c.state ≠ .gathering
    Completes .cutRequest s (fun t => Only [.due, .coil] s t ∧
      (ends → mayStart → .coilHoldSet ∈ t.due ∧ cutting { r with endReason := some .manual } t) ∧
      (ends → ¬ mayStart → .coilHoldSet ∈ t.due ∧ t.coil = { s.coil with
        openSlot := some { r with state := .ending, endReason := some .manual }, restLeft := some 100000 }) ∧
      (repeats → cutting r t) ∧ (¬ ends → ¬ repeats → t.coil = s.coil ∧ t.due = s.due.erase .cutRequest)) ∧
    Completes .restTimerExpiry s (fun t => Only [.due, .coil] s t ∧
      (r.state = .ending → s.coil.restLeft ≠ none → mayStart → .coilHoldSet ∈ t.due ∧ cutting r t) ∧
      (r.state = .ending → s.coil.restLeft ≠ none → ¬ mayStart →
        t.coil = { s.coil with restLeft := some 100000 }) ∧
      (r.state ≠ .ending ∨ s.coil.restLeft = none → t.coil = s.coil)) ∧
    Completes .cutDriveStart s (fun t => Only [.due, .channels, .coil] s t ∧
      (.cutDriveStart ∉ s.due → (s.channel 7).mode = some .pulse → (s.channel 7).state = .running → t.channel 7 = { s.channel 7 with
        state := .driving, count := (s.channel 7).drive.getD 1, level := (s.channel 7).action == .drive }) ∧
      t.coil = { s.coil with openSlot := some { r with cutDriven := true } }) ∧
    Completes .cutPulseExpiry s (fun t => Only [.due, .channels, .coil] s t ∧
      (.cutPulseExpiry ∉ s.due → (s.channel 7).mode = some .pulse → (s.channel 7).state = .driving →
        (s.channel 7).trigger = .owner → t.channel 7 = { s.channel 7 with state := .idle, count := 0, level := false }) ∧
      t.coil = if r.state = .cutting then { s.coil with cutLeft := some (s.settings.cutDoneTimeout * 1000) } else s.coil) ∧
    Completes .cutTimerExpiry s (fun t => Only [.due, .coil] s t ∧ t.coil = { s.coil with cutLeft := none } ∧
      (s.coil.cutLeft ≠ none → r.state = .cutting → .raiseCause .cutter ∈ t.due))

/-- CUT-DONE (R29, R30, R144, R149): taken in CUTTING only; the segment is fixed and the monitors are asked; a negative
segment, or a negative length in the MARK CUT, sets RNG with origin CONVERT, which a seal in the same event takes into the
record before it clears the status (R36, R153); with the CLOSING slot taken the record waits in ENDED; else it gathers there
for the tally wait, or is sealed where no contribution is expected, the MARK CUT goes out, the next coil opens with the hold
cleared (that EXHAUSTED is judged after this open is the model's inference: log entry 16), and COIL-END is cleared. -/
def Obligations.CutDoneClosesTheCoil : Prop :=
  ∀ (r : CoilRecord) (s : State), s.begun = true → s.settings.coil = true → s.coil.openSlot = some r →
    r.contributors = [ownContributor s.station] →
    Completes .cutDone s (fun t =>
      let contributes (p : Peer) := p.heard = true ∧ (p.roles.getLsbD 7 = true ∨ p.roles.getLsbD 6 = true)
      let fixed (q : CoilRecord) := q.coil = r.coil ∧ q.segment = some (mmOf (s.lineLength - r.startMicrometres))
      let silent := s.settings.twist = false ∧ s.settings.knot = false ∧ ∀ p ∈ s.peers, ¬ contributes p
      let short := s.lineLength < r.startMicrometres
      Only [.due, .meter, .line, .coil, .store] s t ∧
      (r.state ≠ .cutting → t.coil = s.coil ∧ t.meter = s.meter ∧ t.due = s.due.erase .cutDone) ∧
      (r.state = .cutting → t.coil.cutLeft = none ∧
        (s.settings.twist = true → .twistSegmentRequest (BitVec.ofNat 32 r.coil) ∈ t.due) ∧
        (s.settings.knot = true → .knotSegmentRequest (BitVec.ofNat 32 r.coil) ∈ t.due)) ∧
      (r.state = .cutting → s.coil.closingSlot ≠ none → t.coil.closingSlot = s.coil.closingSlot ∧
        (∃ q, t.coil.openSlot = some q ∧ q.state = .ended ∧ fixed q) ∧ .channelStopRequest 7 ∈ t.due ∧
        (short → Flagged .rng .convert s t) ∧ (¬ short → Unflagged s t) ∧
        .coilHoldSet ∈ t.due ∧ t.store = s.store) ∧
      (r.state = .cutting → s.coil.closingSlot = none →
        (s.line.queue.length < 8 →
          FrameContent.mark .cut (BitVec.ofNat 32 r.coil) (mmField s.lineLength) ∈ t.contents) ∧
        (.coilEnd ∈ s.prot.causes → .clearCause .coilEnd ∈ t.due) ∧
        (∀ n, s.coil.next = some n → n < 4294967295 → .coilHoldClear ∈ t.due ∧ t.coil.next = some (n + 1) ∧
          ∃ q, t.coil.openSlot = some q ∧ q.coil = n ∧ q.state = .opened ∧ q.startMicrometres = s.lineLength ∧
            HandedToStore (.programHeader n (headerBytes q)) t) ∧
        (¬ silent → .channelStartRequest 7 (delayRequest .ms1 s.settings.tallyWait) ∈ t.due ∧
          (short ∨ s.lineLength < 0 → Flagged .rng .convert s t) ∧ (¬ short → 0 ≤ s.lineLength → Unflagged s t) ∧
          ∃ q, t.coil.closingSlot = some q ∧ q.state = .gathering ∧ fixed q ∧
            ∀ p ∈ s.peers, contributes p → s.peers.length ≤ 14 →
              ∃ c ∈ q.contributors, c.station = p.station ∧ c.listed = true) ∧
        (silent → HandedToStore (.keep r.coil) t ∧
          (0 ≤ s.lineLength → t.meter.flags = clearFlags ∧ t.meter.origin = .none) ∧
          ∃ q, t.coil.closingSlot = some q ∧ q.state = .sealing ∧ fixed q ∧ (short ∨ s.lineLength < 0 → q.flags.rng = true))))

/-- Tallies and own parts gathered (R144, R150 to R153; model's choices: log entry 8, and log entry 47, by which an origin
stands as it came; model's inference: log entry 30): a tally for the gathering coil is merged for an EXPECTED station,
ignored for another of its entries, and merged into an entry appended, not listed, while fewer than 15 stand: the entry is
RECEIVED with its halts, flags and origin, the flags are united, totals and counts are added and held, the least and greatest
lay kept, and the mean's sum of lay and lay windows added. An own part is merged alike, and the own entry is RECEIVED with
the own halts once none is awaited. The merge that leaves none EXPECTED stops CH7 and seals the record, and so does the tally
wait, which makes the EXPECTED MISSING: the sealed record takes the node's own flags and origin, the status is cleared, a
keep is handed over, and the cut of a record that waits in ENDING starts where the line is at rest (R142). Any other tally,
of another coil or with no record GATHERING in the CLOSING slot, is counted late in the OPEN slot's record while its coil is
in the making, and else changes nothing. -/
def Obligations.TalliesAreGathered : Prop :=
  (∀ (station : Station) (y : Tally) (s : State), s.begun = true → s.settings.coil = true →
    (∀ r, s.coil.closingSlot = some r → r.state ≠ .gathering ∨ r.coil ≠ y.coil.toNat) →
    let making (q : CoilRecord) := q.state = .opened ∨ q.state = .ending ∨ q.state = .cutting ∨ q.state = .ended
    Completes (.tallyReceived station y) s (fun t => Only [.due, .coil] s t ∧
      (∀ q, s.coil.openSlot = some q → making q →
        t.coil = { s.coil with openSlot := some { q with lateCount := holdInc 65535 q.lateCount } }) ∧
      ((∀ q, s.coil.openSlot = some q → ¬ making q) → t.coil = s.coil))) ∧
  ∀ (station : Station) (y : Tally) (part : SegmentPart) (r : CoilRecord) (s : State), s.begun = true →
    s.settings.coil = true → s.coil.closingSlot = some r → r.state = .gathering →
    let entry := r.contributors.find? (fun c => c.station == station)
    let add (a b : Nat) := min (a + b) 4294967295
    let least (a b : Option Nat) : Option Nat := match a, b with
      | some m, some n => some (min m n)
      | some m, none => some m
      | none, n => n
    let greatest (a b : Option Nat) : Option Nat := match a, b with
      | some m, some n => some (max m n)
      | some m, none => some m
      | none, n => n
    let twisted (a : Option TwistMerge) (u : TwistTotals) (b : Option TwistMerge) : Prop := ∃ v, b = some v ∧
      let w := a.getD ⟨0, 0, 0, 0, none, none, 0, 0⟩
      v.windows = add w.windows u.windows ∧ v.outOfBand = add w.outOfBand u.outOfBand ∧ v.stalled = add w.stalled u.stalled ∧
      v.layFaults = add w.layFaults u.layFaults ∧ v.minLay = least w.minLay u.minLay ∧ v.maxLay = greatest w.maxLay u.maxLay ∧
      (u.meanLay = none → v.sumLay = w.sumLay ∧ v.layWindows = w.layWindows) ∧
      (∀ mean, u.meanLay = some mean → u.stalled ≤ u.windows → v.sumLay = w.sumLay + mean * (u.windows - u.stalled) ∧
        v.layWindows = w.layWindows + (u.windows - u.stalled))
    let knotted (a : Option KnotCounts) (u : KnotCounts) (b : Option KnotCounts) : Prop :=
      let w := a.getD ⟨0, 0, 0, 0, 0, 0, 0, 0⟩
      b = some ⟨add w.sampledRows u.sampledRows, add w.unseenRows u.unseenRows, add w.inchRows u.inchRows,
        add w.missedKnots u.missedKnots, add w.headFaults u.headFaults, add w.meshWindows u.meshWindows,
        add w.meshOutOfBand u.meshOutOfBand, add w.meshFaults u.meshFaults⟩
    let seals (g : CoilRecord) (t : State) := HandedToStore (.keep r.coil) t ∧
      t.coil.closingSlot = some { g with
        state := .sealing
        flags := g.flags.union s.meter.flags
        contributors := g.contributors.map (fun c => if c.station = s.startRec.station then
          { c with flags := s.meter.flags, origin := BitVec.ofNat 8 s.meter.origin.code } else c) } ∧
      (s.settings.pacePublish = false → t.meter.flags = clearFlags ∧ t.meter.origin = .none) ∧
      (∀ q, s.coil.openSlot = some q → q.state = .ending → s.meter.atRest = true →
        t.coil.openSlot = some { q with state := .cutting } ∧ t.coil.restLeft = none ∧ .coilHoldSet ∈ t.due ∧
        .channelStartRequest 7 {
          mode := .pulse, unit := .ms1, reload := BitVec.ofNat 24 s.settings.cutDelay,
          drive := some (BitVec.ofNat 24 s.settings.cutPulse), trigger := .owner, action := .drive } ∈ t.due) ∧
      ((∀ q, s.coil.openSlot = some q → q.state ≠ .ending ∨ s.meter.atRest = false) →
        t.coil.openSlot = s.coil.openSlot ∧ t.coil.restLeft = s.coil.restLeft)
    let settles (g : CoilRecord) (t : State) :=
      ((∃ c ∈ g.contributors, c.status = .expected) → t.coil = { s.coil with closingSlot := some g } ∧ t.store = s.store) ∧
      ((∀ c ∈ g.contributors, c.status ≠ .expected) → seals g t ∧ .channelStopRequest 7 ∈ t.due)
    let merges (entries : List Contributor) (t : State) := ∃ g : CoilRecord,
      g = { r with twist := g.twist, knot := g.knot, flags := r.flags.union y.flags, contributors := entries } ∧
      (y.twist = none → g.twist = r.twist) ∧ (∀ u, y.twist = some u → twisted r.twist u g.twist) ∧
      (y.knot = none → g.knot = r.knot) ∧ (∀ u, y.knot = some u → knotted r.knot u g.knot) ∧ settles g t
    let owned (q g : CoilRecord) :=
      g = { q with twist := g.twist, knot := g.knot, awaitTwist := g.awaitTwist, awaitKnot := g.awaitKnot,
                   contributors := g.contributors } ∧
      (∀ u, part = .twist u → twisted q.twist u g.twist ∧ g.knot = q.knot ∧ g.awaitTwist = false ∧ g.awaitKnot = q.awaitKnot) ∧
      (∀ u, part = .knot u → knotted q.knot u g.knot ∧ g.twist = q.twist ∧ g.awaitKnot = false ∧ g.awaitTwist = q.awaitTwist) ∧
      (g.awaitTwist = true ∨ g.awaitKnot = true → g.contributors = q.contributors) ∧
      (g.awaitTwist = false → g.awaitKnot = false → g.contributors = q.contributors.map (fun c =>
        if c.station = s.startRec.station then { c with status := .received, halts := q.ownHalts } else c))
    let filled (c : Contributor) : Contributor :=
      { c with status := .received, halts := y.halts.toNat, flags := y.flags, origin := y.origin }
    let waits := ∃ c ∈ r.contributors, c.status = .expected
    Completes (.tallyReceived station y) s (fun t => Only [.due, .meter, .line, .coil, .store] s t ∧
      (∀ c, y.coil.toNat = r.coil → entry = some c → c.status = .expected →
        merges (r.contributors.map (fun d => if d.station = station then filled d else d)) t) ∧
      (∀ c, y.coil.toNat = r.coil → entry = some c → c.status ≠ .expected → waits → t.coil = s.coil) ∧
      (y.coil.toNat = r.coil → entry = none → r.contributors.length < 15 →
        merges (r.contributors ++ [⟨station, false, .received, y.halts.toNat, y.flags, y.origin⟩]) t) ∧
      (y.coil.toNat = r.coil → entry = none → 15 ≤ r.contributors.length → waits → t.coil = s.coil)) ∧
    (r.coil < 4294967296 →
      Completes (.segmentStatisticsAnswer (BitVec.ofNat 32 r.coil) part) s (fun t =>
        Only [.due, .meter, .line, .coil, .store] s t ∧
        ((∀ q, s.coil.openSlot = some q → q.coil ≠ r.coil) → ∃ g, owned r g ∧ settles g t))) ∧
    (∀ q, s.coil.openSlot = some q → q.state = .ended → q.coil < 4294967296 →
      Completes (.segmentStatisticsAnswer (BitVec.ofNat 32 q.coil) part) s (fun t => Only [.due, .coil] s t ∧
        ∃ g, owned q g ∧ t.coil = { s.coil with openSlot := some g })) ∧
    Completes .tallyWaitExpiry s (fun t => Only [.due, .channels, .meter, .line, .coil, .store] s t ∧
      seals { r with contributors := r.contributors.map (fun c =>
        if c.status = .expected then { c with status := .missing } else c) } t)

/-- Reasons and splices are logged in the OPEN record (R30, R146, R147; log entry 20): the counts grow, the lists take
entries with the offset while they hold fewer than 8, a negative offset that is taken sets RNG with origin CONVERT, and so
does a negative length in a MARK SPLICE (R29), an own group-wide cause counts as originated, a received splice is logged as
a note, and SPLICE out of RUNNING sends a MARK. -/
def Obligations.ReasonsAndSplicesAreLogged : Prop :=
  ∀ (code : Byte) (station : Station) (stopped : Bool) (r : CoilRecord) (s : State), s.begun = true → s.settings.coil = true →
    s.coil.openSlot = some r →
    let offset := mmOf (s.lineLength - r.startMicrometres)
    let noted (code : Byte) (stopped : Bool) : CoilRecord := { r with
      haltCount := holdInc 65535 r.haltCount
      halts := if r.halts.length < 8 then r.halts ++ [⟨code, station, offset, stopped⟩] else r.halts }
    let flagged (n : Nat) (t : State) :=
      (r.state.logs = true → n < 8 → s.lineLength < r.startMicrometres → Flagged .rng .convert s t) ∧
      (r.state.logs = false ∨ 8 ≤ n ∨ r.startMicrometres ≤ s.lineLength → t.meter = s.meter)
    Completes (.reasonNotice code station stopped) s (fun t => Only [.due, .meter, .coil] s t ∧ flagged r.halts.length t ∧
      (r.state.logs = true → station = s.station → 1 ≤ code.toNat → code.toNat ≤ 13 → t.coil = { s.coil with
        openSlot := some { noted code stopped with ownHalts := holdInc 255 r.ownHalts } }) ∧
      (r.state.logs = true → station ≠ s.station ∨ code.toNat = 0 ∨ 13 < code.toNat →
        t.coil = { s.coil with openSlot := some (noted code stopped) }) ∧
      (r.state.logs = false → t.coil = s.coil)) ∧
    Completes (.markSpliceReceived station) s (fun t => Only [.due, .meter, .coil] s t ∧ flagged r.halts.length t ∧
      t.coil = if r.state.logs = true then { s.coil with openSlot := some (noted 0x20 false) } else s.coil) ∧
    Completes .splice s (fun t => Only [.due, .meter, .line, .coil] s t ∧
      (s.prot.permit = .running → t.coil = s.coil ∧ t.line = s.line ∧ t.meter = s.meter) ∧
      (s.prot.permit ≠ .running → Joined (.mark .splice s.currentCoil (mmField s.lineLength)) s t ∧
        (0 ≤ s.lineLength → flagged r.splices.length t) ∧ (s.lineLength < 0 → Flagged .rng .convert s t) ∧
        t.coil = if r.state.logs = true then { s.coil with openSlot := some { r with
          spliceCount := holdInc 65535 r.spliceCount
          splices := if r.splices.length < 8 then r.splices ++ [offset] else r.splices } } else s.coil))

/-- A MARK CUT on a node without COIL (R30, R36, R148): the segment is frozen and a new one begins, the monitors are asked,
and a TALLY to the MARK's source carries the halts and the arithmetic status, in which a negative segment has set RNG with
origin CONVERT, and which is cleared; with no part to wait for it goes out at once. A reason notice of an own group-wide
cause is counted in the segment. A monitor's answer fills the oldest waiting TALLY that asked for a part of its kind, which
is handed over once every part asked for has come; that it does so whatever coil number it carries is the model's choice
(log entry 49). -/
def Obligations.MarkCutFormsATally : Prop :=
  (∀ (station : Station) (coil : BitVec 32) (code : Byte) (stopped : Bool) (s : State), s.begun = true →
    s.settings.coil = false → s.coil.forming = [] →
    let short := s.lineLength < s.coil.tally.startLength
    let origin := if short ∧ s.meter.flags.any = false then Origin.convert else s.meter.origin
    let y : Tally := { coil := coil, halts := BitVec.ofNat 8 s.coil.tally.halts,
                       flags := if short then s.meter.flags.set .rng else s.meter.flags,
                       origin := BitVec.ofNat 8 origin.code, twist := none, knot := none }
    let parts := s.settings.twist = true ∨ s.settings.knot = true
    Completes (.markCutReceived station coil) s (fun t => Only [.due, .meter, .line, .coil] s t ∧
      (s.coil.tally.begun = false → t.coil = { s.coil with tally := { s.coil.tally with lastCoil := coil } } ∧
        t.line = s.line ∧ t.meter = s.meter) ∧
      (s.coil.tally.begun = true →
        t.coil.tally = { begun := true, startLength := s.lineLength, halts := 0, lastCoil := coil,
                         lastSegment := mmOf (s.lineLength - s.coil.tally.startLength) } ∧
        (s.settings.twist = true → .twistSegmentRequest coil ∈ t.due) ∧
        (s.settings.knot = true → .knotSegmentRequest coil ∈ t.due)) ∧
      (s.coil.tally.begun = true → parts →
        t.coil.forming = [⟨station, y, s.settings.twist, s.settings.knot⟩] ∧ t.line = s.line ∧
        t.meter = { s.meter with flags := clearFlags, origin := .none }) ∧
      (s.coil.tally.begun = true → ¬ parts →
        Joined (.tally station y) s t ∧ t.coil.forming = [] ∧ (0 ≤ s.lineLength ∨ s.settings.pacePublish = false →
          t.meter = { s.meter with flags := clearFlags, origin := .none }))) ∧
    Completes (.reasonNotice code station stopped) s (fun t => Only [.due, .coil] s t ∧
      t.coil = if s.coil.tally.begun = true ∧ station = s.station ∧ 1 ≤ code.toNat ∧ code.toNat ≤ 13 then
        { s.coil with tally := { s.coil.tally with halts := holdInc 255 s.coil.tally.halts } } else s.coil)) ∧
  ∀ (answer : BitVec 32) (early late : List FormingTally) (f : FormingTally) (u : TwistTotals) (k : KnotCounts) (s : State),
    s.begun = true → s.settings.coil = false → s.coil.forming = early ++ f :: late →
    (∀ g ∈ early ++ late, g.needTwist = true ∨ g.needKnot = true) →
    let hands (g : FormingTally) (t : State) := Only [.due, .meter, .line, .coil] s t ∧
      (g.needTwist = true ∨ g.needKnot = true → t.coil = { s.coil with forming := early ++ g :: late } ∧ t.line = s.line) ∧
      (g.needTwist = false → g.needKnot = false → t.coil = { s.coil with forming := early ++ late } ∧
        Joined (.tally f.destination g.tally) s t)
    (f.needTwist = true → (∀ g ∈ early, g.needTwist = false) → Completes (.segmentStatisticsAnswer answer (.twist u)) s
      (hands { f with needTwist := false, tally := { f.tally with twist := some u } })) ∧
    (f.needKnot = true → (∀ g ∈ early, g.needKnot = false) → Completes (.segmentStatisticsAnswer answer (.knot k)) s
      (hands { f with needKnot := false, tally := { f.tally with knot := some k } }))

/-- A keep report (R145, R153, R154): a kept record leaves its slot, and from the OPEN slot the hold is cleared unless the
next number is EXHAUSTED (judged at the end of the event, the model's inference: log entry 16); one not kept moves to an
empty HELD slot, and else stays held back with STORE raised; an ENDED record moves into a CLOSING slot that empties. A kept
HELD record leaves its slot to the record held back, CLOSING before OPEN, which is offered to the store and leaves its own
slot empty; one not kept stays. -/
def Obligations.KeepReportsEmptyTheSlots : Prop :=
  (∀ (coil : BitVec 32) (kept : Bool) (r : CoilRecord) (s : State), r.coil = coil.toNat → r.state = .sealing →
    s.coil.heldSlot.all (fun q => q.coil != coil.toNat) = true →
    let held : CoilRecord := { r with state := .held, heldBack := false }
    let back : CoilRecord := { r with heldBack := true }
    let waits := ∃ q, s.coil.openSlot = some q ∧ q.state = .ended
    Completes (.keepReport coil kept) s (fun t =>
      Only [.due, .meter, .line, .coil, .store] s t ∧
      (s.coil.closingSlot = some r → ¬ waits → kept = true → t.coil = { s.coil with closingSlot := none }) ∧
      (s.coil.closingSlot = some r → ¬ waits → kept = false → s.coil.heldSlot = none →
        t.coil = { s.coil with closingSlot := none, heldSlot := some held }) ∧
      (s.coil.closingSlot = some r → kept = false → s.coil.heldSlot ≠ none →
        t.coil = { s.coil with closingSlot := some back } ∧ .raiseCause .store ∈ t.due) ∧
      (∀ q, s.coil.closingSlot = some r → s.coil.openSlot = some q → q.state = .ended → kept = true →
        ∃ c, t.coil.closingSlot = some c ∧ c.coil = q.coil ∧ c.segment = q.segment) ∧
      (s.coil.closingSlot = none → s.coil.openSlot = some r → kept = true →
        t.coil = { s.coil with openSlot := none } ∧ (s.coil.next ≠ none → .coilHoldClear ∈ t.due)) ∧
      (s.coil.closingSlot = none → s.coil.openSlot = some r → kept = false → s.coil.heldSlot = none →
        t.coil = { s.coil with openSlot := none, heldSlot := some held } ∧ (s.coil.next ≠ none → .coilHoldClear ∈ t.due)) ∧
      (s.coil.closingSlot = none → s.coil.openSlot = some r → kept = false → s.coil.heldSlot ≠ none →
        t.coil = { s.coil with openSlot := some back } ∧ .raiseCause .store ∈ t.due))) ∧
  ∀ (coil : BitVec 32) (kept : Bool) (h : CoilRecord) (s : State), h.coil = coil.toNat → h.state = .held →
    s.coil.heldSlot = some h →
    let moved (r : CoilRecord) : CoilRecord := { r with state := .held, heldBack := false }
    let offered (r : CoilRecord) (t : State) := s.recordKept r = false → HandedToStore (.keep r.coil) t
    let fromClosing := ∃ r, s.coil.closingSlot = some r ∧ r.heldBack = true
    let fromOpen := ∃ r, s.coil.openSlot = some r ∧ r.heldBack = true
    Completes (.keepReport coil kept) s (fun t =>
      Only [.due, .meter, .line, .coil, .store] s t ∧
      (kept = false → t.coil = s.coil ∧ t.store = s.store ∧ t.line = s.line) ∧
      (kept = true → ¬ fromClosing → ¬ fromOpen → t.coil = { s.coil with heldSlot := none } ∧ t.store = s.store) ∧
      (∀ r, kept = true → s.coil.closingSlot = some r → r.heldBack = true →
        t.coil.heldSlot = some (moved r) ∧ offered r t ∧
        ((∀ q, s.coil.openSlot = some q → q.state ≠ .ended) →
          t.coil = { s.coil with closingSlot := none, heldSlot := some (moved r) }) ∧
        (∀ q, s.coil.openSlot = some q → q.state = .ended →
          ∃ c, t.coil.closingSlot = some c ∧ c.coil = q.coil ∧ c.segment = q.segment)) ∧
      (∀ r, kept = true → ¬ fromClosing → s.coil.openSlot = some r → r.heldBack = true →
        t.coil = { s.coil with openSlot := none, heldSlot := some (moved r) } ∧ offered r t ∧
        (s.coil.next ≠ none → .coilHoldClear ∈ t.due)))

/-- The supply notice (R155): a GATHERING record is sealed with what has come; a coil in the making ends with SUPPLY and its
segment fixed, its timers and CH7 stopped and the twist and knot monitors asked, and is sealed in the OPEN slot without
gathering, as an ENDED one is, with RNG among its flags where the segment is negative (R30); COIL-END is cleared, and so is
the arithmetic status at a seal (R36). The questions of the protection unit are answered (R143, R154): the cut has ended
when no record is CUTTING, and a record is held back when one in any slot is marked so. -/
def Obligations.SupplySealsAndQuestionsAreAnswered : Prop :=
  ∀ s : State, s.begun = true → s.settings.coil = true →
    Completes .cutEndedQuestion s (fun t => Only [.due] s t ∧
      ∃ ended, t.due = s.due.erase .cutEndedQuestion ++ [.cutEndedAnswer ended] ∧
        (ended = true ↔ ∀ r, s.coil.openSlot = some r → r.state ≠ .cutting)) ∧
    Completes .heldBackQuestion s (fun t => Only [.due] s t ∧
      ∃ held, t.due = s.due.erase .heldBackQuestion ++ [.heldBackAnswer held] ∧
        (held = true ↔ ∃ r ∈ s.records, r.heldBack = true)) ∧
    Completes .supplyNotice s (fun t =>
      Only [.due, .meter, .line, .coil, .store] s t ∧ (.coilEnd ∈ s.prot.causes → .clearCause .coilEnd ∈ t.due) ∧
      (∀ r, s.coil.closingSlot = some r → r.state = .gathering → HandedToStore (.keep r.coil) t ∧
        .channelStopRequest 7 ∈ t.due ∧
        ∃ q, t.coil.closingSlot = some q ∧ q.state = .sealing ∧ q.coil = r.coil ∧ ∀ c ∈ q.contributors, c.status ≠ .expected) ∧
      (∀ r, s.coil.openSlot = some r → r.state = .opened ∨ r.state = .ending ∨ r.state = .cutting →
        HandedToStore (.keep r.coil) t ∧ .channelStopRequest 7 ∈ t.due ∧ .coilHoldSet ∈ t.due ∧
        t.coil.restLeft = none ∧ t.coil.cutLeft = none ∧
        (s.settings.twist = true → .twistSegmentRequest (BitVec.ofNat 32 r.coil) ∈ t.due) ∧
        (s.settings.knot = true → .knotSegmentRequest (BitVec.ofNat 32 r.coil) ∈ t.due) ∧
        ∃ q, t.coil.openSlot = some q ∧ q.state = .sealing ∧ q.coil = r.coil ∧ q.endReason = some .supply ∧
          q.segment = some (mmOf (s.lineLength - r.startMicrometres)) ∧
          (s.lineLength < r.startMicrometres → q.flags.rng = true) ∧ ∀ c ∈ q.contributors, c.status ≠ .expected) ∧
      (∀ r, s.coil.openSlot = some r → r.state = .ended → HandedToStore (.keep r.coil) t ∧
        ∃ q, t.coil.openSlot = some q ∧ q.state = .sealing ∧ q.coil = r.coil ∧ q.endReason = r.endReason ∧
          q.segment = r.segment) ∧
      (∀ r, s.coil.openSlot = some r → r.state = .sealing → t.coil.openSlot = some r) ∧
      (0 ≤ s.lineLength →
        (∃ r, s.coil.closingSlot = some r ∧ r.state = .gathering) ∨
          (∃ r, s.coil.openSlot = some r ∧ (r.state = .opened ∨ r.state = .ending ∨ r.state = .cutting ∨ r.state = .ended)) →
        t.meter.flags = clearFlags ∧ t.meter.origin = .none))

/-! ### The record store -/

/-- Headers and keeps (R158, R160 to R164), with every byte taken but one where so said (log entry 5). The bytes of a
record's sector are those of Table 10-9 (that an entry without a tally carries no halts, flags or origin is the model's
choice: log entry 46). The search for a header's sector takes the write pointer's sector where it is ERASED and not the
first of its bank, else judges the bank that the pointer is or moves to: one whose sectors are all ERASED is used, one that
may be erased is erased first, and else the store is FULL with the pointer there; that the pointer stands at the bank's
first sector while the bank is erased is the model's choice (log entry 43), and that a record anchored at a SEALED sector
counts as kept is its inference (log entry 13). Bytes are programmed only where all read erased, the sector's entry follows,
and the record, in whichever slot it stands, is anchored there; a byte that is not erased is an ADDRESS-ERROR, one that
reads back otherwise than written a DATA-ERROR, and a VOID-MARK follows. A keep programs the body at the anchor or the whole
record at a sector found; a failed one searches once more and programs the whole record there, and a second failure sets
FAULT; each is reported kept or not. A record in the HELD slot that is not kept and not offered is offered before a seal
that is handed over, at the first place of the queue or behind four that wait, and at a completion that clears FULL, where
the bank at the pointer could be used or erased, before the oldest operation that waits (log entry 43). -/
def Obligations.HeadersAndBodiesAreProgrammed : Prop :=
  (∀ r : CoilRecord, RecordFits r →
    let b := headerBytes r ++ bodyBytes r
    let n (i k : Nat) := natBE ((b.drop i).take k)
    let bit (i k : Nat) := (byteAt b i).getLsbD k
    let ones (lo hi : Nat) := ∀ i, lo ≤ i → i < hi → byteAt b i = 0xFF
    let noughts (lo hi : Nat) := ∀ i, lo ≤ i → i < hi → byteAt b i = 0
    let flagged (i : Nat) (f : ArithFlags) := bit i 3 = f.ovf ∧ bit i 2 = f.unf ∧ bit i 1 = f.dvz ∧ bit i 0 = f.rng
    headerBytes r = b.take 32 ∧ b.length = 256 ∧ n 0 1 = 0xA5 ∧ n 1 1 = r.station.val ∧ n 2 1 = r.group % 256 ∧
    n 3 1 = (if r.net = true then 2 else 1) ∧ n 4 4 = r.coil % 4294967296 ∧ n 8 4 = r.startLength % 4294967296 ∧
    n 12 4 = r.target % 4294967296 ∧ n 16 1 = 0xFF ∧ n 17 2 = (crc (b.take 16 ++ (b.drop 19).take 13)).toNat ∧ ones 19 32 ∧
    (r.endReason = none → n 32 1 = 0) ∧ (r.endReason = some .target → n 32 1 = 1) ∧ (r.endReason = some .manual → n 32 1 = 2) ∧
    (r.endReason = some .supply → n 32 1 = 3) ∧
    bit 33 7 = r.cutDriven ∧ bit 33 6 = r.twist.isSome ∧ bit 33 5 = r.knot.isSome ∧ n 33 1 % 32 = 0 ∧
    (∀ l, r.segment = some l → n 34 4 = l % 4294967296) ∧ (r.segment = none → ones 34 38) ∧
    n 38 2 = r.haltCount % 65536 ∧ n 40 2 = r.spliceCount % 65536 ∧ n 42 1 = r.ownHalts % 256 ∧ n 43 2 = r.lateCount % 65536 ∧
    flagged 45 r.flags ∧ n 45 1 < 16 ∧ n 46 1 / 16 = r.halts.length ∧ n 46 1 % 16 = r.splices.length ∧
    (∀ i h, r.halts[i]? = some h → n (47 + 7 * i) 1 = h.code.toNat ∧ n (48 + 7 * i) 1 = h.station.val ∧
      n (49 + 7 * i) 4 = h.offset % 4294967296 ∧ n (53 + 7 * i) 1 = if h.stopped = true then 1 else 0) ∧
    ones (47 + 7 * r.halts.length) 103 ∧
    (∀ i l, r.splices[i]? = some l → n (103 + 4 * i) 4 = l % 4294967296) ∧ ones (103 + 4 * r.splices.length) 135 ∧
    (r.twist = none → noughts 135 160) ∧
    (∀ w, r.twist = some w → n 135 4 = w.windows % 4294967296 ∧ n 139 4 = w.outOfBand % 4294967296 ∧
      n 143 4 = w.stalled % 4294967296 ∧ n 147 4 = w.layFaults % 4294967296 ∧ n 151 3 = w.minLay.getD 0 % 16777216 ∧
      n 154 3 = w.maxLay.getD 0 % 16777216 ∧
      n 157 3 = if w.layWindows = 0 then 0 else w.sumLay / w.layWindows % 16777216) ∧
    (r.knot = none → noughts 160 192) ∧
    (∀ w, r.knot = some w → n 160 4 = w.sampledRows % 4294967296 ∧ n 164 4 = w.unseenRows % 4294967296 ∧
      n 168 4 = w.inchRows % 4294967296 ∧ n 172 4 = w.missedKnots % 4294967296 ∧ n 176 4 = w.headFaults % 4294967296 ∧
      n 180 4 = w.meshWindows % 4294967296 ∧ n 184 4 = w.meshOutOfBand % 4294967296 ∧ n 188 4 = w.meshFaults % 4294967296) ∧
    n 192 1 = r.contributors.length ∧
    (∀ i c, r.contributors[i]? = some c → bit (193 + 4 * i) 7 = c.listed ∧ n (193 + 4 * i) 1 % 128 = c.station.val ∧
      (c.status = .expected → n (194 + 4 * i) 1 / 64 = 0) ∧ (c.status = .received → n (194 + 4 * i) 1 / 64 = 1) ∧
      (c.status = .missing → n (194 + 4 * i) 1 / 64 = 2) ∧ flagged (194 + 4 * i) c.flags ∧
      n (195 + 4 * i) 1 = c.halts % 256 ∧ byteAt b (196 + 4 * i) = c.origin) ∧
    ones (193 + 4 * r.contributors.length) 253 ∧ n 253 2 = (crc ((b.drop 32).take 221)).toNat ∧ n 255 1 = 0x5C) ∧
  (∀ (n : Nat) (s : State), s.begun = true → s.settings.coil = true → s.coil.openSlot = none → s.coil.next = some n →
    s.store.inFlight = none → s.store.waiting = [] →
    let p := s.store.pointer
    let b := if p % 16 = 0 then p / 16 else if p / 16 = 15 then 1 else p / 16 + 1
    let here := p % 16 ≠ 0 ∧ s.sectorClass p = .erased
    let erased := ∀ i, i < 16 → s.sectorClass (16 * b + i) = .erased
    let spent (e : SectorEntry) := e.cls = .erased ∨ e.cls = .void ∨ e.cls = .damaged ∨
      ((e.cls = .sealed ∨ e.cls = .lost) ∧ e.collected = true)
    let anchored := ∃ r ∈ s.records, s.recordKept r = false ∧ ∃ q, r.anchor = some q ∧ q / 16 = b
    let erasable := ¬ anchored ∧ (s.store.wrap = true ∨ ∀ i, i < 16 → spent (s.sectorEntry (16 * b + i)))
    Completes .coilRunningEntry s (fun t => ∃ image, image.length = 32 ∧ t.memory = s.memory ∧
      (∃ r, t.coil.openSlot = some r ∧ r.coil = n ∧ image = headerBytes r) ∧
      (here → t.store = { s.store with
        pointer := if p = 255 then 16 else p + 1
        inFlight := some ⟨.programHeader n image, .program p, false, 2000⟩ }) ∧
      (¬ here → 1 ≤ b → b ≤ 15 → erased → t.store = { s.store with
        pointer := 16 * b + 1, inFlight := some ⟨.programHeader n image, .program (16 * b), false, 2000⟩ }) ∧
      (¬ here → ¬ erased → erasable → t.store = { s.store with
        pointer := 16 * b, inFlight := some ⟨.programHeader n image, .erase b 1, false, 50000⟩ }) ∧
      (¬ here → ¬ erased → ¬ erasable → t.store = { s.store with
        pointer := 16 * b, full := true, inFlight := some ⟨.programHeader n image, .nothing, false, 2000⟩ }))) ∧
  (∀ (h r : CoilRecord) (f : InFlight) (left : Nat) (s : State), s.coil.heldSlot = some h → s.recordKept h = false →
    StoreOp.keep h.coil ∉ s.store.waiting →
    let p := s.store.pointer
    let b := if p % 16 = 0 then p / 16 else if p / 16 = 15 then 1 else p / 16 + 1
    let spent (e : SectorEntry) := e.cls = .erased ∨ e.cls = .void ∨ e.cls = .damaged ∨
      ((e.cls = .sealed ∨ e.cls = .lost) ∧ e.collected = true)
    let anchored := ∃ q ∈ s.records, s.recordKept q = false ∧ ∃ a, q.anchor = some a ∧ a / 16 = b
    let usable := (p % 16 ≠ 0 ∧ s.sectorClass p = .erased) ∨ (∀ i, i < 16 → s.sectorClass (16 * b + i) = .erased) ∨
      (¬ anchored ∧ (s.store.wrap = true ∨ ∀ i, i < 16 → spent (s.sectorEntry (16 * b + i))))
    (s.coil.closingSlot = some r → r.state = .gathering → s.store.inFlight = some f → f.op ≠ .keep h.coil →
      Completes .tallyWaitExpiry s (fun t => t.store.inFlight = some f ∧
        t.store.waiting = (if s.store.waiting.length < 4 then .keep h.coil :: s.store.waiting
          else s.store.waiting.take 4 ++ .keep h.coil :: s.store.waiting.drop 4) ++ [.keep r.coil])) ∧
    (s.coil.closingSlot = some r → r.state = .gathering → s.store.inFlight = none → s.store.waiting = [] →
      Completes .tallyWaitExpiry s (fun t => t.store.waiting = [.keep r.coil] ∧
        ∃ g, t.store.inFlight = some g ∧ g.op = .keep h.coil)) ∧
    (∀ first last source, s.store.inFlight = some ⟨.checkRange first last source, .work, false, left⟩ → s.store.full = true →
      Completes .checkComplete s (fun t =>
        (1 ≤ b → b ≤ 15 → ¬ usable → t.store.full = true) ∧
        (1 ≤ b → b ≤ 15 → usable → s.store.waiting.length < 4 → t.store.full = false ∧ t.store.waiting = s.store.waiting ∧
          ∃ g, t.store.inFlight = some g ∧ g.op = .keep h.coil)))) ∧
  ∀ (r : CoilRecord) (image : List Byte) (left : Nat) (s : State), s.memory.wf →
    s.store.table.length = 240 → r ∈ s.records → (∀ q ∈ s.records, q.coil = r.coil → q = r) → image.length = 32 →
    let blank (lo hi : Nat) := ∀ i, lo ≤ i → i < hi → s.memory.read i = 0xFF
    let report (kept : Bool) := Instr.keepReport (BitVec.ofNat 32 r.coil) kept
    let put (p : Nat) (q : CoilRecord) : CoilRecord := if q.coil = r.coil then { q with anchor := some p } else q
    let anchoredAt (p : Nat) (t : State) := t.coil = { s.coil with
      openSlot := s.coil.openSlot.map (put p), closingSlot := s.coil.closingSlot.map (put p),
      heldSlot := s.coil.heldSlot.map (put p) }
    let alone (p : Nat) := ∀ q ∈ s.records, q ≠ r → q.anchor ≠ some p
    let parts : List Part := [.due, .meter, .line, .coil, .store, .memory]
    let fails (p : Nat) := if r.anchor = some p then ¬ blank (256 * p + 32) (256 * p + 256) else ¬ blank (256 * p) (256 * p + 256)
    (∀ p, 16 ≤ p → p ≤ 255 → s.store.inFlight = some ⟨.programHeader r.coil image, .program p, false, left⟩ →
      Completes (.programHeaderComplete []) s (fun t => Only parts s t ∧
        (blank (256 * p) (256 * p + 32) →
          t.memory.readRange (256 * p) 32 = image ∧ KeepsOutside (256 * p) (256 * p + 32) s t ∧
          t.sectorEntry p = ⟨.openOnly, s.station, r.coil, false⟩ ∧ anchoredAt p t) ∧
        (¬ blank (256 * p) (256 * p + 32) →
          t.store.addressErrors = holdInc 65535 s.store.addressErrors ∧
          KeepsOutside (256 * p + 255) (256 * p + 256) s t ∧ t.memory.read (256 * p + 255) = 0 ∧
          (t.sectorClass p = .void ∨ t.sectorClass p = .damaged) ∧ ∀ q ∈ t.records, q.anchor ≠ some p)) ∧
      ∀ a v, 256 * p ≤ a → a < 256 * p + 32 → v ≠ byteAt image (a - 256 * p) → blank (256 * p) (256 * p + 32) →
        Completes (.programHeaderComplete [(a, v)]) s (fun t => Only parts s t ∧
          t.store.dataErrors = holdInc 65535 s.store.dataErrors ∧ t.store.addressErrors = s.store.addressErrors ∧
          (∀ i, i < 32 → t.memory.read (256 * p + i) = if 256 * p + i = a then v else byteAt image i) ∧
          (∀ x, x < 256 * p ∨ 256 * p + 32 ≤ x → x ≠ 256 * p + 255 → t.memory.read x = s.memory.read x) ∧
          t.memory.read (256 * p + 255) = 0 ∧ (t.sectorClass p = .void ∨ t.sectorClass p = .damaged) ∧
          ∀ q ∈ t.records, q.anchor ≠ some p)) ∧
    (∀ b, 1 ≤ b → b ≤ 15 → s.store.inFlight = some ⟨.programHeader r.coil image, .erase b 1, false, left⟩ →
      Completes (.programHeaderComplete []) s (fun t => Only parts s t ∧ KeepsOutside (4096 * b) (4096 * b + 4096) s t ∧
        t.memory.readRange (4096 * b) 32 = image ∧ (∀ a, 4096 * b + 32 ≤ a → a < 4096 * b + 4096 → t.memory.read a = 0xFF) ∧
        t.sectorEntry (16 * b) = ⟨.openOnly, s.station, r.coil, false⟩ ∧ anchoredAt (16 * b) t ∧
        (∀ i, 1 ≤ i → i < 16 → t.sectorClass (16 * b + i) = .erased) ∧
        (s.store.full = false → s.store.waiting = [] → t.store.pointer = 16 * b + 1))) ∧
    (s.store.inFlight = some ⟨.programHeader r.coil image, .nothing, false, left⟩ →
      Completes (.programHeaderComplete []) s (fun t => Only [.due, .meter, .line, .store] s t)) ∧
    (∀ p, 16 ≤ p → p ≤ 255 → r.anchor = some p → s.store.inFlight = some ⟨.keep r.coil, .program p, false, left⟩ →
      blank (256 * p + 32) (256 * p + 256) → (bodyBytes r).length = 224 →
      Completes (.keepComplete []) s (fun t => Only parts s t ∧
        t.memory.readRange (256 * p + 32) 224 = bodyBytes r ∧ KeepsOutside (256 * p + 32) (256 * p + 256) s t ∧
        t.sectorEntry p = ⟨.sealed, r.station, r.coil, false⟩ ∧ t.coil = s.coil ∧ report true ∈ t.due)) ∧
    (∀ p retry, 16 ≤ p → p ≤ 255 → r.anchor = none → s.store.inFlight = some ⟨.keep r.coil, .program p, retry, left⟩ →
      blank (256 * p) (256 * p + 256) → (recordBytes r).length = 256 →
      Completes (.keepComplete []) s (fun t => Only parts s t ∧
        t.memory.readRange (256 * p) 256 = headerBytes r ++ bodyBytes r ∧ KeepsOutside (256 * p) (256 * p + 256) s t ∧
        t.sectorEntry p = ⟨.sealed, r.station, r.coil, false⟩ ∧ anchoredAt p t ∧ report true ∈ t.due)) ∧
    (∀ p q, 16 ≤ p → p ≤ 255 → 16 ≤ q → q ≤ 255 → p ≠ q → (r.anchor = none ∨ r.anchor = some p) → alone p →
      s.store.inFlight = some ⟨.keep r.coil, .program p, false, left⟩ → fails p →
      s.store.pointer = q → q % 16 ≠ 0 → s.sectorClass q = .erased → blank (256 * q) (256 * q + 256) → (recordBytes r).length = 256 →
      Completes (.keepComplete []) s (fun t => Only parts s t ∧ t.store.addressErrors = holdInc 65535 s.store.addressErrors ∧
        t.memory.read (256 * p + 255) = 0 ∧ (t.sectorClass p = .void ∨ t.sectorClass p = .damaged) ∧
        t.memory.readRange (256 * q) 256 = headerBytes r ++ bodyBytes r ∧
        t.sectorEntry q = ⟨.sealed, r.station, r.coil, false⟩ ∧ anchoredAt q t ∧ t.store.fault = s.store.fault ∧
        report true ∈ t.due)) ∧
    (∀ p q a v, 16 ≤ p → p ≤ 255 → 16 ≤ q → q ≤ 255 → p ≠ q → r.anchor = some p → alone p →
      s.store.inFlight = some ⟨.keep r.coil, .program p, false, left⟩ → blank (256 * p + 32) (256 * p + 256) →
      256 * p + 32 ≤ a → a < 256 * p + 255 → v ≠ byteAt (bodyBytes r) (a - (256 * p + 32)) →
      s.store.pointer = q → q % 16 ≠ 0 → s.sectorClass q = .erased → blank (256 * q) (256 * q + 256) → (recordBytes r).length = 256 →
      Completes (.keepComplete [(a, v)]) s (fun t => Only parts s t ∧ t.store.dataErrors = holdInc 65535 s.store.dataErrors ∧
        t.store.addressErrors = s.store.addressErrors ∧ t.memory.read a = v ∧ t.memory.read (256 * p + 255) = 0 ∧
        (t.sectorClass p = .void ∨ t.sectorClass p = .damaged) ∧
        t.memory.readRange (256 * q) 256 = headerBytes r ++ bodyBytes r ∧
        t.sectorEntry q = ⟨.sealed, r.station, r.coil, false⟩ ∧ anchoredAt q t ∧ report true ∈ t.due)) ∧
    (∀ p, 16 ≤ p → p ≤ 255 → r.anchor = none → s.store.inFlight = some ⟨.keep r.coil, .program p, true, left⟩ → fails p →
      alone p → Completes (.keepComplete []) s (fun t => Only parts s t ∧ t.store.fault = true ∧ t.coil = s.coil ∧
        t.memory.read (256 * p + 255) = 0 ∧ KeepsOutside (256 * p + 255) (256 * p + 256) s t ∧ report false ∈ t.due)) ∧
    (∀ retry, r.anchor = none → s.store.inFlight = some ⟨.keep r.coil, .nothing, retry, left⟩ →
      Completes (.keepComplete []) s (fun t => Only [.due, .meter, .line, .store] s t ∧ report false ∈ t.due))

/-- The store's operations for terminals that complete, and the start-up scan's (R163, R165, R168, R170, R172, R183), with
the bytes that the operand says take another value (the form of that operand is the model's choice: log entry 5): a bank
erase leaves its bank erased but for those bytes, a sector that does not read erased is DAMAGED, and the answer is DONE or
DAMAGED; a COLLECTED run goes once round the ring from the write pointer and marks each SEALED or LOST sector of the coil
number or below that is not collected, and answers the number of those that took the mark; one whose collected byte does not
read erased, or reads back otherwise than written, is counted as an error, stays not collected and is not VOID-marked (the
model's inference from R168 over R163: log entry 21); and a reset during it leaves the sectors that it has gone through
marked and every other byte as it was (log entry 5); a READ takes the SEALED or LOST sector of the coil number that comes
last in the ring, and answers the parts asked for in ascending order, as far as the queue has room, an empty set being all
eight, DAMAGED where its body check fails, or ABSENT where there is none (that an unknown coil is answered at the completion
too is the model's inference: log entry 22); a commit leaves the image in bank 0 and answers DONE, or DAMAGED where bank 0
did not read back erased or a byte otherwise than written, which is counted as an error and brings no VOID-MARK; a LOST
completion programs the body of Table 10-9's note and the marker, or the marker alone over a body that is not erased, a body
byte that reads back otherwise is counted and the sector VOID-marked, with FAULT as it was, and the last completion ends the
scan. -/
def Obligations.StoreOperationsAreAnswered : Prop :=
  ∀ (source : Station) (left : Nat) (wear : Wear) (s : State), s.store.full = false → s.store.table.length = 240 →
    s.line.queue.length < 8 → s.memory.wf →
    let ring := (List.range 240).map (fun i => 16 + (s.store.pointer - 16 + i) % 240)
    let ended (p : Nat) := s.sectorClass p == .sealed || s.sectorClass p == .lost
    let lost : List Byte :=
      [4] ++ List.replicate 14 0 ++ List.replicate 88 0xFF ++ List.replicate 58 0 ++ List.replicate 60 0xFF
    let body : List Byte := lost ++ bytesBE 2 (crc lost).toNat
    let erased (t : State) (lo hi : Nat) := ∀ a, lo ≤ a → a < hi → t.memory.read a = 0xFF
    (∀ b, 1 ≤ b → b ≤ 15 → s.store.inFlight = some ⟨.eraseBank b source, .work, false, left⟩ →
      Completes (.eraseBankComplete wear) s (fun t => Only [.due, .meter, .line, .store, .memory] s t ∧
        (∀ a, 4096 * b ≤ a → a < 4096 * b + 4096 → wear.lookup a = none → t.memory.read a = 0xFF) ∧
        (∀ a v, wear = [(a, v)] → 4096 * b ≤ a → a < 4096 * b + 4096 → t.memory.read a = v) ∧
        KeepsOutside (4096 * b) (4096 * b + 4096) s t ∧
        (∀ p, p / 16 = b → (erased t (256 * p) (256 * p + 256) → t.sectorEntry p = .blank) ∧
          (¬ erased t (256 * p) (256 * p + 256) → t.sectorClass p = .damaged)) ∧
        (erased t (4096 * b) (4096 * b + 4096) → FrameContent.reply .erase source [0] ∈ t.contents) ∧
        (¬ erased t (4096 * b) (4096 * b + 4096) → FrameContent.reply .erase source [7] ∈ t.contents))) ∧
    (∀ upTo, s.store.inFlight = some ⟨.markCollected upTo source, .work, false, left⟩ →
      16 ≤ s.store.pointer → s.store.pointer ≤ 255 →
      let marks (p : Nat) := ended p && !(s.sectorEntry p).collected && decide ((s.sectorEntry p).coil ≤ upTo)
      let found := ring.filter marks
      let tried := found.filter (fun p => s.memory.read (256 * p + 16) == 0xFF)
      let value (p : Nat) := (wear.lookup (256 * p + 16)).getD 0
      let taken := tried.filter (fun p => value p == 0)
      Completes (.markCollectedComplete wear) s (fun t => Only [.due, .meter, .line, .store, .memory] s t ∧
        (∀ p ∈ taken, t.sectorEntry p = { s.sectorEntry p with collected := true }) ∧
        (∀ p, 16 ≤ p → p ≤ 255 → p ∉ taken → t.sectorEntry p = s.sectorEntry p) ∧
        (∀ p ∈ tried, t.memory.read (256 * p + 16) = value p) ∧
        (∀ a, (∀ p ∈ tried, a ≠ 256 * p + 16) → t.memory.read a = s.memory.read a) ∧
        t.store.addressErrors = Nat.repeat (holdInc 65535) (found.length - tried.length) s.store.addressErrors ∧
        t.store.dataErrors = Nat.repeat (holdInc 65535) (tried.length - taken.length) s.store.dataErrors ∧
        FrameContent.reply .collected source [0, BitVec.ofNat 8 taken.length] ∈ t.contents) ∧
      ∀ (station : Station) (commission : Bool) (torn : Torn),
        let gone := (found.take torn.written).filter (fun p => s.memory.read (256 * p + 16) == 0xFF)
        Completes (.reset station commission torn) s (fun t => (∀ p ∈ gone, t.memory.read (256 * p + 16) = 0) ∧
          (∀ a, (∀ p ∈ gone, a ≠ 256 * p + 16) → t.memory.read a = s.memory.read a))) ∧
    (∀ coil parts, s.store.inFlight = some ⟨.readRecord coil parts source, .work, false, left⟩ →
      16 ≤ s.store.pointer → s.store.pointer ≤ 255 →
      let holds (p : Nat) := ended p = true ∧ (s.sectorEntry p).coil = coil
      let asked := (List.range 8).filter (fun i => parts == 0 || parts.getLsbD i)
      let part (p i : Nat) : FrameContent := .reply .recall source
        ([if bytesBE 2 (crc (s.memory.readRange (256 * p + 32) 221)).toNat = s.memory.readRange (256 * p + 253) 2 then 0 else 7,
          BitVec.ofNat 8 i] ++ s.memory.readRange (256 * p + 32 * i) 32)
      Completes .readComplete s (fun t => Only [.due, .meter, .line, .store] s t ∧
        ∃ more, (s.store.waiting = [] → more = []) ∧
          ((∀ p ∈ ring, ¬ holds p) → t.contents = s.contents ++ [.reply .recall source [6]] ++ more) ∧
          (∀ p older newer, ring = older ++ p :: newer → holds p → (∀ q ∈ newer, ¬ holds q) →
            t.contents = s.contents ++ (asked.map (part p)).take (8 - s.contents.length) ++ more))) ∧
    (∀ image, image.length = 256 → s.store.inFlight = some ⟨.commit image source, .erase 0 1, false, left⟩ →
      Completes (.commitComplete wear) s (fun t => Only [.due, .meter, .line, .store, .memory] s t ∧ KeepsOutside 0 4096 s t ∧
        ∃ (result : Byte) (more : List FrameContent),
          t.contents = s.contents ++ [.reply .setting source [result, 0xFF]] ++ more ∧ (result = 0 ∨ result = 7) ∧
          (result = 0 → t.memory.readRange 0 256 = image ∧ erased t 256 4096) ∧
          ((∀ a, a < 4096 → wear.lookup a = none) → result = 0) ∧
          (∀ a v, wear = [(a, v)] → a < 4096 → v ≠ 0xFF → result = 7 ∧ t.memory.read a = v ∧
            (a < 256 → t.store.addressErrors = holdInc 65535 s.store.addressErrors)) ∧
          (∀ a, wear = [(a, 0xFF)] → a < 256 → byteAt image a ≠ 0xFF → result = 7 ∧ t.memory.read a = 0xFF ∧
            t.store.dataErrors = holdInc 65535 s.store.dataErrors))) ∧
    (∀ p, 16 ≤ p → p ≤ 255 → s.store.inFlight = some ⟨.lostRecord p, .program p, false, left⟩ →
      let goesOn (t : State) := (s.store.scanLeft = [] → .startEvent ∈ t.due) ∧
        (∀ q rest, s.store.scanLeft = q :: rest → t.store.scanLeft = rest ∧
          ∃ f, t.store.inFlight = some f ∧ f.op = .lostRecord q)
      (erased s (256 * p + 32) (256 * p + 256) →
        Completes (.lostCompletion []) s (fun t => Only [.due, .meter, .line, .store, .memory] s t ∧
          t.memory.readRange (256 * p + 32) 224 = body ++ [0x3A] ∧ KeepsOutside (256 * p + 32) (256 * p + 256) s t ∧
          t.sectorEntry p = { s.sectorEntry p with cls := .lost } ∧ goesOn t)) ∧
      (¬ erased s (256 * p + 32) (256 * p + 255) → s.memory.read (256 * p + 255) = 0xFF →
        Completes (.lostCompletion []) s (fun t => Only [.due, .meter, .line, .store, .memory] s t ∧
          t.memory.read (256 * p + 255) = 0x3A ∧ KeepsOutside (256 * p + 255) (256 * p + 256) s t ∧
          t.sectorEntry p = { s.sectorEntry p with cls := .lost } ∧ goesOn t)) ∧
      (∀ a v, erased s (256 * p + 32) (256 * p + 256) → headerValid s.memory p = true → 256 * p + 32 ≤ a → a < 256 * p + 255 →
        v ≠ byteAt body (a - (256 * p + 32)) →
        Completes (.lostCompletion [(a, v)]) s (fun t => Only [.due, .meter, .line, .coil, .store, .memory] s t ∧
          t.memory.read a = v ∧ t.memory.read (256 * p + 255) = 0 ∧ KeepsOutside (256 * p + 32) (256 * p + 256) s t ∧
          t.sectorClass p = .void ∧ t.store.dataErrors = holdInc 65535 s.store.dataErrors ∧
          t.store.fault = s.store.fault ∧ goesOn t)))

/-! ### Service requests -/

/-- The key (R166, Table 9-5): LOCKED with no key station after reset; a KEY request changes it as the table gives and is
answered with the result and the new state; an ERASE and a SETTING that commits consume an OPEN key; a FROZEN key stays FROZEN
until reset. -/
def Obligations.KeyFollowsItsTable : Prop :=
  (∀ station commission torn s, Completes (.reset station commission torn) s (fun t =>
    t.store.key = .locked ∧ t.store.keyStation = none)) ∧
  (∀ (source : Station) (value : Byte) (s : State), s.startRec.started = true → s.startRec.station ≠ 0 →
    let answered (k : KeyState) (result code : Byte) (t : State) :=
      t.store.key = k ∧ Joined (.reply .key source [result, code]) s t
    Completes (.key source value) s (fun t => Only [.due, .meter, .line, .store] s t ∧
      { t.store with key := s.store.key, keyStation := s.store.keyStation } = s.store ∧
      (s.store.key = .locked → value = 0x3C → answered .half 0 1 t ∧ t.store.keyStation = some source) ∧
      (s.store.key = .locked → value ≠ 0x3C → answered .frozen 3 3 t) ∧
      (s.store.key = .half → value = 0xA7 → s.store.keyStation = some source → answered .opened 0 2 t) ∧
      (s.store.key = .half → value ≠ 0xA7 ∨ s.store.keyStation ≠ some source → answered .frozen 3 3 t) ∧
      (s.store.key = .opened → answered .frozen 3 3 t) ∧ (s.store.key = .frozen → answered .frozen 3 3 t))) ∧
  (∀ (source : Station) (bank : Byte) (s : State), s.startRec.started = true → s.startRec.station ≠ 0 →
    s.store.key = .opened →
    (s.begun = true → Completes (.erase source bank) s (fun t => t.store.key = .locked ∧ t.store.keyStation = none)) ∧
    Completes (.settingCommit source) s (fun t => t.store.key = .locked ∧ t.store.keyStation = none)) ∧
  (∀ (c : Instr) (s t : State), s.store.key = .frozen → (∀ a b d, c ≠ .reset a b d) → exec c s = .next t →
    t.store.key = .frozen)

/-- The requests that change the store's memory or the settings image (R165, R167, R174, R179, R183), judged in the order of
the rules: an ERASE by the permit state, the key, the bank, its anchors (that a record counts as kept when its anchor's
sector is SEALED is the model's inference: log entry 13) and the queue; a commit by the key, COMMISSION, the staged parts,
their validity and the queue; a part is staged where its index and length suit. -/
def Obligations.DestructiveRequestsAreJudged : Prop :=
  ∀ (source : Station) (s : State), s.startRec.started = true → s.startRec.station ≠ 0 →
    (∀ bank : Byte, Completes (.erase source bank) s (fun t =>
      let answered (result : Byte) := Joined (.reply .erase source [result]) s t
      let named := 1 ≤ bank.toNat ∧ bank.toNat ≤ 15
      Only [.due, .meter, .line, .store] s t ∧ (s.begun = false → answered 4 ∧ t.store = s.store) ∧
      (s.begun = true → s.store.key = .frozen → answered 3 ∧ t.store = s.store) ∧
      (s.begun = true → s.store.key = .locked ∨ s.store.key = .half → answered 2 ∧ t.store = s.store) ∧
      (s.begun = true → s.store.key = .opened → ¬ named → answered 5) ∧
      (s.begun = true → s.store.key = .opened → named → s.bankHoldsAnchor bank.toNat = true → answered 4) ∧
      (s.begun = true → s.store.key = .opened → named → s.bankHoldsAnchor bank.toNat = false →
        4 ≤ s.store.waiting.length → answered 1) ∧
      (s.begun = true → s.store.key = .opened → named → s.bankHoldsAnchor bank.toNat = false →
        s.store.waiting.length < 4 → HandedToStore (.eraseBank bank.toNat source) t))) ∧
    (∀ (index : Byte) (data : List Byte), Completes (.setting source index data) s (fun t =>
      let suits := index.toNat < 8 ∧ data.length = 32
      (suits → Only [.due, .startRec, .meter, .line] s t ∧ Joined (.reply .setting source [0, index]) s t ∧
        t.startRec = { s.startRec with
          staged := stagePart s.startRec.staged index.toNat data
          stagedParts := s.startRec.stagedParts ||| ((1 : BitVec 8) <<< index.toNat) }) ∧
      (¬ suits → ¬ (index = 0xFF ∧ data = []) → Only [.due, .meter, .line] s t ∧
        Joined (.reply .setting source [5, index]) s t))) ∧
    Completes (.settingCommit source) s (fun t =>
      let answered (result : Byte) := Joined (.reply .setting source [result, 0xFF]) s t
      let judged := s.store.key = .opened ∧ (s.begun = true → s.startRec.commission = true) ∧ s.startRec.stagedParts = 0xFF
      Only [.due, .meter, .line, .store] s t ∧ (s.store.key = .frozen → answered 3 ∧ t.store = s.store) ∧
      (s.store.key = .locked ∨ s.store.key = .half → answered 2 ∧ t.store = s.store) ∧
      (s.store.key = .opened → ¬ judged → answered 4) ∧
      (judged → imageValid s.startRec.staged = false → answered 5) ∧
      (judged → imageValid s.startRec.staged = true → 4 ≤ s.store.waiting.length → answered 1) ∧
      (judged → imageValid s.startRec.staged = true → s.store.waiting.length < 4 →
        HandedToStore (.commit s.startRec.staged source) t))

/-- The other requests (R36, R168, R170, R174, R175, R177, R178): a QUERY queues its STATUS reply; a RECALL and a COLLECTED
are BAD for coil 0, BUSY with four operations waiting, and else queued at the store; a TARGET replaces the pending target of a
COIL node; a CLEARFLAGS clears the arithmetic status; in UNSET the last three are answered STATE. -/
def Obligations.RequestsAreAnsweredOrQueued : Prop :=
  ∀ (source : Station) (s : State), s.startRec.started = true → s.startRec.station ≠ 0 →
    (∀ page : Byte, Completes (.query source page) s (fun t =>
      Only [.due, .meter, .line] s t ∧ Joined (.status source page) s t)) ∧
    (∀ (coil : BitVec 32) (parts : Byte), Completes (.recall source coil parts) s (fun t =>
      Only [.due, .meter, .line, .store] s t ∧ (coil = 0 → Joined (.reply .recall source [5]) s t ∧ t.store = s.store) ∧
      (coil ≠ 0 → 4 ≤ s.store.waiting.length → Joined (.reply .recall source [1]) s t ∧ t.store = s.store) ∧
      (coil ≠ 0 → s.store.waiting.length < 4 → HandedToStore (.readRecord coil.toNat parts source) t))) ∧
    (∀ coil : BitVec 32, Completes (.collected source coil) s (fun t =>
      Only [.due, .meter, .line, .store] s t ∧
      (s.begun = false → Joined (.reply .collected source [4]) s t ∧ t.store = s.store) ∧
      (s.begun = true → coil = 0 → Joined (.reply .collected source [5]) s t ∧ t.store = s.store) ∧
      (s.begun = true → coil ≠ 0 → 4 ≤ s.store.waiting.length → Joined (.reply .collected source [1]) s t ∧ t.store = s.store) ∧
      (s.begun = true → coil ≠ 0 → s.store.waiting.length < 4 → HandedToStore (.markCollected coil.toNat source) t))) ∧
    (∀ length : BitVec 32, Completes (.target source length) s (fun t =>
      Only [.due, .meter, .line, .coil] s t ∧
      (s.begun = true → s.settings.coil = true → length ≠ 0 → Joined (.reply .target source [0]) s t ∧
        t.coil = { s.coil with pendingTarget := length.toNat }) ∧
      (s.begun = true → s.settings.coil = true → length = 0 → Joined (.reply .target source [5]) s t ∧ t.coil = s.coil) ∧
      (s.begun = false ∨ (s.settings.coil = false ∧ length ≠ 0) → Joined (.reply .target source [4]) s t ∧
        t.coil = s.coil))) ∧
    Completes (.clearflags source) s (fun t => Only [.due, .meter, .line] s t ∧
      (s.begun = false → Joined (.reply .clearflags source [4]) s t) ∧
      (s.begun = true → Joined (.reply .clearflags source [0]) s t ∧
        ({ t.meter with flags := s.meter.flags, origin := s.meter.origin } = s.meter) ∧
        (s.settings.pacePublish = false → t.meter.flags = clearFlags ∧ t.meter.origin = .none)))

/-- CHECK (R169): BUSY with four operations waiting, and else queued over the sectors from the first up to the clamped last,
begun at once on an IDLE store and taking 500 µs a sector; at the completion the answer carries the CRC of R98 over all their
bytes in ascending order, the first sector and the last. -/
def Obligations.CheckCoversAClampedRange : Prop :=
  (∀ (source : Station) (first count : Byte) (s : State), s.startRec.started = true → s.startRec.station ≠ 0 →
    Completes (.check source first count) s (fun t => Only [.due, .meter, .line, .store] s t ∧
      (4 ≤ s.store.waiting.length → Joined (.reply .check source [1]) s t ∧ t.store = s.store) ∧
      (s.store.waiting.length < 4 →
        HandedToStore (.checkRange first.toNat (min (first.toNat + count.toNat) 255) source) t) ∧
      (s.store.waiting = [] → s.store.inFlight = none → ∃ f, t.store.inFlight = some f ∧
        f.left = 500 * (min (first.toNat + count.toNat) 255 + 1 - first.toNat)))) ∧
  (∀ (source : Station) (first last left : Nat) (s : State), first ≤ last → last ≤ 255 → s.line.queue.length < 8 →
    s.store.inFlight = some ⟨.checkRange first last source, .work, false, left⟩ →
    Completes .checkComplete s (fun t => Only [.due, .meter, .line, .store] s t ∧
      FrameContent.reply .check source ([0] ++ crcBytes (crc ((List.range (256 * (last + 1 - first))).map
        (fun i => s.memory.read (256 * first + i)))) ++ [BitVec.ofNat 8 first, BitVec.ofNat 8 last]) ∈ t.contents))
end

