-- ==== Sys2Proof/Laws/State.lean ====
section
/-! SUPPORT. One lemma per field per update of `State`, each true by `rfl`, so that no later proof unfolds a record update, and the
readers of the state that an update leaves alone. -/

namespace Sys2Proof.Machine

variable (s : State)

/-! ### `withLine` -/

@[simp] theorem State.withLine_pending (l : FloorLine) : (s.withLine l).pending = s.pending := rfl
@[simp] theorem State.withLine_due (l : FloorLine) : (s.withLine l).due = s.due := rfl
@[simp] theorem State.withLine_pins (l : FloorLine) : (s.withLine l).pins = s.pins := rfl
@[simp] theorem State.withLine_startRec (l : FloorLine) : (s.withLine l).startRec = s.startRec := rfl
@[simp] theorem State.withLine_settings (l : FloorLine) : (s.withLine l).settings = s.settings := rfl
@[simp] theorem State.withLine_channels (l : FloorLine) : (s.withLine l).channels = s.channels := rfl
@[simp] theorem State.withLine_meter (l : FloorLine) : (s.withLine l).meter = s.meter := rfl
@[simp] theorem State.withLine_twist (l : FloorLine) : (s.withLine l).twist = s.twist := rfl
@[simp] theorem State.withLine_sampler (l : FloorLine) : (s.withLine l).sampler = s.sampler := rfl
@[simp] theorem State.withLine_knot (l : FloorLine) : (s.withLine l).knot = s.knot := rfl
@[simp] theorem State.withLine_line (l : FloorLine) : (s.withLine l).line = l := rfl
@[simp] theorem State.withLine_peers (l : FloorLine) : (s.withLine l).peers = s.peers := rfl
@[simp] theorem State.withLine_prot (l : FloorLine) : (s.withLine l).prot = s.prot := rfl
@[simp] theorem State.withLine_coil (l : FloorLine) : (s.withLine l).coil = s.coil := rfl
@[simp] theorem State.withLine_store (l : FloorLine) : (s.withLine l).store = s.store := rfl
@[simp] theorem State.withLine_memory (l : FloorLine) : (s.withLine l).memory = s.memory := rfl
@[simp] theorem State.withLine_world (l : FloorLine) : (s.withLine l).world = s.world := rfl

/-! ### `withProt` -/

@[simp] theorem State.withProt_pending (p : Protection) : (s.withProt p).pending = s.pending := rfl
@[simp] theorem State.withProt_due (p : Protection) : (s.withProt p).due = s.due := rfl
@[simp] theorem State.withProt_pins (p : Protection) : (s.withProt p).pins = s.pins := rfl
@[simp] theorem State.withProt_startRec (p : Protection) : (s.withProt p).startRec = s.startRec := rfl
@[simp] theorem State.withProt_settings (p : Protection) : (s.withProt p).settings = s.settings := rfl
@[simp] theorem State.withProt_channels (p : Protection) : (s.withProt p).channels = s.channels := rfl
@[simp] theorem State.withProt_meter (p : Protection) : (s.withProt p).meter = s.meter := rfl
@[simp] theorem State.withProt_twist (p : Protection) : (s.withProt p).twist = s.twist := rfl
@[simp] theorem State.withProt_sampler (p : Protection) : (s.withProt p).sampler = s.sampler := rfl
@[simp] theorem State.withProt_knot (p : Protection) : (s.withProt p).knot = s.knot := rfl
@[simp] theorem State.withProt_line (p : Protection) : (s.withProt p).line = s.line := rfl
@[simp] theorem State.withProt_peers (p : Protection) : (s.withProt p).peers = s.peers := rfl
@[simp] theorem State.withProt_prot (p : Protection) : (s.withProt p).prot = p := rfl
@[simp] theorem State.withProt_coil (p : Protection) : (s.withProt p).coil = s.coil := rfl
@[simp] theorem State.withProt_store (p : Protection) : (s.withProt p).store = s.store := rfl
@[simp] theorem State.withProt_memory (p : Protection) : (s.withProt p).memory = s.memory := rfl
@[simp] theorem State.withProt_world (p : Protection) : (s.withProt p).world = s.world := rfl

/-! ### `withStore` -/

@[simp] theorem State.withStore_pending (x : Store) : (s.withStore x).pending = s.pending := rfl
@[simp] theorem State.withStore_due (x : Store) : (s.withStore x).due = s.due := rfl
@[simp] theorem State.withStore_pins (x : Store) : (s.withStore x).pins = s.pins := rfl
@[simp] theorem State.withStore_startRec (x : Store) : (s.withStore x).startRec = s.startRec := rfl
@[simp] theorem State.withStore_settings (x : Store) : (s.withStore x).settings = s.settings := rfl
@[simp] theorem State.withStore_channels (x : Store) : (s.withStore x).channels = s.channels := rfl
@[simp] theorem State.withStore_meter (x : Store) : (s.withStore x).meter = s.meter := rfl
@[simp] theorem State.withStore_twist (x : Store) : (s.withStore x).twist = s.twist := rfl
@[simp] theorem State.withStore_sampler (x : Store) : (s.withStore x).sampler = s.sampler := rfl
@[simp] theorem State.withStore_knot (x : Store) : (s.withStore x).knot = s.knot := rfl
@[simp] theorem State.withStore_line (x : Store) : (s.withStore x).line = s.line := rfl
@[simp] theorem State.withStore_peers (x : Store) : (s.withStore x).peers = s.peers := rfl
@[simp] theorem State.withStore_prot (x : Store) : (s.withStore x).prot = s.prot := rfl
@[simp] theorem State.withStore_coil (x : Store) : (s.withStore x).coil = s.coil := rfl
@[simp] theorem State.withStore_store (x : Store) : (s.withStore x).store = x := rfl
@[simp] theorem State.withStore_memory (x : Store) : (s.withStore x).memory = s.memory := rfl
@[simp] theorem State.withStore_world (x : Store) : (s.withStore x).world = s.world := rfl

/-! ### `withCoil` -/

@[simp] theorem State.withCoil_pending (x : CoilBuilder) : (s.withCoil x).pending = s.pending := rfl
@[simp] theorem State.withCoil_due (x : CoilBuilder) : (s.withCoil x).due = s.due := rfl
@[simp] theorem State.withCoil_pins (x : CoilBuilder) : (s.withCoil x).pins = s.pins := rfl
@[simp] theorem State.withCoil_startRec (x : CoilBuilder) : (s.withCoil x).startRec = s.startRec := rfl
@[simp] theorem State.withCoil_settings (x : CoilBuilder) : (s.withCoil x).settings = s.settings := rfl
@[simp] theorem State.withCoil_channels (x : CoilBuilder) : (s.withCoil x).channels = s.channels := rfl
@[simp] theorem State.withCoil_meter (x : CoilBuilder) : (s.withCoil x).meter = s.meter := rfl
@[simp] theorem State.withCoil_twist (x : CoilBuilder) : (s.withCoil x).twist = s.twist := rfl
@[simp] theorem State.withCoil_sampler (x : CoilBuilder) : (s.withCoil x).sampler = s.sampler := rfl
@[simp] theorem State.withCoil_knot (x : CoilBuilder) : (s.withCoil x).knot = s.knot := rfl
@[simp] theorem State.withCoil_line (x : CoilBuilder) : (s.withCoil x).line = s.line := rfl
@[simp] theorem State.withCoil_peers (x : CoilBuilder) : (s.withCoil x).peers = s.peers := rfl
@[simp] theorem State.withCoil_prot (x : CoilBuilder) : (s.withCoil x).prot = s.prot := rfl
@[simp] theorem State.withCoil_coil (x : CoilBuilder) : (s.withCoil x).coil = x := rfl
@[simp] theorem State.withCoil_store (x : CoilBuilder) : (s.withCoil x).store = s.store := rfl
@[simp] theorem State.withCoil_memory (x : CoilBuilder) : (s.withCoil x).memory = s.memory := rfl
@[simp] theorem State.withCoil_world (x : CoilBuilder) : (s.withCoil x).world = s.world := rfl

/-! ### `withMeter` -/

@[simp] theorem State.withMeter_pending (x : Metering) : (s.withMeter x).pending = s.pending := rfl
@[simp] theorem State.withMeter_due (x : Metering) : (s.withMeter x).due = s.due := rfl
@[simp] theorem State.withMeter_pins (x : Metering) : (s.withMeter x).pins = s.pins := rfl
@[simp] theorem State.withMeter_startRec (x : Metering) : (s.withMeter x).startRec = s.startRec := rfl
@[simp] theorem State.withMeter_settings (x : Metering) : (s.withMeter x).settings = s.settings := rfl
@[simp] theorem State.withMeter_channels (x : Metering) : (s.withMeter x).channels = s.channels := rfl
@[simp] theorem State.withMeter_meter (x : Metering) : (s.withMeter x).meter = x := rfl
@[simp] theorem State.withMeter_twist (x : Metering) : (s.withMeter x).twist = s.twist := rfl
@[simp] theorem State.withMeter_sampler (x : Metering) : (s.withMeter x).sampler = s.sampler := rfl
@[simp] theorem State.withMeter_knot (x : Metering) : (s.withMeter x).knot = s.knot := rfl
@[simp] theorem State.withMeter_line (x : Metering) : (s.withMeter x).line = s.line := rfl
@[simp] theorem State.withMeter_peers (x : Metering) : (s.withMeter x).peers = s.peers := rfl
@[simp] theorem State.withMeter_prot (x : Metering) : (s.withMeter x).prot = s.prot := rfl
@[simp] theorem State.withMeter_coil (x : Metering) : (s.withMeter x).coil = s.coil := rfl
@[simp] theorem State.withMeter_store (x : Metering) : (s.withMeter x).store = s.store := rfl
@[simp] theorem State.withMeter_memory (x : Metering) : (s.withMeter x).memory = s.memory := rfl
@[simp] theorem State.withMeter_world (x : Metering) : (s.withMeter x).world = s.world := rfl

/-! ### `withTwist` -/

@[simp] theorem State.withTwist_pending (x : Twist) : (s.withTwist x).pending = s.pending := rfl
@[simp] theorem State.withTwist_due (x : Twist) : (s.withTwist x).due = s.due := rfl
@[simp] theorem State.withTwist_pins (x : Twist) : (s.withTwist x).pins = s.pins := rfl
@[simp] theorem State.withTwist_startRec (x : Twist) : (s.withTwist x).startRec = s.startRec := rfl
@[simp] theorem State.withTwist_settings (x : Twist) : (s.withTwist x).settings = s.settings := rfl
@[simp] theorem State.withTwist_channels (x : Twist) : (s.withTwist x).channels = s.channels := rfl
@[simp] theorem State.withTwist_meter (x : Twist) : (s.withTwist x).meter = s.meter := rfl
@[simp] theorem State.withTwist_twist (x : Twist) : (s.withTwist x).twist = x := rfl
@[simp] theorem State.withTwist_sampler (x : Twist) : (s.withTwist x).sampler = s.sampler := rfl
@[simp] theorem State.withTwist_knot (x : Twist) : (s.withTwist x).knot = s.knot := rfl
@[simp] theorem State.withTwist_line (x : Twist) : (s.withTwist x).line = s.line := rfl
@[simp] theorem State.withTwist_peers (x : Twist) : (s.withTwist x).peers = s.peers := rfl
@[simp] theorem State.withTwist_prot (x : Twist) : (s.withTwist x).prot = s.prot := rfl
@[simp] theorem State.withTwist_coil (x : Twist) : (s.withTwist x).coil = s.coil := rfl
@[simp] theorem State.withTwist_store (x : Twist) : (s.withTwist x).store = s.store := rfl
@[simp] theorem State.withTwist_memory (x : Twist) : (s.withTwist x).memory = s.memory := rfl
@[simp] theorem State.withTwist_world (x : Twist) : (s.withTwist x).world = s.world := rfl

/-! ### `withSampler` -/

@[simp] theorem State.withSampler_pending (x : Sampler) : (s.withSampler x).pending = s.pending := rfl
@[simp] theorem State.withSampler_due (x : Sampler) : (s.withSampler x).due = s.due := rfl
@[simp] theorem State.withSampler_pins (x : Sampler) : (s.withSampler x).pins = s.pins := rfl
@[simp] theorem State.withSampler_startRec (x : Sampler) : (s.withSampler x).startRec = s.startRec := rfl
@[simp] theorem State.withSampler_settings (x : Sampler) : (s.withSampler x).settings = s.settings := rfl
@[simp] theorem State.withSampler_channels (x : Sampler) : (s.withSampler x).channels = s.channels := rfl
@[simp] theorem State.withSampler_meter (x : Sampler) : (s.withSampler x).meter = s.meter := rfl
@[simp] theorem State.withSampler_twist (x : Sampler) : (s.withSampler x).twist = s.twist := rfl
@[simp] theorem State.withSampler_sampler (x : Sampler) : (s.withSampler x).sampler = x := rfl
@[simp] theorem State.withSampler_knot (x : Sampler) : (s.withSampler x).knot = s.knot := rfl
@[simp] theorem State.withSampler_line (x : Sampler) : (s.withSampler x).line = s.line := rfl
@[simp] theorem State.withSampler_peers (x : Sampler) : (s.withSampler x).peers = s.peers := rfl
@[simp] theorem State.withSampler_prot (x : Sampler) : (s.withSampler x).prot = s.prot := rfl
@[simp] theorem State.withSampler_coil (x : Sampler) : (s.withSampler x).coil = s.coil := rfl
@[simp] theorem State.withSampler_store (x : Sampler) : (s.withSampler x).store = s.store := rfl
@[simp] theorem State.withSampler_memory (x : Sampler) : (s.withSampler x).memory = s.memory := rfl
@[simp] theorem State.withSampler_world (x : Sampler) : (s.withSampler x).world = s.world := rfl

/-! ### `withKnot` -/

@[simp] theorem State.withKnot_pending (x : Knot) : (s.withKnot x).pending = s.pending := rfl
@[simp] theorem State.withKnot_due (x : Knot) : (s.withKnot x).due = s.due := rfl
@[simp] theorem State.withKnot_pins (x : Knot) : (s.withKnot x).pins = s.pins := rfl
@[simp] theorem State.withKnot_startRec (x : Knot) : (s.withKnot x).startRec = s.startRec := rfl
@[simp] theorem State.withKnot_settings (x : Knot) : (s.withKnot x).settings = s.settings := rfl
@[simp] theorem State.withKnot_channels (x : Knot) : (s.withKnot x).channels = s.channels := rfl
@[simp] theorem State.withKnot_meter (x : Knot) : (s.withKnot x).meter = s.meter := rfl
@[simp] theorem State.withKnot_twist (x : Knot) : (s.withKnot x).twist = s.twist := rfl
@[simp] theorem State.withKnot_sampler (x : Knot) : (s.withKnot x).sampler = s.sampler := rfl
@[simp] theorem State.withKnot_knot (x : Knot) : (s.withKnot x).knot = x := rfl
@[simp] theorem State.withKnot_line (x : Knot) : (s.withKnot x).line = s.line := rfl
@[simp] theorem State.withKnot_peers (x : Knot) : (s.withKnot x).peers = s.peers := rfl
@[simp] theorem State.withKnot_prot (x : Knot) : (s.withKnot x).prot = s.prot := rfl
@[simp] theorem State.withKnot_coil (x : Knot) : (s.withKnot x).coil = s.coil := rfl
@[simp] theorem State.withKnot_store (x : Knot) : (s.withKnot x).store = s.store := rfl
@[simp] theorem State.withKnot_memory (x : Knot) : (s.withKnot x).memory = s.memory := rfl
@[simp] theorem State.withKnot_world (x : Knot) : (s.withKnot x).world = s.world := rfl

/-! ### `withStart` -/

@[simp] theorem State.withStart_pending (x : StartRecord) : (s.withStart x).pending = s.pending := rfl
@[simp] theorem State.withStart_due (x : StartRecord) : (s.withStart x).due = s.due := rfl
@[simp] theorem State.withStart_pins (x : StartRecord) : (s.withStart x).pins = s.pins := rfl
@[simp] theorem State.withStart_startRec (x : StartRecord) : (s.withStart x).startRec = x := rfl
@[simp] theorem State.withStart_settings (x : StartRecord) : (s.withStart x).settings = s.settings := rfl
@[simp] theorem State.withStart_channels (x : StartRecord) : (s.withStart x).channels = s.channels := rfl
@[simp] theorem State.withStart_meter (x : StartRecord) : (s.withStart x).meter = s.meter := rfl
@[simp] theorem State.withStart_twist (x : StartRecord) : (s.withStart x).twist = s.twist := rfl
@[simp] theorem State.withStart_sampler (x : StartRecord) : (s.withStart x).sampler = s.sampler := rfl
@[simp] theorem State.withStart_knot (x : StartRecord) : (s.withStart x).knot = s.knot := rfl
@[simp] theorem State.withStart_line (x : StartRecord) : (s.withStart x).line = s.line := rfl
@[simp] theorem State.withStart_peers (x : StartRecord) : (s.withStart x).peers = s.peers := rfl
@[simp] theorem State.withStart_prot (x : StartRecord) : (s.withStart x).prot = s.prot := rfl
@[simp] theorem State.withStart_coil (x : StartRecord) : (s.withStart x).coil = s.coil := rfl
@[simp] theorem State.withStart_store (x : StartRecord) : (s.withStart x).store = s.store := rfl
@[simp] theorem State.withStart_memory (x : StartRecord) : (s.withStart x).memory = s.memory := rfl
@[simp] theorem State.withStart_world (x : StartRecord) : (s.withStart x).world = s.world := rfl

/-! ### `emit` -/

@[simp] theorem State.emit_pending (l : List Instr) : (s.emit l).pending = s.pending := rfl
@[simp] theorem State.emit_due (l : List Instr) : (s.emit l).due = s.due ++ l := rfl
@[simp] theorem State.emit_pins (l : List Instr) : (s.emit l).pins = s.pins := rfl
@[simp] theorem State.emit_startRec (l : List Instr) : (s.emit l).startRec = s.startRec := rfl
@[simp] theorem State.emit_settings (l : List Instr) : (s.emit l).settings = s.settings := rfl
@[simp] theorem State.emit_channels (l : List Instr) : (s.emit l).channels = s.channels := rfl
@[simp] theorem State.emit_meter (l : List Instr) : (s.emit l).meter = s.meter := rfl
@[simp] theorem State.emit_twist (l : List Instr) : (s.emit l).twist = s.twist := rfl
@[simp] theorem State.emit_sampler (l : List Instr) : (s.emit l).sampler = s.sampler := rfl
@[simp] theorem State.emit_knot (l : List Instr) : (s.emit l).knot = s.knot := rfl
@[simp] theorem State.emit_line (l : List Instr) : (s.emit l).line = s.line := rfl
@[simp] theorem State.emit_peers (l : List Instr) : (s.emit l).peers = s.peers := rfl
@[simp] theorem State.emit_prot (l : List Instr) : (s.emit l).prot = s.prot := rfl
@[simp] theorem State.emit_coil (l : List Instr) : (s.emit l).coil = s.coil := rfl
@[simp] theorem State.emit_store (l : List Instr) : (s.emit l).store = s.store := rfl
@[simp] theorem State.emit_memory (l : List Instr) : (s.emit l).memory = s.memory := rfl
@[simp] theorem State.emit_world (l : List Instr) : (s.emit l).world = s.world := rfl

/-! ### `take` -/

@[simp] theorem State.take_pending (e : Instr) : (s.take e).pending = s.pending := rfl
@[simp] theorem State.take_due (e : Instr) : (s.take e).due = s.due.erase e := rfl
@[simp] theorem State.take_pins (e : Instr) : (s.take e).pins = s.pins := rfl
@[simp] theorem State.take_startRec (e : Instr) : (s.take e).startRec = s.startRec := rfl
@[simp] theorem State.take_settings (e : Instr) : (s.take e).settings = s.settings := rfl
@[simp] theorem State.take_channels (e : Instr) : (s.take e).channels = s.channels := rfl
@[simp] theorem State.take_meter (e : Instr) : (s.take e).meter = s.meter := rfl
@[simp] theorem State.take_twist (e : Instr) : (s.take e).twist = s.twist := rfl
@[simp] theorem State.take_sampler (e : Instr) : (s.take e).sampler = s.sampler := rfl
@[simp] theorem State.take_knot (e : Instr) : (s.take e).knot = s.knot := rfl
@[simp] theorem State.take_line (e : Instr) : (s.take e).line = s.line := rfl
@[simp] theorem State.take_peers (e : Instr) : (s.take e).peers = s.peers := rfl
@[simp] theorem State.take_prot (e : Instr) : (s.take e).prot = s.prot := rfl
@[simp] theorem State.take_coil (e : Instr) : (s.take e).coil = s.coil := rfl
@[simp] theorem State.take_store (e : Instr) : (s.take e).store = s.store := rfl
@[simp] theorem State.take_memory (e : Instr) : (s.take e).memory = s.memory := rfl
@[simp] theorem State.take_world (e : Instr) : (s.take e).world = s.world := rfl

/-! ### `takeLike` -/

@[simp] theorem State.takeLike_pending (p : Instr → Bool) : (s.takeLike p).pending = s.pending := rfl
@[simp] theorem State.takeLike_due (p : Instr → Bool) : (s.takeLike p).due = s.due.eraseP p := rfl
@[simp] theorem State.takeLike_pins (p : Instr → Bool) : (s.takeLike p).pins = s.pins := rfl
@[simp] theorem State.takeLike_startRec (p : Instr → Bool) : (s.takeLike p).startRec = s.startRec := rfl
@[simp] theorem State.takeLike_settings (p : Instr → Bool) : (s.takeLike p).settings = s.settings := rfl
@[simp] theorem State.takeLike_channels (p : Instr → Bool) : (s.takeLike p).channels = s.channels := rfl
@[simp] theorem State.takeLike_meter (p : Instr → Bool) : (s.takeLike p).meter = s.meter := rfl
@[simp] theorem State.takeLike_twist (p : Instr → Bool) : (s.takeLike p).twist = s.twist := rfl
@[simp] theorem State.takeLike_sampler (p : Instr → Bool) : (s.takeLike p).sampler = s.sampler := rfl
@[simp] theorem State.takeLike_knot (p : Instr → Bool) : (s.takeLike p).knot = s.knot := rfl
@[simp] theorem State.takeLike_line (p : Instr → Bool) : (s.takeLike p).line = s.line := rfl
@[simp] theorem State.takeLike_peers (p : Instr → Bool) : (s.takeLike p).peers = s.peers := rfl
@[simp] theorem State.takeLike_prot (p : Instr → Bool) : (s.takeLike p).prot = s.prot := rfl
@[simp] theorem State.takeLike_coil (p : Instr → Bool) : (s.takeLike p).coil = s.coil := rfl
@[simp] theorem State.takeLike_store (p : Instr → Bool) : (s.takeLike p).store = s.store := rfl
@[simp] theorem State.takeLike_memory (p : Instr → Bool) : (s.takeLike p).memory = s.memory := rfl
@[simp] theorem State.takeLike_world (p : Instr → Bool) : (s.takeLike p).world = s.world := rfl

/-! ### `setChannel` -/

@[simp] theorem State.setChannel_pending (i : Fin 8) (c : Channel) : (s.setChannel i c).pending = s.pending := rfl
@[simp] theorem State.setChannel_due (i : Fin 8) (c : Channel) : (s.setChannel i c).due = s.due := rfl
@[simp] theorem State.setChannel_pins (i : Fin 8) (c : Channel) : (s.setChannel i c).pins = s.pins := rfl
@[simp] theorem State.setChannel_startRec (i : Fin 8) (c : Channel) : (s.setChannel i c).startRec = s.startRec := rfl
@[simp] theorem State.setChannel_settings (i : Fin 8) (c : Channel) : (s.setChannel i c).settings = s.settings := rfl
@[simp] theorem State.setChannel_channels (i : Fin 8) (c : Channel) : (s.setChannel i c).channels = s.channels.set i c := rfl
@[simp] theorem State.setChannel_meter (i : Fin 8) (c : Channel) : (s.setChannel i c).meter = s.meter := rfl
@[simp] theorem State.setChannel_twist (i : Fin 8) (c : Channel) : (s.setChannel i c).twist = s.twist := rfl
@[simp] theorem State.setChannel_sampler (i : Fin 8) (c : Channel) : (s.setChannel i c).sampler = s.sampler := rfl
@[simp] theorem State.setChannel_knot (i : Fin 8) (c : Channel) : (s.setChannel i c).knot = s.knot := rfl
@[simp] theorem State.setChannel_line (i : Fin 8) (c : Channel) : (s.setChannel i c).line = s.line := rfl
@[simp] theorem State.setChannel_peers (i : Fin 8) (c : Channel) : (s.setChannel i c).peers = s.peers := rfl
@[simp] theorem State.setChannel_prot (i : Fin 8) (c : Channel) : (s.setChannel i c).prot = s.prot := rfl
@[simp] theorem State.setChannel_coil (i : Fin 8) (c : Channel) : (s.setChannel i c).coil = s.coil := rfl
@[simp] theorem State.setChannel_store (i : Fin 8) (c : Channel) : (s.setChannel i c).store = s.store := rfl
@[simp] theorem State.setChannel_memory (i : Fin 8) (c : Channel) : (s.setChannel i c).memory = s.memory := rfl
@[simp] theorem State.setChannel_world (i : Fin 8) (c : Channel) : (s.setChannel i c).world = s.world := rfl

/-! ### `setSpindle` -/

@[simp] theorem State.setSpindle_pending (n : Fin 4) (p : Spindle) : (s.setSpindle n p).pending = s.pending := rfl
@[simp] theorem State.setSpindle_due (n : Fin 4) (p : Spindle) : (s.setSpindle n p).due = s.due := rfl
@[simp] theorem State.setSpindle_pins (n : Fin 4) (p : Spindle) : (s.setSpindle n p).pins = s.pins := rfl
@[simp] theorem State.setSpindle_startRec (n : Fin 4) (p : Spindle) : (s.setSpindle n p).startRec = s.startRec := rfl
@[simp] theorem State.setSpindle_settings (n : Fin 4) (p : Spindle) : (s.setSpindle n p).settings = s.settings := rfl
@[simp] theorem State.setSpindle_channels (n : Fin 4) (p : Spindle) : (s.setSpindle n p).channels = s.channels := rfl
@[simp] theorem State.setSpindle_meter (n : Fin 4) (p : Spindle) : (s.setSpindle n p).meter = s.meter := rfl
@[simp] theorem State.setSpindle_twist (n : Fin 4) (p : Spindle) : (s.setSpindle n p).twist = { s.twist with spindles := s.twist.spindles.set n p } := rfl
@[simp] theorem State.setSpindle_sampler (n : Fin 4) (p : Spindle) : (s.setSpindle n p).sampler = s.sampler := rfl
@[simp] theorem State.setSpindle_knot (n : Fin 4) (p : Spindle) : (s.setSpindle n p).knot = s.knot := rfl
@[simp] theorem State.setSpindle_line (n : Fin 4) (p : Spindle) : (s.setSpindle n p).line = s.line := rfl
@[simp] theorem State.setSpindle_peers (n : Fin 4) (p : Spindle) : (s.setSpindle n p).peers = s.peers := rfl
@[simp] theorem State.setSpindle_prot (n : Fin 4) (p : Spindle) : (s.setSpindle n p).prot = s.prot := rfl
@[simp] theorem State.setSpindle_coil (n : Fin 4) (p : Spindle) : (s.setSpindle n p).coil = s.coil := rfl
@[simp] theorem State.setSpindle_store (n : Fin 4) (p : Spindle) : (s.setSpindle n p).store = s.store := rfl
@[simp] theorem State.setSpindle_memory (n : Fin 4) (p : Spindle) : (s.setSpindle n p).memory = s.memory := rfl
@[simp] theorem State.setSpindle_world (n : Fin 4) (p : Spindle) : (s.setSpindle n p).world = s.world := rfl

/-! ### `setOpen` -/

@[simp] theorem State.setOpen_pending (r : Option CoilRecord) : (s.setOpen r).pending = s.pending := rfl
@[simp] theorem State.setOpen_due (r : Option CoilRecord) : (s.setOpen r).due = s.due := rfl
@[simp] theorem State.setOpen_pins (r : Option CoilRecord) : (s.setOpen r).pins = s.pins := rfl
@[simp] theorem State.setOpen_startRec (r : Option CoilRecord) : (s.setOpen r).startRec = s.startRec := rfl
@[simp] theorem State.setOpen_settings (r : Option CoilRecord) : (s.setOpen r).settings = s.settings := rfl
@[simp] theorem State.setOpen_channels (r : Option CoilRecord) : (s.setOpen r).channels = s.channels := rfl
@[simp] theorem State.setOpen_meter (r : Option CoilRecord) : (s.setOpen r).meter = s.meter := rfl
@[simp] theorem State.setOpen_twist (r : Option CoilRecord) : (s.setOpen r).twist = s.twist := rfl
@[simp] theorem State.setOpen_sampler (r : Option CoilRecord) : (s.setOpen r).sampler = s.sampler := rfl
@[simp] theorem State.setOpen_knot (r : Option CoilRecord) : (s.setOpen r).knot = s.knot := rfl
@[simp] theorem State.setOpen_line (r : Option CoilRecord) : (s.setOpen r).line = s.line := rfl
@[simp] theorem State.setOpen_peers (r : Option CoilRecord) : (s.setOpen r).peers = s.peers := rfl
@[simp] theorem State.setOpen_prot (r : Option CoilRecord) : (s.setOpen r).prot = s.prot := rfl
@[simp] theorem State.setOpen_coil (r : Option CoilRecord) : (s.setOpen r).coil = { s.coil with openSlot := r } := rfl
@[simp] theorem State.setOpen_store (r : Option CoilRecord) : (s.setOpen r).store = s.store := rfl
@[simp] theorem State.setOpen_memory (r : Option CoilRecord) : (s.setOpen r).memory = s.memory := rfl
@[simp] theorem State.setOpen_world (r : Option CoilRecord) : (s.setOpen r).world = s.world := rfl

/-! ### `setClosing` -/

@[simp] theorem State.setClosing_pending (r : Option CoilRecord) : (s.setClosing r).pending = s.pending := rfl
@[simp] theorem State.setClosing_due (r : Option CoilRecord) : (s.setClosing r).due = s.due := rfl
@[simp] theorem State.setClosing_pins (r : Option CoilRecord) : (s.setClosing r).pins = s.pins := rfl
@[simp] theorem State.setClosing_startRec (r : Option CoilRecord) : (s.setClosing r).startRec = s.startRec := rfl
@[simp] theorem State.setClosing_settings (r : Option CoilRecord) : (s.setClosing r).settings = s.settings := rfl
@[simp] theorem State.setClosing_channels (r : Option CoilRecord) : (s.setClosing r).channels = s.channels := rfl
@[simp] theorem State.setClosing_meter (r : Option CoilRecord) : (s.setClosing r).meter = s.meter := rfl
@[simp] theorem State.setClosing_twist (r : Option CoilRecord) : (s.setClosing r).twist = s.twist := rfl
@[simp] theorem State.setClosing_sampler (r : Option CoilRecord) : (s.setClosing r).sampler = s.sampler := rfl
@[simp] theorem State.setClosing_knot (r : Option CoilRecord) : (s.setClosing r).knot = s.knot := rfl
@[simp] theorem State.setClosing_line (r : Option CoilRecord) : (s.setClosing r).line = s.line := rfl
@[simp] theorem State.setClosing_peers (r : Option CoilRecord) : (s.setClosing r).peers = s.peers := rfl
@[simp] theorem State.setClosing_prot (r : Option CoilRecord) : (s.setClosing r).prot = s.prot := rfl
@[simp] theorem State.setClosing_coil (r : Option CoilRecord) : (s.setClosing r).coil = { s.coil with closingSlot := r } := rfl
@[simp] theorem State.setClosing_store (r : Option CoilRecord) : (s.setClosing r).store = s.store := rfl
@[simp] theorem State.setClosing_memory (r : Option CoilRecord) : (s.setClosing r).memory = s.memory := rfl
@[simp] theorem State.setClosing_world (r : Option CoilRecord) : (s.setClosing r).world = s.world := rfl

/-! ### `setHeld` -/

@[simp] theorem State.setHeld_pending (r : Option CoilRecord) : (s.setHeld r).pending = s.pending := rfl
@[simp] theorem State.setHeld_due (r : Option CoilRecord) : (s.setHeld r).due = s.due := rfl
@[simp] theorem State.setHeld_pins (r : Option CoilRecord) : (s.setHeld r).pins = s.pins := rfl
@[simp] theorem State.setHeld_startRec (r : Option CoilRecord) : (s.setHeld r).startRec = s.startRec := rfl
@[simp] theorem State.setHeld_settings (r : Option CoilRecord) : (s.setHeld r).settings = s.settings := rfl
@[simp] theorem State.setHeld_channels (r : Option CoilRecord) : (s.setHeld r).channels = s.channels := rfl
@[simp] theorem State.setHeld_meter (r : Option CoilRecord) : (s.setHeld r).meter = s.meter := rfl
@[simp] theorem State.setHeld_twist (r : Option CoilRecord) : (s.setHeld r).twist = s.twist := rfl
@[simp] theorem State.setHeld_sampler (r : Option CoilRecord) : (s.setHeld r).sampler = s.sampler := rfl
@[simp] theorem State.setHeld_knot (r : Option CoilRecord) : (s.setHeld r).knot = s.knot := rfl
@[simp] theorem State.setHeld_line (r : Option CoilRecord) : (s.setHeld r).line = s.line := rfl
@[simp] theorem State.setHeld_peers (r : Option CoilRecord) : (s.setHeld r).peers = s.peers := rfl
@[simp] theorem State.setHeld_prot (r : Option CoilRecord) : (s.setHeld r).prot = s.prot := rfl
@[simp] theorem State.setHeld_coil (r : Option CoilRecord) : (s.setHeld r).coil = { s.coil with heldSlot := r } := rfl
@[simp] theorem State.setHeld_store (r : Option CoilRecord) : (s.setHeld r).store = s.store := rfl
@[simp] theorem State.setHeld_memory (r : Option CoilRecord) : (s.setHeld r).memory = s.memory := rfl
@[simp] theorem State.setHeld_world (r : Option CoilRecord) : (s.setHeld r).world = s.world := rfl

/-! ### `setEntryRecord` -/

@[simp] theorem State.setEntryRecord_pending (n : Fin 8) (e : ScanEntry) : (s.setEntryRecord n e).pending = s.pending := rfl
@[simp] theorem State.setEntryRecord_due (n : Fin 8) (e : ScanEntry) : (s.setEntryRecord n e).due = s.due := rfl
@[simp] theorem State.setEntryRecord_pins (n : Fin 8) (e : ScanEntry) : (s.setEntryRecord n e).pins = s.pins := rfl
@[simp] theorem State.setEntryRecord_startRec (n : Fin 8) (e : ScanEntry) : (s.setEntryRecord n e).startRec = s.startRec := rfl
@[simp] theorem State.setEntryRecord_settings (n : Fin 8) (e : ScanEntry) : (s.setEntryRecord n e).settings = s.settings := rfl
@[simp] theorem State.setEntryRecord_channels (n : Fin 8) (e : ScanEntry) : (s.setEntryRecord n e).channels = s.channels := rfl
@[simp] theorem State.setEntryRecord_meter (n : Fin 8) (e : ScanEntry) : (s.setEntryRecord n e).meter = s.meter := rfl
@[simp] theorem State.setEntryRecord_twist (n : Fin 8) (e : ScanEntry) : (s.setEntryRecord n e).twist = s.twist := rfl
@[simp] theorem State.setEntryRecord_sampler (n : Fin 8) (e : ScanEntry) : (s.setEntryRecord n e).sampler = { s.sampler with entries := s.sampler.entries.set n e } := rfl
@[simp] theorem State.setEntryRecord_knot (n : Fin 8) (e : ScanEntry) : (s.setEntryRecord n e).knot = s.knot := rfl
@[simp] theorem State.setEntryRecord_line (n : Fin 8) (e : ScanEntry) : (s.setEntryRecord n e).line = s.line := rfl
@[simp] theorem State.setEntryRecord_peers (n : Fin 8) (e : ScanEntry) : (s.setEntryRecord n e).peers = s.peers := rfl
@[simp] theorem State.setEntryRecord_prot (n : Fin 8) (e : ScanEntry) : (s.setEntryRecord n e).prot = s.prot := rfl
@[simp] theorem State.setEntryRecord_coil (n : Fin 8) (e : ScanEntry) : (s.setEntryRecord n e).coil = s.coil := rfl
@[simp] theorem State.setEntryRecord_store (n : Fin 8) (e : ScanEntry) : (s.setEntryRecord n e).store = s.store := rfl
@[simp] theorem State.setEntryRecord_memory (n : Fin 8) (e : ScanEntry) : (s.setEntryRecord n e).memory = s.memory := rfl
@[simp] theorem State.setEntryRecord_world (n : Fin 8) (e : ScanEntry) : (s.setEntryRecord n e).world = s.world := rfl

/-! ### `setEntry` -/

@[simp] theorem State.setEntry_pending (p : Nat) (e : SectorEntry) : (s.setEntry p e).pending = s.pending := rfl
@[simp] theorem State.setEntry_due (p : Nat) (e : SectorEntry) : (s.setEntry p e).due = s.due := rfl
@[simp] theorem State.setEntry_pins (p : Nat) (e : SectorEntry) : (s.setEntry p e).pins = s.pins := rfl
@[simp] theorem State.setEntry_startRec (p : Nat) (e : SectorEntry) : (s.setEntry p e).startRec = s.startRec := rfl
@[simp] theorem State.setEntry_settings (p : Nat) (e : SectorEntry) : (s.setEntry p e).settings = s.settings := rfl
@[simp] theorem State.setEntry_channels (p : Nat) (e : SectorEntry) : (s.setEntry p e).channels = s.channels := rfl
@[simp] theorem State.setEntry_meter (p : Nat) (e : SectorEntry) : (s.setEntry p e).meter = s.meter := rfl
@[simp] theorem State.setEntry_twist (p : Nat) (e : SectorEntry) : (s.setEntry p e).twist = s.twist := rfl
@[simp] theorem State.setEntry_sampler (p : Nat) (e : SectorEntry) : (s.setEntry p e).sampler = s.sampler := rfl
@[simp] theorem State.setEntry_knot (p : Nat) (e : SectorEntry) : (s.setEntry p e).knot = s.knot := rfl
@[simp] theorem State.setEntry_line (p : Nat) (e : SectorEntry) : (s.setEntry p e).line = s.line := rfl
@[simp] theorem State.setEntry_peers (p : Nat) (e : SectorEntry) : (s.setEntry p e).peers = s.peers := rfl
@[simp] theorem State.setEntry_prot (p : Nat) (e : SectorEntry) : (s.setEntry p e).prot = s.prot := rfl
@[simp] theorem State.setEntry_coil (p : Nat) (e : SectorEntry) : (s.setEntry p e).coil = s.coil := rfl
@[simp] theorem State.setEntry_store (p : Nat) (e : SectorEntry) : (s.setEntry p e).store = { s.store with table := s.store.table.set (p - 16) e } := rfl
@[simp] theorem State.setEntry_memory (p : Nat) (e : SectorEntry) : (s.setEntry p e).memory = s.memory := rfl
@[simp] theorem State.setEntry_world (p : Nat) (e : SectorEntry) : (s.setEntry p e).world = s.world := rfl

/-! ### `withPhase` -/

@[simp] theorem State.withPhase_pending (c : BitVec 3) : (s.withPhase c).pending = s.pending := rfl
@[simp] theorem State.withPhase_due (c : BitVec 3) : (s.withPhase c).due = s.due := rfl
@[simp] theorem State.withPhase_pins (c : BitVec 3) : (s.withPhase c).pins = { s.pins with phase := c } := rfl
@[simp] theorem State.withPhase_startRec (c : BitVec 3) : (s.withPhase c).startRec = s.startRec := rfl
@[simp] theorem State.withPhase_settings (c : BitVec 3) : (s.withPhase c).settings = s.settings := rfl
@[simp] theorem State.withPhase_channels (c : BitVec 3) : (s.withPhase c).channels = s.channels := rfl
@[simp] theorem State.withPhase_meter (c : BitVec 3) : (s.withPhase c).meter = s.meter := rfl
@[simp] theorem State.withPhase_twist (c : BitVec 3) : (s.withPhase c).twist = s.twist := rfl
@[simp] theorem State.withPhase_sampler (c : BitVec 3) : (s.withPhase c).sampler = s.sampler := rfl
@[simp] theorem State.withPhase_knot (c : BitVec 3) : (s.withPhase c).knot = s.knot := rfl
@[simp] theorem State.withPhase_line (c : BitVec 3) : (s.withPhase c).line = s.line := rfl
@[simp] theorem State.withPhase_peers (c : BitVec 3) : (s.withPhase c).peers = s.peers := rfl
@[simp] theorem State.withPhase_prot (c : BitVec 3) : (s.withPhase c).prot = s.prot := rfl
@[simp] theorem State.withPhase_coil (c : BitVec 3) : (s.withPhase c).coil = s.coil := rfl
@[simp] theorem State.withPhase_store (c : BitVec 3) : (s.withPhase c).store = s.store := rfl
@[simp] theorem State.withPhase_memory (c : BitVec 3) : (s.withPhase c).memory = s.memory := rfl
@[simp] theorem State.withPhase_world (c : BitVec 3) : (s.withPhase c).world = s.world := rfl

/-! ### `withLines` -/

@[simp] theorem State.withLines_pending (l : BitVec 32) : (s.withLines l).pending = s.pending := rfl
@[simp] theorem State.withLines_due (l : BitVec 32) : (s.withLines l).due = s.due := rfl
@[simp] theorem State.withLines_pins (l : BitVec 32) : (s.withLines l).pins = { s.pins with ks := l } := rfl
@[simp] theorem State.withLines_startRec (l : BitVec 32) : (s.withLines l).startRec = s.startRec := rfl
@[simp] theorem State.withLines_settings (l : BitVec 32) : (s.withLines l).settings = s.settings := rfl
@[simp] theorem State.withLines_channels (l : BitVec 32) : (s.withLines l).channels = s.channels := rfl
@[simp] theorem State.withLines_meter (l : BitVec 32) : (s.withLines l).meter = s.meter := rfl
@[simp] theorem State.withLines_twist (l : BitVec 32) : (s.withLines l).twist = s.twist := rfl
@[simp] theorem State.withLines_sampler (l : BitVec 32) : (s.withLines l).sampler = s.sampler := rfl
@[simp] theorem State.withLines_knot (l : BitVec 32) : (s.withLines l).knot = s.knot := rfl
@[simp] theorem State.withLines_line (l : BitVec 32) : (s.withLines l).line = s.line := rfl
@[simp] theorem State.withLines_peers (l : BitVec 32) : (s.withLines l).peers = s.peers := rfl
@[simp] theorem State.withLines_prot (l : BitVec 32) : (s.withLines l).prot = s.prot := rfl
@[simp] theorem State.withLines_coil (l : BitVec 32) : (s.withLines l).coil = s.coil := rfl
@[simp] theorem State.withLines_store (l : BitVec 32) : (s.withLines l).store = s.store := rfl
@[simp] theorem State.withLines_memory (l : BitVec 32) : (s.withLines l).memory = s.memory := rfl
@[simp] theorem State.withLines_world (l : BitVec 32) : (s.withLines l).world = s.world := rfl

/-! ### `withBreak` -/

@[simp] theorem State.withBreak_pending (b : Bool) : (s.withBreak b).pending = s.pending := rfl
@[simp] theorem State.withBreak_due (b : Bool) : (s.withBreak b).due = s.due := rfl
@[simp] theorem State.withBreak_pins (b : Bool) : (s.withBreak b).pins = { s.pins with breakOpen := b } := rfl
@[simp] theorem State.withBreak_startRec (b : Bool) : (s.withBreak b).startRec = s.startRec := rfl
@[simp] theorem State.withBreak_settings (b : Bool) : (s.withBreak b).settings = s.settings := rfl
@[simp] theorem State.withBreak_channels (b : Bool) : (s.withBreak b).channels = s.channels := rfl
@[simp] theorem State.withBreak_meter (b : Bool) : (s.withBreak b).meter = s.meter := rfl
@[simp] theorem State.withBreak_twist (b : Bool) : (s.withBreak b).twist = s.twist := rfl
@[simp] theorem State.withBreak_sampler (b : Bool) : (s.withBreak b).sampler = s.sampler := rfl
@[simp] theorem State.withBreak_knot (b : Bool) : (s.withBreak b).knot = s.knot := rfl
@[simp] theorem State.withBreak_line (b : Bool) : (s.withBreak b).line = s.line := rfl
@[simp] theorem State.withBreak_peers (b : Bool) : (s.withBreak b).peers = s.peers := rfl
@[simp] theorem State.withBreak_prot (b : Bool) : (s.withBreak b).prot = s.prot := rfl
@[simp] theorem State.withBreak_coil (b : Bool) : (s.withBreak b).coil = s.coil := rfl
@[simp] theorem State.withBreak_store (b : Bool) : (s.withBreak b).store = s.store := rfl
@[simp] theorem State.withBreak_memory (b : Bool) : (s.withBreak b).memory = s.memory := rfl
@[simp] theorem State.withBreak_world (b : Bool) : (s.withBreak b).world = s.world := rfl

/-! ### `withPins` -/

@[simp] theorem State.withPins_pending (x : Pins) : (s.withPins x).pending = s.pending := rfl
@[simp] theorem State.withPins_due (x : Pins) : (s.withPins x).due = s.due := rfl
@[simp] theorem State.withPins_pins (x : Pins) : (s.withPins x).pins = x := rfl
@[simp] theorem State.withPins_startRec (x : Pins) : (s.withPins x).startRec = s.startRec := rfl
@[simp] theorem State.withPins_settings (x : Pins) : (s.withPins x).settings = s.settings := rfl
@[simp] theorem State.withPins_channels (x : Pins) : (s.withPins x).channels = s.channels := rfl
@[simp] theorem State.withPins_meter (x : Pins) : (s.withPins x).meter = s.meter := rfl
@[simp] theorem State.withPins_twist (x : Pins) : (s.withPins x).twist = s.twist := rfl
@[simp] theorem State.withPins_sampler (x : Pins) : (s.withPins x).sampler = s.sampler := rfl
@[simp] theorem State.withPins_knot (x : Pins) : (s.withPins x).knot = s.knot := rfl
@[simp] theorem State.withPins_line (x : Pins) : (s.withPins x).line = s.line := rfl
@[simp] theorem State.withPins_peers (x : Pins) : (s.withPins x).peers = s.peers := rfl
@[simp] theorem State.withPins_prot (x : Pins) : (s.withPins x).prot = s.prot := rfl
@[simp] theorem State.withPins_coil (x : Pins) : (s.withPins x).coil = s.coil := rfl
@[simp] theorem State.withPins_store (x : Pins) : (s.withPins x).store = s.store := rfl
@[simp] theorem State.withPins_memory (x : Pins) : (s.withPins x).memory = s.memory := rfl
@[simp] theorem State.withPins_world (x : Pins) : (s.withPins x).world = s.world := rfl

/-! ### Readers -/

@[simp] theorem State.withLine_begun (l : FloorLine) : (s.withLine l).begun = s.begun := rfl
@[simp] theorem State.withLine_station (l : FloorLine) : (s.withLine l).station = s.station := rfl
@[simp] theorem State.withLine_lineLength (l : FloorLine) : (s.withLine l).lineLength = s.lineLength := rfl
@[simp] theorem State.withLine_records (l : FloorLine) : (s.withLine l).records = s.records := rfl
@[simp] theorem State.withLine_twistNode (l : FloorLine) : (s.withLine l).twistNode = s.twistNode := rfl
@[simp] theorem State.withLine_knotNode (l : FloorLine) : (s.withLine l).knotNode = s.knotNode := rfl
@[simp] theorem State.withLine_coilNode (l : FloorLine) : (s.withLine l).coilNode = s.coilNode := rfl
@[simp] theorem State.withLine_follows (l : FloorLine) : (s.withLine l).follows = s.follows := rfl
@[simp] theorem State.withLine_twistRunning (l : FloorLine) : (s.withLine l).twistRunning = s.twistRunning := rfl
@[simp] theorem State.withLine_answers (l : FloorLine) : (s.withLine l).answers = s.answers := rfl
@[simp] theorem State.withLine_cutMayStart (l : FloorLine) : (s.withLine l).cutMayStart = s.cutMayStart := rfl
@[simp] theorem State.withLine_hasReason (l : FloorLine) : (s.withLine l).hasReason = s.hasReason := rfl
@[simp] theorem State.withLine_channel (l : FloorLine) (i : Fin 8) : (s.withLine l).channel i = s.channel i := rfl
@[simp] theorem State.withLine_spindle (l : FloorLine) (n : Fin 4) : (s.withLine l).spindle n = s.spindle n := rfl
@[simp] theorem State.withLine_spindleSettings (l : FloorLine) (n : Fin 4) : (s.withLine l).spindleSettings n = s.spindleSettings n := rfl
@[simp] theorem State.withLine_allocated (l : FloorLine) (i : Fin 8) : (s.withLine l).allocated i = s.allocated i := rfl
@[simp] theorem State.withLine_sectorEntry (l : FloorLine) (q : Nat) : (s.withLine l).sectorEntry q = s.sectorEntry q := rfl
@[simp] theorem State.withProt_station (p : Protection) : (s.withProt p).station = s.station := rfl
@[simp] theorem State.withProt_lineLength (p : Protection) : (s.withProt p).lineLength = s.lineLength := rfl
@[simp] theorem State.withProt_records (p : Protection) : (s.withProt p).records = s.records := rfl
@[simp] theorem State.withProt_contents (p : Protection) : (s.withProt p).contents = s.contents := rfl
@[simp] theorem State.withProt_twistRunning (p : Protection) : (s.withProt p).twistRunning = s.twistRunning := rfl
@[simp] theorem State.withProt_answers (p : Protection) : (s.withProt p).answers = s.answers := rfl
@[simp] theorem State.withProt_cutMayStart (p : Protection) : (s.withProt p).cutMayStart = s.cutMayStart := rfl
@[simp] theorem State.withProt_channel (p : Protection) (i : Fin 8) : (s.withProt p).channel i = s.channel i := rfl
@[simp] theorem State.withProt_spindle (p : Protection) (n : Fin 4) : (s.withProt p).spindle n = s.spindle n := rfl
@[simp] theorem State.withProt_spindleSettings (p : Protection) (n : Fin 4) : (s.withProt p).spindleSettings n = s.spindleSettings n := rfl
@[simp] theorem State.withProt_sectorEntry (p : Protection) (q : Nat) : (s.withProt p).sectorEntry q = s.sectorEntry q := rfl
@[simp] theorem State.withStore_begun (x : Store) : (s.withStore x).begun = s.begun := rfl
@[simp] theorem State.withStore_station (x : Store) : (s.withStore x).station = s.station := rfl
@[simp] theorem State.withStore_lineLength (x : Store) : (s.withStore x).lineLength = s.lineLength := rfl
@[simp] theorem State.withStore_records (x : Store) : (s.withStore x).records = s.records := rfl
@[simp] theorem State.withStore_contents (x : Store) : (s.withStore x).contents = s.contents := rfl
@[simp] theorem State.withStore_twistNode (x : Store) : (s.withStore x).twistNode = s.twistNode := rfl
@[simp] theorem State.withStore_knotNode (x : Store) : (s.withStore x).knotNode = s.knotNode := rfl
@[simp] theorem State.withStore_coilNode (x : Store) : (s.withStore x).coilNode = s.coilNode := rfl
@[simp] theorem State.withStore_follows (x : Store) : (s.withStore x).follows = s.follows := rfl
@[simp] theorem State.withStore_twistRunning (x : Store) : (s.withStore x).twistRunning = s.twistRunning := rfl
@[simp] theorem State.withStore_answers (x : Store) : (s.withStore x).answers = s.answers := rfl
@[simp] theorem State.withStore_cutMayStart (x : Store) : (s.withStore x).cutMayStart = s.cutMayStart := rfl
@[simp] theorem State.withStore_hasReason (x : Store) : (s.withStore x).hasReason = s.hasReason := rfl
@[simp] theorem State.withStore_channel (x : Store) (i : Fin 8) : (s.withStore x).channel i = s.channel i := rfl
@[simp] theorem State.withStore_spindle (x : Store) (n : Fin 4) : (s.withStore x).spindle n = s.spindle n := rfl
@[simp] theorem State.withStore_spindleSettings (x : Store) (n : Fin 4) : (s.withStore x).spindleSettings n = s.spindleSettings n := rfl
@[simp] theorem State.withStore_allocated (x : Store) (i : Fin 8) : (s.withStore x).allocated i = s.allocated i := rfl
@[simp] theorem State.withCoil_begun (x : CoilBuilder) : (s.withCoil x).begun = s.begun := rfl
@[simp] theorem State.withCoil_station (x : CoilBuilder) : (s.withCoil x).station = s.station := rfl
@[simp] theorem State.withCoil_lineLength (x : CoilBuilder) : (s.withCoil x).lineLength = s.lineLength := rfl
@[simp] theorem State.withCoil_contents (x : CoilBuilder) : (s.withCoil x).contents = s.contents := rfl
@[simp] theorem State.withCoil_twistNode (x : CoilBuilder) : (s.withCoil x).twistNode = s.twistNode := rfl
@[simp] theorem State.withCoil_knotNode (x : CoilBuilder) : (s.withCoil x).knotNode = s.knotNode := rfl
@[simp] theorem State.withCoil_coilNode (x : CoilBuilder) : (s.withCoil x).coilNode = s.coilNode := rfl
@[simp] theorem State.withCoil_follows (x : CoilBuilder) : (s.withCoil x).follows = s.follows := rfl
@[simp] theorem State.withCoil_twistRunning (x : CoilBuilder) : (s.withCoil x).twistRunning = s.twistRunning := rfl
@[simp] theorem State.withCoil_answers (x : CoilBuilder) : (s.withCoil x).answers = s.answers := rfl
@[simp] theorem State.withCoil_hasReason (x : CoilBuilder) : (s.withCoil x).hasReason = s.hasReason := rfl
@[simp] theorem State.withCoil_channel (x : CoilBuilder) (i : Fin 8) : (s.withCoil x).channel i = s.channel i := rfl
@[simp] theorem State.withCoil_spindle (x : CoilBuilder) (n : Fin 4) : (s.withCoil x).spindle n = s.spindle n := rfl
@[simp] theorem State.withCoil_spindleSettings (x : CoilBuilder) (n : Fin 4) : (s.withCoil x).spindleSettings n = s.spindleSettings n := rfl
@[simp] theorem State.withCoil_allocated (x : CoilBuilder) (i : Fin 8) : (s.withCoil x).allocated i = s.allocated i := rfl
@[simp] theorem State.withCoil_sectorEntry (x : CoilBuilder) (q : Nat) : (s.withCoil x).sectorEntry q = s.sectorEntry q := rfl
@[simp] theorem State.withMeter_begun (x : Metering) : (s.withMeter x).begun = s.begun := rfl
@[simp] theorem State.withMeter_station (x : Metering) : (s.withMeter x).station = s.station := rfl
@[simp] theorem State.withMeter_records (x : Metering) : (s.withMeter x).records = s.records := rfl
@[simp] theorem State.withMeter_contents (x : Metering) : (s.withMeter x).contents = s.contents := rfl
@[simp] theorem State.withMeter_twistNode (x : Metering) : (s.withMeter x).twistNode = s.twistNode := rfl
@[simp] theorem State.withMeter_knotNode (x : Metering) : (s.withMeter x).knotNode = s.knotNode := rfl
@[simp] theorem State.withMeter_coilNode (x : Metering) : (s.withMeter x).coilNode = s.coilNode := rfl
@[simp] theorem State.withMeter_follows (x : Metering) : (s.withMeter x).follows = s.follows := rfl
@[simp] theorem State.withMeter_twistRunning (x : Metering) : (s.withMeter x).twistRunning = s.twistRunning := rfl
@[simp] theorem State.withMeter_answers (x : Metering) : (s.withMeter x).answers = s.answers := rfl
@[simp] theorem State.withMeter_hasReason (x : Metering) : (s.withMeter x).hasReason = s.hasReason := rfl
@[simp] theorem State.withMeter_channel (x : Metering) (i : Fin 8) : (s.withMeter x).channel i = s.channel i := rfl
@[simp] theorem State.withMeter_spindle (x : Metering) (n : Fin 4) : (s.withMeter x).spindle n = s.spindle n := rfl
@[simp] theorem State.withMeter_spindleSettings (x : Metering) (n : Fin 4) : (s.withMeter x).spindleSettings n = s.spindleSettings n := rfl
@[simp] theorem State.withMeter_allocated (x : Metering) (i : Fin 8) : (s.withMeter x).allocated i = s.allocated i := rfl
@[simp] theorem State.withMeter_sectorEntry (x : Metering) (q : Nat) : (s.withMeter x).sectorEntry q = s.sectorEntry q := rfl
@[simp] theorem State.withTwist_begun (x : Twist) : (s.withTwist x).begun = s.begun := rfl
@[simp] theorem State.withTwist_station (x : Twist) : (s.withTwist x).station = s.station := rfl
@[simp] theorem State.withTwist_lineLength (x : Twist) : (s.withTwist x).lineLength = s.lineLength := rfl
@[simp] theorem State.withTwist_records (x : Twist) : (s.withTwist x).records = s.records := rfl
@[simp] theorem State.withTwist_contents (x : Twist) : (s.withTwist x).contents = s.contents := rfl
@[simp] theorem State.withTwist_twistNode (x : Twist) : (s.withTwist x).twistNode = s.twistNode := rfl
@[simp] theorem State.withTwist_knotNode (x : Twist) : (s.withTwist x).knotNode = s.knotNode := rfl
@[simp] theorem State.withTwist_coilNode (x : Twist) : (s.withTwist x).coilNode = s.coilNode := rfl
@[simp] theorem State.withTwist_follows (x : Twist) : (s.withTwist x).follows = s.follows := rfl
@[simp] theorem State.withTwist_answers (x : Twist) : (s.withTwist x).answers = s.answers := rfl
@[simp] theorem State.withTwist_cutMayStart (x : Twist) : (s.withTwist x).cutMayStart = s.cutMayStart := rfl
@[simp] theorem State.withTwist_hasReason (x : Twist) : (s.withTwist x).hasReason = s.hasReason := rfl
@[simp] theorem State.withTwist_channel (x : Twist) (i : Fin 8) : (s.withTwist x).channel i = s.channel i := rfl
@[simp] theorem State.withTwist_spindleSettings (x : Twist) (n : Fin 4) : (s.withTwist x).spindleSettings n = s.spindleSettings n := rfl
@[simp] theorem State.withTwist_allocated (x : Twist) (i : Fin 8) : (s.withTwist x).allocated i = s.allocated i := rfl
@[simp] theorem State.withTwist_sectorEntry (x : Twist) (q : Nat) : (s.withTwist x).sectorEntry q = s.sectorEntry q := rfl
@[simp] theorem State.withSampler_begun (x : Sampler) : (s.withSampler x).begun = s.begun := rfl
@[simp] theorem State.withSampler_station (x : Sampler) : (s.withSampler x).station = s.station := rfl
@[simp] theorem State.withSampler_lineLength (x : Sampler) : (s.withSampler x).lineLength = s.lineLength := rfl
@[simp] theorem State.withSampler_records (x : Sampler) : (s.withSampler x).records = s.records := rfl
@[simp] theorem State.withSampler_contents (x : Sampler) : (s.withSampler x).contents = s.contents := rfl
@[simp] theorem State.withSampler_twistNode (x : Sampler) : (s.withSampler x).twistNode = s.twistNode := rfl
@[simp] theorem State.withSampler_knotNode (x : Sampler) : (s.withSampler x).knotNode = s.knotNode := rfl
@[simp] theorem State.withSampler_coilNode (x : Sampler) : (s.withSampler x).coilNode = s.coilNode := rfl
@[simp] theorem State.withSampler_follows (x : Sampler) : (s.withSampler x).follows = s.follows := rfl
@[simp] theorem State.withSampler_twistRunning (x : Sampler) : (s.withSampler x).twistRunning = s.twistRunning := rfl
@[simp] theorem State.withSampler_answers (x : Sampler) : (s.withSampler x).answers = s.answers := rfl
@[simp] theorem State.withSampler_cutMayStart (x : Sampler) : (s.withSampler x).cutMayStart = s.cutMayStart := rfl
@[simp] theorem State.withSampler_hasReason (x : Sampler) : (s.withSampler x).hasReason = s.hasReason := rfl
@[simp] theorem State.withSampler_channel (x : Sampler) (i : Fin 8) : (s.withSampler x).channel i = s.channel i := rfl
@[simp] theorem State.withSampler_spindle (x : Sampler) (n : Fin 4) : (s.withSampler x).spindle n = s.spindle n := rfl
@[simp] theorem State.withSampler_spindleSettings (x : Sampler) (n : Fin 4) : (s.withSampler x).spindleSettings n = s.spindleSettings n := rfl
@[simp] theorem State.withSampler_allocated (x : Sampler) (i : Fin 8) : (s.withSampler x).allocated i = s.allocated i := rfl
@[simp] theorem State.withSampler_sectorEntry (x : Sampler) (q : Nat) : (s.withSampler x).sectorEntry q = s.sectorEntry q := rfl
@[simp] theorem State.withKnot_begun (x : Knot) : (s.withKnot x).begun = s.begun := rfl
@[simp] theorem State.withKnot_station (x : Knot) : (s.withKnot x).station = s.station := rfl
@[simp] theorem State.withKnot_lineLength (x : Knot) : (s.withKnot x).lineLength = s.lineLength := rfl
@[simp] theorem State.withKnot_records (x : Knot) : (s.withKnot x).records = s.records := rfl
@[simp] theorem State.withKnot_contents (x : Knot) : (s.withKnot x).contents = s.contents := rfl
@[simp] theorem State.withKnot_twistNode (x : Knot) : (s.withKnot x).twistNode = s.twistNode := rfl
@[simp] theorem State.withKnot_knotNode (x : Knot) : (s.withKnot x).knotNode = s.knotNode := rfl
@[simp] theorem State.withKnot_coilNode (x : Knot) : (s.withKnot x).coilNode = s.coilNode := rfl
@[simp] theorem State.withKnot_follows (x : Knot) : (s.withKnot x).follows = s.follows := rfl
@[simp] theorem State.withKnot_twistRunning (x : Knot) : (s.withKnot x).twistRunning = s.twistRunning := rfl
@[simp] theorem State.withKnot_answers (x : Knot) : (s.withKnot x).answers = s.answers := rfl
@[simp] theorem State.withKnot_cutMayStart (x : Knot) : (s.withKnot x).cutMayStart = s.cutMayStart := rfl
@[simp] theorem State.withKnot_hasReason (x : Knot) : (s.withKnot x).hasReason = s.hasReason := rfl
@[simp] theorem State.withKnot_channel (x : Knot) (i : Fin 8) : (s.withKnot x).channel i = s.channel i := rfl
@[simp] theorem State.withKnot_spindle (x : Knot) (n : Fin 4) : (s.withKnot x).spindle n = s.spindle n := rfl
@[simp] theorem State.withKnot_spindleSettings (x : Knot) (n : Fin 4) : (s.withKnot x).spindleSettings n = s.spindleSettings n := rfl
@[simp] theorem State.withKnot_allocated (x : Knot) (i : Fin 8) : (s.withKnot x).allocated i = s.allocated i := rfl
@[simp] theorem State.withKnot_sectorEntry (x : Knot) (q : Nat) : (s.withKnot x).sectorEntry q = s.sectorEntry q := rfl
@[simp] theorem State.withStart_begun (x : StartRecord) : (s.withStart x).begun = s.begun := rfl
@[simp] theorem State.withStart_lineLength (x : StartRecord) : (s.withStart x).lineLength = s.lineLength := rfl
@[simp] theorem State.withStart_records (x : StartRecord) : (s.withStart x).records = s.records := rfl
@[simp] theorem State.withStart_contents (x : StartRecord) : (s.withStart x).contents = s.contents := rfl
@[simp] theorem State.withStart_twistNode (x : StartRecord) : (s.withStart x).twistNode = s.twistNode := rfl
@[simp] theorem State.withStart_knotNode (x : StartRecord) : (s.withStart x).knotNode = s.knotNode := rfl
@[simp] theorem State.withStart_coilNode (x : StartRecord) : (s.withStart x).coilNode = s.coilNode := rfl
@[simp] theorem State.withStart_follows (x : StartRecord) : (s.withStart x).follows = s.follows := rfl
@[simp] theorem State.withStart_twistRunning (x : StartRecord) : (s.withStart x).twistRunning = s.twistRunning := rfl
@[simp] theorem State.withStart_cutMayStart (x : StartRecord) : (s.withStart x).cutMayStart = s.cutMayStart := rfl
@[simp] theorem State.withStart_hasReason (x : StartRecord) : (s.withStart x).hasReason = s.hasReason := rfl
@[simp] theorem State.withStart_channel (x : StartRecord) (i : Fin 8) : (s.withStart x).channel i = s.channel i := rfl
@[simp] theorem State.withStart_spindle (x : StartRecord) (n : Fin 4) : (s.withStart x).spindle n = s.spindle n := rfl
@[simp] theorem State.withStart_spindleSettings (x : StartRecord) (n : Fin 4) : (s.withStart x).spindleSettings n = s.spindleSettings n := rfl
@[simp] theorem State.withStart_allocated (x : StartRecord) (i : Fin 8) : (s.withStart x).allocated i = s.allocated i := rfl
@[simp] theorem State.withStart_sectorEntry (x : StartRecord) (q : Nat) : (s.withStart x).sectorEntry q = s.sectorEntry q := rfl
@[simp] theorem State.emit_begun (l : List Instr) : (s.emit l).begun = s.begun := rfl
@[simp] theorem State.emit_station (l : List Instr) : (s.emit l).station = s.station := rfl
@[simp] theorem State.emit_lineLength (l : List Instr) : (s.emit l).lineLength = s.lineLength := rfl
@[simp] theorem State.emit_records (l : List Instr) : (s.emit l).records = s.records := rfl
@[simp] theorem State.emit_contents (l : List Instr) : (s.emit l).contents = s.contents := rfl
@[simp] theorem State.emit_twistNode (l : List Instr) : (s.emit l).twistNode = s.twistNode := rfl
@[simp] theorem State.emit_knotNode (l : List Instr) : (s.emit l).knotNode = s.knotNode := rfl
@[simp] theorem State.emit_coilNode (l : List Instr) : (s.emit l).coilNode = s.coilNode := rfl
@[simp] theorem State.emit_follows (l : List Instr) : (s.emit l).follows = s.follows := rfl
@[simp] theorem State.emit_twistRunning (l : List Instr) : (s.emit l).twistRunning = s.twistRunning := rfl
@[simp] theorem State.emit_answers (l : List Instr) : (s.emit l).answers = s.answers := rfl
@[simp] theorem State.emit_cutMayStart (l : List Instr) : (s.emit l).cutMayStart = s.cutMayStart := rfl
@[simp] theorem State.emit_hasReason (l : List Instr) : (s.emit l).hasReason = s.hasReason := rfl
@[simp] theorem State.emit_channel (l : List Instr) (i : Fin 8) : (s.emit l).channel i = s.channel i := rfl
@[simp] theorem State.emit_spindle (l : List Instr) (n : Fin 4) : (s.emit l).spindle n = s.spindle n := rfl
@[simp] theorem State.emit_spindleSettings (l : List Instr) (n : Fin 4) : (s.emit l).spindleSettings n = s.spindleSettings n := rfl
@[simp] theorem State.emit_allocated (l : List Instr) (i : Fin 8) : (s.emit l).allocated i = s.allocated i := rfl
@[simp] theorem State.emit_sectorEntry (l : List Instr) (q : Nat) : (s.emit l).sectorEntry q = s.sectorEntry q := rfl
@[simp] theorem State.take_begun (e : Instr) : (s.take e).begun = s.begun := rfl
@[simp] theorem State.take_station (e : Instr) : (s.take e).station = s.station := rfl
@[simp] theorem State.take_lineLength (e : Instr) : (s.take e).lineLength = s.lineLength := rfl
@[simp] theorem State.take_records (e : Instr) : (s.take e).records = s.records := rfl
@[simp] theorem State.take_contents (e : Instr) : (s.take e).contents = s.contents := rfl
@[simp] theorem State.take_twistNode (e : Instr) : (s.take e).twistNode = s.twistNode := rfl
@[simp] theorem State.take_knotNode (e : Instr) : (s.take e).knotNode = s.knotNode := rfl
@[simp] theorem State.take_coilNode (e : Instr) : (s.take e).coilNode = s.coilNode := rfl
@[simp] theorem State.take_follows (e : Instr) : (s.take e).follows = s.follows := rfl
@[simp] theorem State.take_twistRunning (e : Instr) : (s.take e).twistRunning = s.twistRunning := rfl
@[simp] theorem State.take_answers (e : Instr) : (s.take e).answers = s.answers := rfl
@[simp] theorem State.take_cutMayStart (e : Instr) : (s.take e).cutMayStart = s.cutMayStart := rfl
@[simp] theorem State.take_hasReason (e : Instr) : (s.take e).hasReason = s.hasReason := rfl
@[simp] theorem State.take_channel (e : Instr) (i : Fin 8) : (s.take e).channel i = s.channel i := rfl
@[simp] theorem State.take_spindle (e : Instr) (n : Fin 4) : (s.take e).spindle n = s.spindle n := rfl
@[simp] theorem State.take_spindleSettings (e : Instr) (n : Fin 4) : (s.take e).spindleSettings n = s.spindleSettings n := rfl
@[simp] theorem State.take_allocated (e : Instr) (i : Fin 8) : (s.take e).allocated i = s.allocated i := rfl
@[simp] theorem State.take_sectorEntry (e : Instr) (q : Nat) : (s.take e).sectorEntry q = s.sectorEntry q := rfl
@[simp] theorem State.takeLike_begun (p : Instr → Bool) : (s.takeLike p).begun = s.begun := rfl
@[simp] theorem State.takeLike_station (p : Instr → Bool) : (s.takeLike p).station = s.station := rfl
@[simp] theorem State.takeLike_lineLength (p : Instr → Bool) : (s.takeLike p).lineLength = s.lineLength := rfl
@[simp] theorem State.takeLike_records (p : Instr → Bool) : (s.takeLike p).records = s.records := rfl
@[simp] theorem State.takeLike_contents (p : Instr → Bool) : (s.takeLike p).contents = s.contents := rfl
@[simp] theorem State.takeLike_twistNode (p : Instr → Bool) : (s.takeLike p).twistNode = s.twistNode := rfl
@[simp] theorem State.takeLike_knotNode (p : Instr → Bool) : (s.takeLike p).knotNode = s.knotNode := rfl
@[simp] theorem State.takeLike_coilNode (p : Instr → Bool) : (s.takeLike p).coilNode = s.coilNode := rfl
@[simp] theorem State.takeLike_follows (p : Instr → Bool) : (s.takeLike p).follows = s.follows := rfl
@[simp] theorem State.takeLike_twistRunning (p : Instr → Bool) : (s.takeLike p).twistRunning = s.twistRunning := rfl
@[simp] theorem State.takeLike_answers (p : Instr → Bool) : (s.takeLike p).answers = s.answers := rfl
@[simp] theorem State.takeLike_cutMayStart (p : Instr → Bool) : (s.takeLike p).cutMayStart = s.cutMayStart := rfl
@[simp] theorem State.takeLike_hasReason (p : Instr → Bool) : (s.takeLike p).hasReason = s.hasReason := rfl
@[simp] theorem State.takeLike_channel (p : Instr → Bool) (i : Fin 8) : (s.takeLike p).channel i = s.channel i := rfl
@[simp] theorem State.takeLike_spindle (p : Instr → Bool) (n : Fin 4) : (s.takeLike p).spindle n = s.spindle n := rfl
@[simp] theorem State.takeLike_spindleSettings (p : Instr → Bool) (n : Fin 4) : (s.takeLike p).spindleSettings n = s.spindleSettings n := rfl
@[simp] theorem State.takeLike_allocated (p : Instr → Bool) (i : Fin 8) : (s.takeLike p).allocated i = s.allocated i := rfl
@[simp] theorem State.takeLike_sectorEntry (p : Instr → Bool) (q : Nat) : (s.takeLike p).sectorEntry q = s.sectorEntry q := rfl
@[simp] theorem State.setChannel_begun (j : Fin 8) (c : Channel) : (s.setChannel j c).begun = s.begun := rfl
@[simp] theorem State.setChannel_station (j : Fin 8) (c : Channel) : (s.setChannel j c).station = s.station := rfl
@[simp] theorem State.setChannel_lineLength (j : Fin 8) (c : Channel) : (s.setChannel j c).lineLength = s.lineLength := rfl
@[simp] theorem State.setChannel_records (j : Fin 8) (c : Channel) : (s.setChannel j c).records = s.records := rfl
@[simp] theorem State.setChannel_contents (j : Fin 8) (c : Channel) : (s.setChannel j c).contents = s.contents := rfl
@[simp] theorem State.setChannel_twistNode (j : Fin 8) (c : Channel) : (s.setChannel j c).twistNode = s.twistNode := rfl
@[simp] theorem State.setChannel_knotNode (j : Fin 8) (c : Channel) : (s.setChannel j c).knotNode = s.knotNode := rfl
@[simp] theorem State.setChannel_coilNode (j : Fin 8) (c : Channel) : (s.setChannel j c).coilNode = s.coilNode := rfl
@[simp] theorem State.setChannel_follows (j : Fin 8) (c : Channel) : (s.setChannel j c).follows = s.follows := rfl
@[simp] theorem State.setChannel_twistRunning (j : Fin 8) (c : Channel) : (s.setChannel j c).twistRunning = s.twistRunning := rfl
@[simp] theorem State.setChannel_answers (j : Fin 8) (c : Channel) : (s.setChannel j c).answers = s.answers := rfl
@[simp] theorem State.setChannel_cutMayStart (j : Fin 8) (c : Channel) : (s.setChannel j c).cutMayStart = s.cutMayStart := rfl
@[simp] theorem State.setChannel_hasReason (j : Fin 8) (c : Channel) : (s.setChannel j c).hasReason = s.hasReason := rfl
@[simp] theorem State.setChannel_spindle (j : Fin 8) (c : Channel) (n : Fin 4) : (s.setChannel j c).spindle n = s.spindle n := rfl
@[simp] theorem State.setChannel_spindleSettings (j : Fin 8) (c : Channel) (n : Fin 4) : (s.setChannel j c).spindleSettings n = s.spindleSettings n := rfl
@[simp] theorem State.setChannel_allocated (j : Fin 8) (c : Channel) (i : Fin 8) : (s.setChannel j c).allocated i = s.allocated i := rfl
@[simp] theorem State.setChannel_sectorEntry (j : Fin 8) (c : Channel) (q : Nat) : (s.setChannel j c).sectorEntry q = s.sectorEntry q := rfl

/-! ### Channels, spindles and entries by their number -/

theorem State.setChannel_channel (i j : Fin 8) (c : Channel) :
    (s.setChannel i c).channel j = if i = j then c else s.channel j := by
  simp [State.channel, State.setChannel, Vector.getElem_set, Fin.ext_iff]

@[simp] theorem State.setChannel_channel_self (i : Fin 8) (c : Channel) : (s.setChannel i c).channel i = c := by
  simp [State.setChannel_channel]

theorem State.setChannel_channel_ne {i j : Fin 8} (c : Channel) (h : j ≠ i) : (s.setChannel i c).channel j = s.channel j := by
  simp [State.setChannel_channel, h.symm]

theorem State.setSpindle_spindle (n m : Fin 4) (p : Spindle) :
    (s.setSpindle n p).spindle m = if n = m then p else s.spindle m := by
  simp [State.spindle, State.setSpindle, State.withTwist, Vector.getElem_set, Fin.ext_iff]

@[simp] theorem State.setSpindle_spindle_self (n : Fin 4) (p : Spindle) : (s.setSpindle n p).spindle n = p := by
  simp [State.setSpindle_spindle]

theorem State.setSpindle_spindle_ne {n m : Fin 4} (p : Spindle) (h : m ≠ n) : (s.setSpindle n p).spindle m = s.spindle m := by
  simp [State.setSpindle_spindle, h.symm]

theorem State.setEntryRecord_entries (n m : Fin 8) (e : ScanEntry) :
    (s.setEntryRecord n e).sampler.entries[m] = if n = m then e else s.sampler.entries[m] := by
  simp [Vector.getElem_set, Fin.ext_iff]

/-- A ring sector's entry reads back; every other sector keeps its own. -/
theorem State.setEntry_sectorEntry (p q : Nat) (e : SectorEntry) (hp : 16 ≤ p) (hq : 16 ≤ q)
    (hl : p - 16 < s.store.table.length) : (s.setEntry p e).sectorEntry q = if p = q then e else s.sectorEntry q := by
  unfold State.sectorEntry
  simp only [State.setEntry_store]
  by_cases h : p = q
  · subst h
    simp [List.getD_eq_getElem?_getD, hl]
  · have : p - 16 ≠ q - 16 := by omega
    simp [List.getD_eq_getElem?_getD, List.getElem?_set_ne this, h]

end Sys2Proof.Machine
end

