-- ==== Sys2Proof/Laws/Frames.lean ====
section
/-! SUPPORT. What each shared operation can change at all: one frame lemma for each, in the words of `Only`, so that a command's
frame is composed from those of the operations it is written with. -/

-- One declaration at a time: side by side, these proofs ask for more threads than the memory limit of a build allows.
set_option Elab.async false

namespace Sys2Proof.Machine

variable {s t u : State} {l m : List Part}

/-! ### The calculus of frames -/

theorem Only.refl (l : List Part) (s : State) : Only l s s := ⟨rfl, fun p _ => by cases p <;> rfl⟩

theorem Part.kept_trans {p : Part} (h : p.kept s t) (k : p.kept t u) : p.kept s u := by
  cases p <;> exact Eq.trans k h

/-- A frame holds for every larger list of parts. -/
theorem Only.grow (h : Only l s t) (hm : l.all (fun p => m.contains p) = true := by decide) : Only m s t :=
  ⟨h.1, fun p hp => h.2 p fun hl => hp (by simpa using List.all_eq_true.1 hm p hl)⟩

/-- Two changes in succession. -/
theorem Only.trans (h : Only l s t) (k : Only l t u) : Only l s u :=
  ⟨k.1.trans h.1, fun p hp => Part.kept_trans (h.2 p hp) (k.2 p hp)⟩

/-- A change followed by one of fewer parts. -/
theorem Only.step (h : Only l s t) (k : Only m t u) (hm : m.all (fun p => l.contains p) = true := by decide) : Only l s u :=
  h.trans (k.grow hm)

/-- A change of fewer parts first. -/
theorem Only.after (k : Only m s t) (h : Only l t u) (hm : m.all (fun p => l.contains p) = true := by decide) : Only l s u :=
  (k.grow hm).trans h

theorem Only.ite {c : Prop} [Decidable c] (h : Only l s t) (k : Only l s u) : Only l s (if c then t else u) := by
  split <;> assumption

/-- What a fold of changes can change is what each can. -/
theorem Only.foldl {α : Type} {f : State → α → State} (h : ∀ s a, Only l s (f s a)) (k : List α) (s : State) :
    Only l s (k.foldl f s) := by
  induction k generalizing s with
  | nil => exact Only.refl l s
  | cons a k ih => exact (h s a).trans (ih _)

/-! ### The updates -/

variable (s : State)

theorem withLine_only (x : FloorLine) : Only [.line] s (s.withLine x) :=
  ⟨rfl, fun p hp => by cases p <;> first | rfl | exact absurd (by decide) hp⟩

theorem withProt_only (x : Protection) : Only [.prot] s (s.withProt x) :=
  ⟨rfl, fun p hp => by cases p <;> first | rfl | exact absurd (by decide) hp⟩

theorem withStore_only (x : Store) : Only [.store] s (s.withStore x) :=
  ⟨rfl, fun p hp => by cases p <;> first | rfl | exact absurd (by decide) hp⟩

theorem withCoil_only (x : CoilBuilder) : Only [.coil] s (s.withCoil x) :=
  ⟨rfl, fun p hp => by cases p <;> first | rfl | exact absurd (by decide) hp⟩

theorem withMeter_only (x : Metering) : Only [.meter] s (s.withMeter x) :=
  ⟨rfl, fun p hp => by cases p <;> first | rfl | exact absurd (by decide) hp⟩

theorem withTwist_only (x : Twist) : Only [.twist] s (s.withTwist x) :=
  ⟨rfl, fun p hp => by cases p <;> first | rfl | exact absurd (by decide) hp⟩

theorem withSampler_only (x : Sampler) : Only [.sampler] s (s.withSampler x) :=
  ⟨rfl, fun p hp => by cases p <;> first | rfl | exact absurd (by decide) hp⟩

theorem withKnot_only (x : Knot) : Only [.knot] s (s.withKnot x) :=
  ⟨rfl, fun p hp => by cases p <;> first | rfl | exact absurd (by decide) hp⟩

theorem withStart_only (x : StartRecord) : Only [.startRec] s (s.withStart x) :=
  ⟨rfl, fun p hp => by cases p <;> first | rfl | exact absurd (by decide) hp⟩

theorem withPins_only (x : Pins) : Only [.pins] s (s.withPins x) :=
  ⟨rfl, fun p hp => by cases p <;> first | rfl | exact absurd (by decide) hp⟩

theorem withPeers_only (x : List Peer) : Only [.peers] s { s with peers := x } :=
  ⟨rfl, fun p hp => by cases p <;> first | rfl | exact absurd (by decide) hp⟩

theorem withMemory_only (x : Memory) : Only [.memory] s { s with memory := x } :=
  ⟨rfl, fun p hp => by cases p <;> first | rfl | exact absurd (by decide) hp⟩

theorem withDue_only (x : List Instr) : Only [.due] s { s with due := x } :=
  ⟨rfl, fun p hp => by cases p <;> first | rfl | exact absurd (by decide) hp⟩

theorem setChannel_only (i : Fin 8) (c : Channel) : Only [.channels] s (s.setChannel i c) :=
  ⟨rfl, fun p hp => by cases p <;> first | rfl | exact absurd (by decide) hp⟩

theorem emit_only (k : List Instr) : Only [.due] s (s.emit k) := withDue_only s _

theorem take_only (e : Instr) : Only [.due] s (s.take e) := withDue_only s _

theorem takeLike_only (p : Instr → Bool) : Only [.due] s (s.takeLike p) := withDue_only s _

theorem setSpindle_only (n : Fin 4) (p : Spindle) : Only [.twist] s (s.setSpindle n p) := withTwist_only s _

theorem setOpen_only (r : Option CoilRecord) : Only [.coil] s (s.setOpen r) := withCoil_only s _

theorem setClosing_only (r : Option CoilRecord) : Only [.coil] s (s.setClosing r) := withCoil_only s _

theorem setHeld_only (r : Option CoilRecord) : Only [.coil] s (s.setHeld r) := withCoil_only s _

theorem setEntryRecord_only (n : Fin 8) (e : ScanEntry) : Only [.sampler] s (s.setEntryRecord n e) := withSampler_only s _

theorem setEntry_only (p : Nat) (e : SectorEntry) : Only [.store] s (s.setEntry p e) := withStore_only s _

/-! ### The arithmetic status -/

theorem setFlag_only (f : ArithFlag) (o : Origin) : Only [.due, .meter] s (setFlag f o s) := by
  unfold setFlag
  exact .ite ((withMeter_only s _).after (l := [.due, .meter]) ((emit_only _ _).grow)) ((withMeter_only s _).grow)

theorem setFlagIf_only (f : Option ArithFlag) (o : Origin) : Only [.due, .meter] s (setFlagIf f o s) := by
  cases f with
  | none => exact Only.refl _ s
  | some f => exact setFlag_only s f o

theorem clearStatus_only : Only [.meter] s (clearStatus s) := withMeter_only s _

theorem convertFlag_only (x : Int) : Only [.due, .meter] s (convertFlag x s) := by
  unfold convertFlag
  exact .ite (setFlag_only s _ _) (Only.refl _ s)

/-! ### The floor line -/

theorem beginAttempt_only : Only [.due, .meter, .line] s (beginAttempt s) := by
  unfold beginAttempt
  split
  · exact Only.refl _ s
  · dsimp only
    have h := fun x y : FloorLine => ((withLine_only s x).step (withLine_only _ y)).grow (m := [.due, .meter, .line])
    exact .ite ((h _ _).step (convertFlag_only _ _)) (h _ _)

theorem pollLine_only : Only [.due, .meter, .line] s (pollLine s) := by
  unfold pollLine
  split
  · exact .ite (beginAttempt_only s) (withLine_only s _).grow
  · exact .ite (beginAttempt_only s) (Only.refl _ s)
  · exact (withLine_only s _).grow
  · exact Only.refl _ s

theorem joinHalt_only (c : FrameContent) : Only [.due, .line] s (joinHalt c s) := by
  unfold joinHalt
  dsimp only
  exact .ite (withLine_only s _).grow (.ite ((withLine_only s _).step (withLine_only _ _)).grow
    ((withLine_only s _).after (l := [.due, .line]) (emit_only _ _).grow))

theorem joinRoutine_only (c : FrameContent) : Only [.line] s (joinRoutine c s) := by
  unfold joinRoutine
  dsimp only
  exact .ite (Only.refl _ s) (.ite (withLine_only s _) (withLine_only s _))

/-- Handing a frame to the line changes the line, and the arithmetic status where an attempt of a PRESENCE begins. -/
theorem sendFrame_only (c : FrameContent) : Only [.due, .meter, .line] s (sendFrame c s) := by
  unfold sendFrame
  exact (Only.ite (joinHalt_only s c).grow (joinRoutine_only s c).grow).trans (pollLine_only _)

theorem sendReply_only (k : ServiceKind) (d : Station) (b : List Byte) : Only [.due, .meter, .line] s (sendReply k d b s) :=
  sendFrame_only s _

/-! ### Protection -/

theorem refreshAlarm_only : Only [.prot] s (refreshAlarm s) := by
  unfold refreshAlarm
  exact .ite (Only.refl _ s) (.ite (withProt_only s _) (withProt_only s _))

theorem setPermit_only (p : Permit) : Only [.due, .prot] s (setPermit p s) := by
  unfold setPermit
  exact (withProt_only s _).after (l := [.due, .prot]) (emit_only _ _).grow

theorem haltingDecision_only : Only [.due, .prot] s (haltingDecision s) := by
  unfold haltingDecision
  exact (withProt_only s _).after (setPermit_only _ _)

theorem reasonAppears_only (b : Bool) : Only [.due, .prot] s (reasonAppears b s) := by
  unfold reasonAppears
  split
  · have h := (withProt_only s { s.prot with
      eligible := s.settings.autoResume && !b, haltLeft := some (ofMs (s.settings.haltTimeout * 1000)) }).after
      (setPermit_only _ .halting)
    exact .ite (h.trans (haltingDecision_only _)) h
  · exact setPermit_only s _
  · exact Only.refl _ s

theorem reasonCleared_only : Only [.due, .prot] s (reasonCleared s) := by
  unfold reasonCleared
  exact .ite (.ite (setPermit_only s _) (.ite (Only.refl _ s) (setPermit_only s _))) (Only.refl _ s)

theorem issueHalt_only (c : Cause) : Only [.due, .meter, .line, .prot] s (issueHalt c s) := by
  unfold issueHalt
  exact ((withProt_only s _).after (convertFlag_only _ _).grow).step (sendFrame_only _ _)

theorem requestWithdrawal_only : Only [.due, .prot] s (requestWithdrawal s) := by
  unfold requestWithdrawal
  exact (withProt_only s _).after (l := [.due, .prot]) (emit_only _ _).grow

theorem episodeRaise_only (c : Cause) : Only [.due, .meter, .line, .prot] s (episodeRaise c s) := by
  unfold episodeRaise
  split
  · exact (withProt_only s _).after (issueHalt_only _ c)
  · exact (requestWithdrawal_only s).after (issueHalt_only _ c)
  · exact issueHalt_only s c

theorem episodeClear_only : Only [.due, .prot] s (episodeClear s) := by
  unfold episodeClear
  exact .ite ((requestWithdrawal_only s).step (withProt_only _ _)) (Only.refl _ s)

/-- Raising a cause changes the protection record, the line and the arithmetic status, and gives notices. -/
theorem raise_only (c : Cause) : Only [.due, .meter, .line, .prot] s (raise c s) := by
  unfold raise
  refine .ite (Only.refl _ s) ?_
  have h1 := (withProt_only s { s.prot with
    causes := addCause c s.prot.causes
    eligible := s.prot.eligible && !(c.latching && s.prot.permit != .running) }).grow (m := [.due, .meter, .line, .prot])
  dsimp only
  refine Only.step (Only.step (Only.step (h1.trans ?_) (reasonAppears_only _ _)) (emit_only _ _)) (refreshAlarm_only _)
  exact .ite (episodeRaise_only _ c) (Only.refl _ _)

/-- Clearing a cause changes the protection record and gives notices. -/
theorem clear_only (c : Cause) : Only [.due, .prot] s (clear c s) := by
  unfold clear
  refine .ite ?_ (Only.refl _ s)
  have h1 := ((withProt_only s { s.prot with causes := dropCause c s.prot.causes }).grow (m := [.due, .prot])).step
    (emit_only _ (clearNotices c))
  dsimp only
  refine Only.step (Only.step (h1.trans ?_) (reasonCleared_only _)) (refreshAlarm_only _)
  exact .ite (episodeClear_only _) (Only.refl _ _)

/-! ### Channels -/

theorem expireChannel_only (i : Fin 8) (m : RunMode) : Only [.due, .channels] s (expireChannel i m s) := by
  unfold expireChannel
  exact .ite ((setChannel_only s _ _).after (l := [.due, .channels]) (emit_only _ _).grow) (Only.refl _ s)

theorem driveChannel_only (i : Fin 8) : Only [.channels] s (driveChannel i s) := by
  unfold driveChannel
  exact .ite (setChannel_only s _ _) (Only.refl _ s)

theorem giveRow_only (i : Fin 8) (m : RunMode) : Only [.due] s (giveRow i m s) := emit_only s _

theorem giveExpiry_only (i : Fin 8) (m : RunMode) : Only [.due, .channels] s (giveExpiry i m s) :=
  .ite ((expireChannel_only s i m).step (giveRow_only _ i m)) (Only.refl _ s)

theorem takeExpiry_only (given : Bool) (i : Fin 8) (m : RunMode) : Only [.due, .channels] s (takeExpiry given i m s) := by
  unfold takeExpiry
  exact .ite (Only.refl _ s) (expireChannel_only s i m)

theorem giveDrive_only (i : Fin 8) : Only [.due, .channels] s (giveDrive i s) := by
  unfold giveDrive
  exact .ite ((driveChannel_only s i).after (l := [.due, .channels]) (emit_only _ _).grow) (driveChannel_only s i).grow

theorem runChannel_only (i : Fin 8) : Only [.due, .channels] s (runChannel i s) := by
  unfold runChannel
  have h := fun c => (setChannel_only s i c).grow (m := [.due, .channels])
  exact .ite ((h _).trans (giveDrive_only _ _)) (h _)

theorem startChannel_only (i : Fin 8) (r : StartRequest) : Only [.due, .channels] s (startChannel i r s) := by
  unfold startChannel
  have h := fun c => (setChannel_only s i c).grow (m := [.due, .channels])
  exact .ite ((h _).trans (runChannel_only _ _)) (h _)

theorem widthExpiry_only (i : Fin 8) (v : BitVec 24) : Only [.due, .channels] s (widthExpiry i v s) := by
  unfold widthExpiry
  exact .ite ((setChannel_only s _ _).after (l := [.due, .channels]) (emit_only _ _).grow) (Only.refl _ s)

theorem periodExpiry_only (i : Fin 8) : Only [.due, .channels] s (periodExpiry i s) := by
  unfold periodExpiry
  exact .ite ((setChannel_only s _ _).after (l := [.due, .channels]) (emit_only _ _).grow) (Only.refl _ s)

theorem countEdge_only (i : Fin 8) : Only [.due, .channels] s (countEdge i s) := by
  unfold countEdge
  exact .ite (giveExpiry_only s i .count) (setChannel_only s _ _).grow

/-- An edge of a channel's input changes that channel's record and those chained on it, and gives events (R4). -/
theorem inputEdge_only (i : Fin 8) (b : Bool) : Only [.due, .channels] s (inputEdge i b s) := by
  unfold inputEdge activeEdge inactiveEdge
  refine .ite (.ite (runChannel_only s i) (.ite ?_ (Only.refl _ s)))
    (.ite ((widthExpiry_only s i _).step (emit_only _ _)) (Only.refl _ s))
  split
  · exact countEdge_only s i
  · exact periodExpiry_only s i
  · exact Only.refl _ s

theorem drawEdge_only (b : Bool) : Only [.due, .channels] s (drawEdge b s) := .ite (inputEdge_only s 0 b) (Only.refl _ s)

/-! ### The record store -/

theorem judgeBank_only (n b : Nat) : Only [.store] s (judgeBank n b s).1 := by
  unfold judgeBank
  repeat' split
  all_goals exact withStore_only s _

theorem searchSector_only : Only [.store] s (searchSector s).1 := by
  unfold searchSector
  dsimp only
  split
  · exact withStore_only s _
  · exact judgeBank_only s 0 _

theorem eraseBankNow_only (w : Wear) (b : Nat) : Only [.store, .memory] s (eraseBankNow w b s) := by
  unfold eraseBankNow
  have h := (withMemory_only s (s.memory.eraseBank w b)).grow (m := [.store, .memory])
  exact .ite h (h.trans (Only.foldl (fun t p => (setEntry_only t p _).grow) _ _))

theorem searchOn_only (w : Wear) (b n : Nat) : Only [.store, .memory] s (searchOn w b n s).1 := by
  have h := eraseBankNow_only s w b
  unfold searchOn
  dsimp only
  split
  · exact h.step (withStore_only _ _)
  · exact h.step (judgeBank_only _ _ _)

theorem firstStep_only (op : StoreOp) : Only [.store] s (firstStep op s).1 := by
  have h := searchSector_only s
  cases op with
  | programHeader coil image => exact h
  | keep coil =>
    unfold firstStep
    dsimp only
    split
    · exact Only.refl _ s
    · exact h
  | _ => exact Only.refl _ s

theorem beginOp_only (op : StoreOp) : Only [.store] s (beginOp op s) := (firstStep_only s op).trans (withStore_only _ _)

/-- Beginning the next operation answers the requested erases that find an anchor. -/
theorem startNext_only (ops : List StoreOp) : Only [.due, .meter, .line, .store] s (startNext ops s) := by
  have hb : ∀ (op : StoreOp) (ops : List StoreOp) (s : State),
      Only [.due, .meter, .line, .store] s (beginOp op (s.withStore { s.store with waiting := ops })) :=
    fun op ops s => ((withStore_only s _).trans (beginOp_only _ op)).grow
  induction ops generalizing s with
  | nil => exact (withStore_only s _).grow
  | cons op ops ih =>
    cases op with
    | eraseBank b source =>
      rw [startNext]
      exact .ite ((sendReply_only s _ _ _).grow.trans (ih _)) (hb _ _ _)
    | _ => exact hb _ _ _

theorem enqueue_only (op : StoreOp) : Only [.due, .meter, .line, .store] s (enqueue op s) := by
  unfold enqueue
  exact .ite (startNext_only s _) (withStore_only s _).grow

theorem queueOffer_only : Only [.due, .meter, .line, .store] s (queueOffer s) := by
  unfold queueOffer
  exact .ite (startNext_only s _) (withStore_only s _).grow

theorem handSeal_only (coil : Nat) : Only [.due, .meter, .line, .store] s (handSeal coil s) :=
  (queueOffer_only s).trans (enqueue_only _ _)

theorem endOp_only : Only [.due, .meter, .line, .store] s (endOp s) := by
  unfold endOp
  have h := fun x : Store => (withStore_only s x).grow (m := [.due, .meter, .line, .store])
  exact .ite (((h _).step (withStore_only _ _)).trans (startNext_only _ _)) ((h _).trans (startNext_only _ _))

theorem countStep_only (r : StepResult) : Only [.store] s (countStep r s) := by
  cases r
  · exact Only.refl _ s
  · exact withStore_only s _
  · exact withStore_only s _

theorem programNow_only (w : Wear) (a : Nat) (b : List Byte) : Only [.store, .memory] s (programNow w a b s).1 := by
  unfold programNow
  exact (withMemory_only s _).after (l := [.store, .memory]) (countStep_only _ _).grow

theorem voidMark_only (w : Wear) (p : Nat) : Only [.coil, .store, .memory] s (voidMark w p s) := by
  unfold voidMark
  have h := fun x : Memory => (withMemory_only s x).grow (m := [.coil, .store, .memory])
  exact ((Only.ite (h _) ((h _).step (countStep_only _ _))).step (setEntry_only _ _ _)).step (withCoil_only _ _)

theorem updateRecord_only (coil : Nat) (f : CoilRecord → CoilRecord) : Only [.coil] s (s.updateRecord coil f) :=
  withCoil_only s _

theorem entered_only (op : StoreOp) (p : Nat) : Only [.coil, .store] s (entered op p s) := by
  have h := fun (e : SectorEntry) (coil : Nat) (f : CoilRecord → CoilRecord) =>
    (setEntry_only s p e).after (l := [.coil, .store]) (updateRecord_only _ coil f).grow
  unfold entered
  split
  · exact h _ _ _
  · split
    · exact h _ _ _
    · exact Only.refl _ s
  · exact (setEntry_only s _ _).grow
  · exact Only.refl _ s

theorem endProgram_only (w : Wear) (f : InFlight) (p : Nat) : Only [.coil, .store, .memory] s (endProgram w f p s).1 := by
  unfold endProgram
  dsimp only
  have h := (programNow_only s w (programmed f.op p s).1 (programmed f.op p s).2).grow (m := [.coil, .store, .memory])
  generalize programNow w (programmed f.op p s).1 (programmed f.op p s).2 s = x at h ⊢
  obtain ⟨s1, r⟩ := x
  cases r with
  | good => exact h.step (entered_only _ _ _)
  | _ => cases f.op <;> exact h

theorem endVoid_only (w : Wear) (f : InFlight) (p : Nat) : Only [.coil, .store, .memory] s (endVoid w f p s).1 := by
  unfold endVoid
  have h := voidMark_only s w p
  dsimp only
  split
  · exact h.step (searchSector_only _)
  · exact h.step (withStore_only _ _)
  · exact h

/-- The end of a step changes the memory, the store, and the anchors of the coil builder's records. -/
theorem endStep_only (w : Wear) (f : InFlight) : Only [.coil, .store, .memory] s (endStep w f s).1 := by
  unfold endStep
  split
  · exact Only.refl _ s
  · exact Only.refl _ s
  · split
    · exact (eraseBankNow_only s w 0).grow
    · exact (searchOn_only s w _ _).grow
  · exact endProgram_only s w f _
  · exact endVoid_only s w f _

theorem runSteps_only (w : Wear) (n : Nat) (f : InFlight) : Only [.coil, .store, .memory] s (runSteps w n f s).1 := by
  induction n generalizing s f with
  | zero => exact Only.refl _ s
  | succ n ih =>
    have h := endStep_only s w f
    rw [runSteps]
    generalize endStep w f s = x at h ⊢
    obtain ⟨s1, o⟩ := x
    cases o with
    | done good => exact h
    | next step retry => exact h.trans (ih s1 _)

/-- All the steps of an operation change the memory, the store, and the anchors of the coil builder's records. -/
theorem runOp_only (w : Wear) (f : InFlight) : Only [.coil, .store, .memory] s (runOp w f s).1 := runSteps_only s w 40 f

/-! ### The coil builder -/

theorem openCoil_only : Only [.due, .meter, .line, .coil, .store] s (openCoil s) := by
  unfold openCoil
  split
  · exact (emit_only s _).grow
  · exact ((convertFlag_only s _).after (l := [.due, .meter, .line, .coil, .store]) (withCoil_only _ _).grow).step
      (enqueue_only _ _)

theorem clearHold_only : Only [.due] s (clearHold s) := by
  unfold clearHold
  exact .ite (emit_only s _) (Only.refl _ s)

theorem startCut_only (r : CoilRecord) : Only [.due, .coil] s (startCut r s) := by
  unfold startCut
  exact (withCoil_only s _).after (l := [.due, .coil]) (emit_only _ _).grow

theorem startWaitingCut_only (r : CoilRecord) : Only [.due, .coil] s (startWaitingCut r s) := by
  unfold startWaitingCut
  exact (startCut_only s r).step (emit_only _ _)

theorem restAgain_only : Only [.coil] s (restAgain s) := withCoil_only s _

theorem judgeCut_only (r : CoilRecord) : Only [.due, .coil] s (judgeCut r s) := by
  unfold judgeCut
  exact .ite (startCut_only s r) (restAgain_only s).grow

theorem judgeAfterGathering_only : Only [.due, .coil] s (judgeAfterGathering s) := by
  unfold judgeAfterGathering
  split
  · exact .ite (startWaitingCut_only s _) (Only.refl _ s)
  · exact Only.refl _ s

theorem endCoil_only (e : EndReason) (r : CoilRecord) : Only [.due, .coil] s (endCoil e r s) := by
  unfold endCoil
  exact ((setOpen_only s _).after (l := [.due, .coil]) (emit_only _ _).grow).trans (judgeCut_only _ _)

theorem compareTarget_only : Only [.due, .meter, .coil] s (compareTarget s) := by
  unfold compareTarget
  split
  · refine .ite ?_ (Only.refl _ s)
    have h := (convertFlag_only s (s.segmentOf ‹_›)).grow (m := [.due, .meter, .coil])
    exact .ite (h.step (endCoil_only _ _ _)) h
  · exact Only.refl _ s

theorem sendMark_only (k : MarkKind) (c : BitVec 32) : Only [.due, .meter, .line] s (sendMark k c s) :=
  (convertFlag_only s _).after (l := [.due, .meter, .line]) (sendFrame_only _ _)

theorem sealClosing_only (r : CoilRecord) : Only [.due, .meter, .line, .coil, .store] s (sealClosing r s) :=
  (((setClosing_only s _).grow (m := [.due, .meter, .line, .coil, .store])).step (clearStatus_only _)).step (handSeal_only _ _)

theorem sealOpen_only (r : CoilRecord) : Only [.due, .meter, .line, .coil, .store] s (sealOpen r s) :=
  ((((setOpen_only s _).grow (m := [.due, .meter, .line, .coil, .store])).step (clearStatus_only _)).step
    (handSeal_only _ _)).step (emit_only _ _)

theorem closeUp_only (r : CoilRecord) : Only [.due, .meter, .line, .coil, .store] s (closeUp r s) := by
  unfold closeUp
  have h5 := (((withCoil_only s { s.coil with openSlot := none, closingSlot := some r }).grow
    (m := [.due, .meter, .line, .coil, .store])).step (sendMark_only _ .cut (BitVec.ofNat 32 r.coil))).trans (openCoil_only _)
  have h6 := h5.step (clearHold_only _)
  dsimp only
  refine .ite ?_ ?_
  · exact Only.trans (.ite (h6.step (emit_only _ _)) h6) (sealClosing_only _ _)
  · exact ((Only.ite (h6.step (emit_only _ _)) h6).step (setClosing_only _ _)).step (emit_only _ _)

theorem closingEmptied_only : Only [.due, .meter, .line, .coil, .store] s (closingEmptied s) := by
  unfold closingEmptied
  split
  · exact .ite (closeUp_only s _) (Only.refl _ s)
  · exact Only.refl _ s

theorem heldEmptied_only : Only [.due, .meter, .line, .coil, .store] s (heldEmptied s) := by
  have ho : Only [.due, .meter, .line, .coil, .store] s (heldEmptied.heldFromOpen s) := by
    unfold heldEmptied.heldFromOpen
    split
    · exact .ite ((((withCoil_only s _).grow (m := [.due, .meter, .line, .coil, .store])).step (queueOffer_only _)).step
        (clearHold_only _)) (Only.refl _ s)
    · exact Only.refl _ s
  unfold heldEmptied
  split
  · exact .ite ((((withCoil_only s _).grow (m := [.due, .meter, .line, .coil, .store])).step (queueOffer_only _)).trans
      (closingEmptied_only _)) ho
  · exact ho

theorem notKeptClosing_only (r : CoilRecord) : Only [.due, .meter, .line, .coil, .store] s (notKeptClosing r s) := by
  unfold notKeptClosing
  exact .ite ((withCoil_only s _).after (closingEmptied_only _))
    (((setClosing_only s _).grow (m := [.due, .meter, .line, .coil, .store])).step (emit_only _ _))

theorem notKeptOpen_only (r : CoilRecord) : Only [.due, .coil] s (notKeptOpen r s) := by
  unfold notKeptOpen
  exact .ite ((withCoil_only s _).after (l := [.due, .coil]) (clearHold_only _).grow)
    (((setOpen_only s _).grow (m := [.due, .coil])).step (emit_only _ _))

/-- A keep report changes the slots, and what follows from a slot that empties. -/
theorem takeKeepReport_only (coil : Nat) (kept : Bool) : Only [.due, .meter, .line, .coil, .store] s (takeKeepReport coil kept s) := by
  unfold takeKeepReport
  split
  · exact .ite ((setHeld_only s _).after (heldEmptied_only _)) (Only.refl _ s)
  · split
    · split
      · exact (setClosing_only s _).after (closingEmptied_only _)
      · exact notKeptClosing_only s _
      · exact Only.refl _ s
    · split
      · split
        · exact (setOpen_only s _).after (l := [.due, .meter, .line, .coil, .store]) (clearHold_only _).grow
        · exact (notKeptOpen_only s _).grow
        · exact Only.refl _ s
      · exact Only.refl _ s

theorem offsetFlag_only (n : Nat) (x : Int) : Only [.due, .meter] s (offsetFlag n x s) :=
  .ite (convertFlag_only s x) (Only.refl _ s)

theorem logOpen_only (c : Byte) (n : Station) (b o : Bool) : Only [.due, .meter, .coil] s (logOpen c n b o s) := by
  unfold logOpen
  split
  · exact .ite ((offsetFlag_only s _ _).after (l := [.due, .meter, .coil]) (setOpen_only _ _).grow) (Only.refl _ s)
  · exact Only.refl _ s

theorem releaseTallies_only : Only [.due, .meter, .line, .coil] s (releaseTallies s) := by
  unfold releaseTallies
  exact (withCoil_only s _).after (Only.foldl (fun t _ => (sendFrame_only t _).grow) _ _)

/-! ### Metering, twist, sampling and knots -/

theorem checkSlip_only : Only [.due, .meter] s (checkSlip s) := by
  unfold checkSlip
  have h := fun x : Metering => (Only.ite (c := 65535 < slipOf (s.meter.encA.length - s.meter.slipA)
    (s.meter.encB.length - s.meter.slipB)) (setFlag_only s .rng .slip) (Only.refl _ s)).step (withMeter_only _ x)
  exact .ite ((h _).step (emit_only _ _)) (h _)

theorem takeCount_only (e : EncoderId) (k : Int) : Only [.due, .meter, .coil] s (takeCount e k s) := by
  unfold takeCount
  have h1 := fun (x : Metering) (f : Option ArithFlag) (o : Origin) =>
    ((withMeter_only s x).after (setFlagIf_only _ f o)).grow (m := [.due, .meter, .coil])
  have h2 := fun (x : Metering) (f : Option ArithFlag) (o : Origin) (c : Prop) [Decidable c] =>
    Only.ite (c := c) ((h1 x f o).step (checkSlip_only _)) (h1 x f o)
  exact .ite (h2 _ _ _ _) ((h2 _ _ _ _).step (compareTarget_only _))

theorem checkDrift_only (x : BitVec 32) (p : Nat) (o : Int) : Only [.due, .meter] s (checkDrift x p o s) := by
  unfold checkDrift
  refine .ite (Only.refl _ s) ?_
  dsimp only
  have h := fun (c : Prop) [Decidable c] (y : Metering) =>
    (Only.ite (c := c) (setFlag_only s .rng .drift) (Only.refl _ s)).step (withMeter_only _ y)
  exact .ite ((h _ _).step (emit_only _ _)) (h _ _)

theorem closeWindow_only (n : Fin 4) (k : Nat) (x : Int) (b : Bool) : Only [.due, .meter, .twist] s (closeWindow n k x b s) := by
  unfold closeWindow
  have h := fun f : Option ArithFlag => (setFlagIf_only s f (.lay n)).grow (m := [.due, .meter, .twist])
  exact (Only.ite ((h _).step (emit_only _ _)) (h _)).step (setSpindle_only _ _ _)

theorem stallWindow_only (n : Fin 4) : Only [.due, .meter, .twist] s (stallWindow n s) := by
  unfold stallWindow
  have h := (setFlag_only s .dvz (.lay n)).grow (m := [.due, .meter, .twist])
  exact (Only.ite h (h.step (emit_only _ _))).step (setSpindle_only _ _ _)

theorem checkStall_only (n : Fin 4) : Only [.due, .meter, .twist] s (checkStall s n) := by
  unfold checkStall
  exact .ite (Only.refl _ s) (.ite (setSpindle_only s _ _).grow (.ite (closeWindow_only s _ _ _ _) (stallWindow_only s n)))

theorem countTurn_only (n : Fin 4) : Only [.due, .meter, .twist] s (countTurn n s) := by
  unfold countTurn
  exact .ite (closeWindow_only s _ _ _ _) (setSpindle_only s _ _).grow

theorem steerReference_only (b : Bool) : Only [.due] s (steerReference b s) := by
  unfold steerReference
  refine .ite (Only.refl _ s) ?_
  split
  · exact .ite (emit_only s _) (.ite (emit_only s _) (Only.refl _ s))
  · exact .ite (emit_only s _) (Only.refl _ s)

theorem sourceRecovers_only : Only [.due, .twist] s (sourceRecovers s) := by
  unfold sourceRecovers
  split
  · exact Only.refl _ s
  · exact (withTwist_only s _).grow
  · exact (withTwist_only s _).after (l := [.due, .twist]) (emit_only _ _).grow

theorem convertFrom_only (n : Nat) : Only [.sampler] s (convertFrom n s) := by
  unfold convertFrom
  split <;> exact withSampler_only s _

theorem takeResult_only (n : Fin 8) (r : Nat) : Only [.due, .sampler] s (takeResult n r s) := by
  unfold takeResult
  exact .ite ((setEntryRecord_only s _ _).after (l := [.due, .sampler]) (emit_only _ _).grow) (setEntryRecord_only s _ _).grow

theorem moveSector_only (k : Option Sector) : Only [.due, .channels, .knot] s (moveSector k s) := by
  unfold moveSector
  have h := (withKnot_only s { s.knot with takenSector := k }).grow (m := [.due, .channels, .knot])
  exact .ite h (h.step (drawEdge_only _ _))

theorem abandonRow_only : Only [.due, .knot] s (abandonRow s) :=
  (withKnot_only s _).after (l := [.due, .knot]) (emit_only _ _).grow

theorem pendWindow_only : Only [.due, .knot] s (pendWindow s) := by
  unfold pendWindow
  exact .ite ((withKnot_only s _).after (l := [.due, .knot]) (emit_only _ _).grow) (Only.refl _ s)

theorem leaveDraw_only : Only [.due, .knot] s (leaveDraw s) := by
  unfold leaveDraw
  dsimp only
  split
  · exact (withKnot_only s _).after (l := [.due, .knot]) (emit_only _ _).grow
  · exact (withKnot_only s _).after (l := [.due, .knot]) (emit_only _ _).grow
  · exact (withKnot_only s _).grow
  · exact Only.refl _ s

theorem enterRow_only (n : Nat) : Only [.due, .knot] s (enterRow s n) := by
  unfold enterRow
  exact .ite ((withKnot_only s _).after (l := [.due, .knot]) (emit_only _ _).grow) (withKnot_only s _).grow

theorem completeRow_only : Only [.due, .knot] s (completeRow s) := by
  unfold completeRow
  exact .ite (enterRow_only s _) (withKnot_only s _).grow

theorem computeMesh_only : Only [.due, .meter, .knot] s (computeMesh s) := by
  unfold computeMesh
  have h := fun f : Option ArithFlag => (setFlagIf_only s f .mesh).grow (m := [.due, .meter, .knot])
  exact (Only.ite ((h _).step (emit_only _ _)) (h _)).step (withKnot_only _ _)

theorem stepMesh_only (b : Bool) : Only [.due, .meter, .knot] s (stepMesh b s) := by
  unfold stepMesh
  split
  · exact Only.refl _ s
  · exact (withKnot_only s _).grow
  · exact .ite (Only.refl _ s) (.ite (computeMesh_only s) (withKnot_only s _).grow)

theorem turnRow_only : Only [.due, .meter, .knot] s (turnRow s) := by
  unfold turnRow
  exact ((Only.ite (completeRow_only s).grow (Only.refl _ s)).trans (stepMesh_only _ _)).step (withKnot_only _ _)

theorem phaseFault_only : Only [.due, .channels, .knot] s (phaseFault s) := by
  unfold phaseFault
  have h := (((withKnot_only s { s.knot with phaseFaults := holdInc 65535 s.knot.phaseFaults }).grow
    (m := [.due, .channels, .knot])).trans (moveSector_only _ none)).step (abandonRow_only _)
  exact .ite (h.step (emit_only _ _)) h

theorem forwardInto_only (k : Sector) : Only [.due, .meter, .knot] s (forwardInto k s) := by
  unfold forwardInto
  split
  · exact turnRow_only s
  · exact (pendWindow_only s).grow
  · exact (leaveDraw_only s).grow
  · exact Only.refl _ s

/-- A code taken changes the knot monitor, CH0, and the arithmetic status where a mesh is computed. -/
theorem takeCode_only (c : BitVec 3) : Only [.due, .channels, .meter, .knot] s (takeCode c s) := by
  unfold takeCode
  have h := (withKnot_only s { s.knot with takenCode := some c, candidate := none, filterTime := 0 }).grow
    (m := [.due, .channels, .meter, .knot])
  dsimp only
  split
  · exact h.step (moveSector_only _ _)
  · exact (h.step (moveSector_only _ _)).step (forwardInto_only _ _)
  · exact (h.step (moveSector_only _ _)).step (abandonRow_only _)
  · exact h.step (phaseFault_only _)

/-! ### The operator and the halt table -/

theorem refuseStart_only : Only [.due, .prot] s (refuseStart s) :=
  (withDue_only s _).after (l := [.due, .prot]) (withProt_only _ _).grow

theorem startStandby_only : Only [.due, .prot] s (startStandby s) := by
  unfold startStandby
  exact .ite ((setPermit_only s _).step (refreshAlarm_only _)) (refuseStart_only s)

theorem removeHalt_only (n : Station) : Only [.due, .prot] s (removeHalt n s) :=
  ((withProt_only s _).after (l := [.due, .prot]) (reasonCleared_only _)).step (refreshAlarm_only _)

theorem removeUnheard_only : Only [.due, .prot] s (removeUnheard s) :=
  Only.foldl (f := fun t (e : HaltEntry) => removeHalt e.station t) (fun t e => removeHalt_only t e.station) _ s

theorem endEpisode_only : Only [.due, .meter, .line, .prot] s (endEpisode s) := by
  unfold endEpisode
  dsimp only
  split
  · exact ((sendFrame_only s _).grow (m := [.due, .meter, .line, .prot])).step (withProt_only _ _)
  · exact (withProt_only s _).grow

theorem setHalt_only (e : HaltEntry) : Only [.due, .prot] s (setHalt e s) := by
  unfold setHalt
  have h := (withProt_only s { s.prot with table := putHalt e s.prot.table }).grow (m := [.due, .prot])
  dsimp only
  split
  · exact .ite (Only.refl _ s) ((h.step (emit_only _ _)).step (refreshAlarm_only _))
  · exact ((h.trans (reasonAppears_only _ _)).step (emit_only _ _)).step (refreshAlarm_only _)

/-! ### The inputs that time samples -/

theorem samplePair_only (e : EncoderId) (pair : Bool × Bool) : Only [.due, .pins] s (samplePair e s pair) := by
  unfold samplePair
  exact .ite (withPins_only s _).grow (.ite (Only.refl _ s) (.ite
    ((withPins_only s _).after (l := [.due, .pins]) (emit_only _ _).grow) (withPins_only s _).grow))

/-- The samples of an encoder change what the pins show and give transitions (R21). -/
theorem tickEncoder_only (e : EncoderId) : Only [.due, .pins] s (tickEncoder s e) :=
  Only.foldl (f := samplePair e) (fun t pair => samplePair_only t e pair) _ s

/-- The supply watch changes its own readings and gives a warning or a recovery (R133). -/
theorem tickSupply_only : Only [.due, .pins] s (tickSupply s) :=
  (withPins_only s _).after (l := [.due, .pins]) (emit_only _ _).grow

/-- What a µs shows of the levels at hand changes the pins alone (R84; log entry 39). -/
theorem showLevels_only : Only [.pins] s (showLevels s) := by
  unfold showLevels
  split
  · exact .refl _ s
  · exact withPins_only s _

/-- A command that reads the head lines shows them on the pins and changes nothing else (log entry 4). -/
theorem showLines_only (e : Instr) (lines : BitVec 32) : Only [.pins] s (showLines e lines s) := by
  unfold showLines
  exact .ite (.refl _ s) (withPins_only s _)

/-- A metering unit that begins takes the pairs read as its references and as the levels shown (Table 2-1, R20). -/
theorem beginMeter_only : Only [.pins, .meter] s (beginMeter s) :=
  (withPins_only s _).after (l := [.pins, .meter]) (withMeter_only _ _).grow

end Sys2Proof.Machine
end

