-- ==== Sys2Proof/Laws/Flags.lean ====
section
/-! SUPPORT. What a computation that asks for a flag, a frame handed to the line and an operation handed to the store do to the
arithmetic status: the lemmas that the claims about `Flagged` and `Unflagged` are assembled from. -/

namespace Sys2Proof

/-! ### The flags -/

theorem ArithFlags.any_set (f : ArithFlags) (flag : ArithFlag) : (f.set flag).any = true := by
  cases flag <;> simp [ArithFlags.set, ArithFlags.any]

theorem ArithFlags.set_set (f : ArithFlags) (flag : ArithFlag) : (f.set flag).set flag = f.set flag := by
  cases flag <;> rfl

end Sys2Proof

namespace Sys2Proof.Machine

variable {s t u : State} {flag : ArithFlag} {origin : Origin}

/-! ### One flag -/

/-- A request to set a flag (R35, R37). -/
theorem setFlag_flagged (s : State) (flag : ArithFlag) (origin : Origin) : Flagged flag origin s (setFlag flag origin s) := by
  unfold Flagged setFlag State.emit
  cases h : s.meter.flags.any <;> cases s.settings.arithEscalate <;> simp

/-- A later change that keeps the arithmetic status and takes no event back. -/
theorem Flagged.kept (h : Flagged flag origin s t) (hf : u.meter.flags = t.meter.flags) (ho : u.meter.origin = t.meter.origin)
    (hd : ∀ e ∈ t.due, e ∈ u.due) : Flagged flag origin s u :=
  ⟨hf.trans h.1, ho.trans h.2.1, fun hn he => hd _ (h.2.2 hn he)⟩

theorem Flagged.withLine (h : Flagged flag origin s t) (x : FloorLine) : Flagged flag origin s (t.withLine x) :=
  h.kept rfl rfl fun _ he => he

/-- An earlier change that keeps the arithmetic status and the settings. -/
theorem Flagged.before (h : Flagged flag origin t u) (hm : t.meter = s.meter) (hs : t.settings = s.settings) :
    Flagged flag origin s u := by
  unfold Flagged at *
  rw [hm, hs] at h
  exact h

/-- The same request once more changes nothing of the arithmetic status. -/
theorem Flagged.again (h : Flagged flag origin s t) : Flagged flag origin s (setFlag flag origin t) := by
  have k := setFlag_flagged t flag origin
  have hany : t.meter.flags.any = true := by rw [h.1]; exact ArithFlags.any_set _ _
  refine h.kept ?_ ?_ ?_
  · rw [k.1, h.1, ArithFlags.set_set]
  · rw [k.2.1, if_pos hany]
  · intro e he
    simp [setFlag, hany, he]

/-! ### The conversion of a length (R29, R30) -/

/-- A length of 0 or more sets no flag. -/
theorem convertFlag_of_nonneg {x : Int} (h : 0 ≤ x) (s : State) : convertFlag x s = s := by
  simp [convertFlag, Int.not_lt.2 h]

/-- A negative length sets RNG with origin CONVERT. -/
theorem convertFlag_flagged {x : Int} (h : x < 0) (s : State) : Flagged .rng .convert s (convertFlag x s) := by
  simpa [convertFlag, h] using setFlag_flagged s .rng .convert

/-- After one negative length, a further length changes nothing of the arithmetic status. -/
theorem Flagged.convert (h : Flagged .rng .convert s t) (x : Int) : Flagged .rng .convert s (convertFlag x t) := by
  unfold convertFlag
  split
  · exact h.again
  · exact h

/-! ### Frames handed to the line (R102, R108) -/

/-- No pace part of a negative line length can go out: the line length is 0 or more, or none is published. -/
def Quiet (s : State) : Prop := 0 ≤ s.lineLength ∨ s.publishes = false

/-- Where the arithmetic status is read for a conversion, only the metering unit, the settings and the permit state count. -/
theorem Quiet.kept (h : Quiet s) (hm : t.meter = s.meter) (hs : t.settings = s.settings) (hp : t.prot = s.prot) : Quiet t := by
  simpa only [Quiet, State.lineLength, State.publishes, State.begun, hm, hs, hp] using h

theorem beginAttempt_meter (h : Quiet s) : (beginAttempt s).meter = s.meter := by
  unfold beginAttempt
  split
  · rfl
  · dsimp only
    split
    · rename_i hp
      rcases h with h | h
      · rw [convertFlag_of_nonneg h]; rfl
      · exact absurd hp.2 (by simp [h])
    · rfl

/-- With a line length of 0 or more, or no pace part to publish, handing over a frame leaves the arithmetic status as it was. -/
theorem pollLine_meter (h : Quiet s) : (pollLine s).meter = s.meter := by
  have hb := beginAttempt_meter h
  unfold pollLine
  split
  · split <;> first | exact hb | rfl
  · split <;> first | exact hb | rfl
  · rfl
  · rfl

theorem joinHalt_meter (c : FrameContent) (s : State) : (joinHalt c s).meter = s.meter := (joinHalt_only s c).2 .meter (by decide)

theorem joinRoutine_meter (c : FrameContent) (s : State) : (joinRoutine c s).meter = s.meter :=
  (joinRoutine_only s c).2 .meter (by decide)

theorem sendFrame_meter (c : FrameContent) (h : Quiet s) : (sendFrame c s).meter = s.meter := by
  have joined : ∀ t, Only [.due, .line] s t → (pollLine t).meter = s.meter := by
    intro t ht
    have hm : t.meter = s.meter := ht.2 .meter (by decide)
    have hs : t.settings = s.settings := ht.2 .settings (by decide)
    have hp : t.prot = s.prot := ht.2 .prot (by decide)
    rw [pollLine_meter (h.kept hm hs hp), hm]
  unfold sendFrame
  split
  · exact joined _ (joinHalt_only s c)
  · exact joined _ (joinRoutine_only s c).grow

theorem Flagged.beginAttempt (h : Flagged .rng .convert s t) : Flagged .rng .convert s (beginAttempt t) := by
  unfold Machine.beginAttempt
  split
  · exact h
  · dsimp only
    split
    · exact ((h.withLine _).withLine _).convert _
    · exact (h.withLine _).withLine _

theorem Flagged.pollLine (h : Flagged .rng .convert s t) : Flagged .rng .convert s (pollLine t) := by
  unfold Machine.pollLine
  split
  · split
    · exact h.beginAttempt
    · exact h.withLine _
  · split
    · exact h.beginAttempt
    · exact h
  · exact h.withLine _
  · exact h

/-- After one negative length, a frame handed to the line changes nothing of the arithmetic status. -/
theorem Flagged.sendFrame (h : Flagged .rng .convert s t) (c : FrameContent) : Flagged .rng .convert s (sendFrame c t) := by
  have hd : ∀ e ∈ t.due, e ∈ (joinHalt c t).due := by
    intro e he
    unfold joinHalt
    dsimp only
    repeat' split
    · exact he
    · exact he
    · exact List.mem_append.2 (.inl he)
  have hr : (joinRoutine c t).due = t.due := (joinRoutine_only t c).2 .due (by decide)
  unfold Machine.sendFrame
  refine Flagged.pollLine ?_
  split
  · exact h.kept (by rw [joinHalt_meter]) (by rw [joinHalt_meter]) hd
  · exact h.kept (by rw [joinRoutine_meter]) (by rw [joinRoutine_meter]) fun e he => by rw [hr]; exact he

/-! ### Operations handed to the store (R159, R165) -/

theorem beginOp_meter (op : StoreOp) (s : State) : (beginOp op s).meter = s.meter := (beginOp_only s op).2 .meter (by decide)

/-- The erases that are answered as the next operation begins leave the arithmetic status as it was, with no pace part of a
negative length to send. -/
theorem startNext_meter (ops : List StoreOp) (h : Quiet s) : (startNext ops s).meter = s.meter := by
  induction ops generalizing s with
  | nil => rfl
  | cons op ops ih =>
    cases op with
    | eraseBank b source =>
      have hr := sendReply_only s .erase source [Result.state.byte]
      have hm : (sendReply .erase source [Result.state.byte] s).meter = s.meter := sendFrame_meter _ h
      rw [startNext]
      split
      · exact (ih (h.kept hm (hr.2 .settings (by decide)) (hr.2 .prot (by decide)))).trans hm
      · exact beginOp_meter _ _
    | _ => exact beginOp_meter _ _

theorem enqueue_meter (op : StoreOp) (h : Quiet s) : (enqueue op s).meter = s.meter := by
  unfold enqueue
  split
  · exact startNext_meter _ h
  · rfl

theorem queueOffer_meter (h : Quiet s) : (queueOffer s).meter = s.meter := by
  unfold queueOffer
  dsimp only
  split
  · exact startNext_meter _ h
  · rfl

theorem handSeal_meter (coil : Nat) (h : Quiet s) : (handSeal coil s).meter = s.meter := by
  have hq := queueOffer_only s
  unfold handSeal
  rw [enqueue_meter _ (h.kept (queueOffer_meter h) (hq.2 .settings (by decide)) (hq.2 .prot (by decide))), queueOffer_meter h]

theorem beginOp_due (op : StoreOp) (s : State) : (beginOp op s).due = s.due := (beginOp_only s op).2 .due (by decide)

/-- After one negative length, the erases that are answered as the next operation begins change nothing of the status. -/
theorem Flagged.startNext (h : Flagged .rng .convert s t) (ops : List StoreOp) : Flagged .rng .convert s (startNext ops t) := by
  have begins : ∀ (op : StoreOp) (l : List StoreOp) (t : State), Flagged .rng .convert s t →
      Flagged .rng .convert s (beginOp op (t.withStore { t.store with waiting := l })) := fun op l t h =>
    h.kept (by rw [beginOp_meter]; rfl) (by rw [beginOp_meter]; rfl) fun e he => by rw [beginOp_due]; exact he
  induction ops generalizing t with
  | nil => exact h.kept rfl rfl fun _ he => he
  | cons op ops ih =>
    cases op with
    | eraseBank b source =>
      rw [Machine.startNext]
      split
      · exact ih (h.sendFrame _)
      · exact begins _ _ _ h
    | _ => exact begins _ _ _ h

theorem Flagged.enqueue (h : Flagged .rng .convert s t) (op : StoreOp) : Flagged .rng .convert s (enqueue op t) := by
  unfold Machine.enqueue
  split
  · exact h.startNext _
  · exact h.kept rfl rfl fun _ he => he

end Sys2Proof.Machine
end

