-- ==== Sys2Proof/Laws/Line.lean ====
section
/-! SUPPORT. What handing a frame to the transmit queue and an operation to the store does: the lemmas that the claims about
replies, marks and the store's queue are assembled from. -/

namespace Sys2Proof.Machine

variable (s : State)

/-! ### The transmit queue -/

theorem setFlag_line (f : ArithFlag) (o : Origin) : (setFlag f o s).line = s.line := (setFlag_only s f o).2 .line (by decide)

theorem convertFlag_line (x : Int) : (convertFlag x s).line = s.line := (convertFlag_only s x).2 .line (by decide)

theorem convertFlag_contents (x : Int) : (convertFlag x s).contents = s.contents := by
  simp [State.contents, convertFlag_line]

/-- An attempt that begins keeps what is queued, and every count but the sequence counter. -/
theorem beginAttempt_line : (beginAttempt s).contents = s.contents ∧ (beginAttempt s).line.overruns = s.line.overruns ∧
    (beginAttempt s).line.presenceLeft = s.line.presenceLeft ∧ (beginAttempt s).line.sent = s.line.sent ∧
    (beginAttempt s).line.collisions = s.line.collisions ∧ (beginAttempt s).line.drops = s.line.drops := by
  unfold beginAttempt
  split
  · simp
  · rename_i f rest hq
    dsimp only
    split <;> simp [State.contents, convertFlag_line, hq, FloorLine.startBit]

/-- Polling keeps what is queued, and every count. -/
theorem pollLine_line : (pollLine s).contents = s.contents ∧ (pollLine s).line.overruns = s.line.overruns ∧
    (pollLine s).line.presenceLeft = s.line.presenceLeft ∧ (pollLine s).line.sent = s.line.sent ∧
    (pollLine s).line.collisions = s.line.collisions ∧ (pollLine s).line.drops = s.line.drops := by
  unfold pollLine
  split
  · split
    · exact beginAttempt_line s
    · exact ⟨rfl, rfl, rfl, rfl, rfl, rfl⟩
  · split
    · exact beginAttempt_line s
    · exact ⟨rfl, rfl, rfl, rfl, rfl, rfl⟩
  · exact ⟨rfl, rfl, rfl, rfl, rfl, rfl⟩
  · exact ⟨rfl, rfl, rfl, rfl, rfl, rfl⟩

@[simp] theorem pollLine_contents : (pollLine s).contents = s.contents := (pollLine_line s).1

/-- A routine frame joins at the end of a queue of fewer than 8, and is discarded otherwise (R102). -/
theorem joinRoutine_joined (c : FrameContent) (h : c ≠ .presence ∨ FrameContent.presence ∉ s.contents) :
    Joined c s (joinRoutine c s) := by
  have hn : ¬ (c = .presence ∧ s.line.queue.any (fun f => f.content == .presence) = true) := by
    rintro ⟨hc, hq⟩
    obtain ⟨f, hf, hp⟩ := List.any_eq_true.1 hq
    rcases h with h | h
    · exact h hc
    · exact h (List.mem_map.2 ⟨f, hf, by simpa using hp⟩)
  unfold joinRoutine
  dsimp only
  rw [if_neg hn]
  split
  · rename_i hl
    exact ⟨fun _ => ⟨by simp [State.contents, QueuedFrame.fresh], rfl⟩, fun h8 => absurd hl (by omega)⟩
  · rename_i hl
    exact ⟨fun h8 => absurd h8 hl, fun _ => ⟨rfl, rfl⟩⟩

/-- A routine frame handed to the line joins the queue as R102 gives. -/
theorem sendFrame_joined (c : FrameContent) (hu : c.urgent = false) (h : c ≠ .presence ∨ FrameContent.presence ∉ s.contents) :
    Joined c s (sendFrame c s) := by
  have hj := joinRoutine_joined s c h
  unfold sendFrame
  rw [hu]
  simp only [Bool.false_eq_true, if_false]
  have hp := pollLine_line (joinRoutine c s)
  exact ⟨fun hl => ⟨hp.1.trans (hj.1 hl).1, hp.2.1.trans (hj.1 hl).2⟩, fun hl => ⟨hp.1.trans (hj.2 hl).1, hp.2.1.trans (hj.2 hl).2⟩⟩

/-- A reply joins the queue as a routine frame (R173). -/
theorem sendReply_joined (k : ServiceKind) (d : Station) (b : List Byte) : Joined (.reply k d b) s (sendReply k d b s) :=
  sendFrame_joined s _ rfl (.inl (by simp))

/-- Replies handed over one after the other join the queue in their order, as far as it has room (R102, R170). -/
theorem foldl_sendReply_contents (k : ServiceKind) (d : Station) (l : List (List Byte)) (s : State) (h : s.contents.length ≤ 8) :
    (l.foldl (fun t b => sendReply k d b t) s).contents =
      s.contents ++ (l.map (FrameContent.reply k d)).take (8 - s.contents.length) := by
  induction l generalizing s with
  | nil => simp
  | cons b l ih =>
    have hj := sendReply_joined s k d b
    have hq : s.contents.length = s.line.queue.length := by simp [State.contents]
    rw [List.foldl_cons]
    rcases Nat.lt_or_ge s.line.queue.length 8 with hl | hl
    · have hc := (hj.1 hl).1
      have hn : (sendReply k d b s).contents.length = s.contents.length + 1 := by simp [hc]
      rw [ih _ (by omega), hn, hc, List.map_cons, (by omega : 8 - s.contents.length = (8 - (s.contents.length + 1)) + 1),
        List.take_succ_cons, List.append_assoc, List.singleton_append]
    · have hc := (hj.2 hl).1
      rw [ih _ (by rw [hc]; exact h), hc, (by omega : 8 - s.contents.length = 0), List.take_zero, List.take_zero]

/-- A frame that joins a queue with room stands in it. -/
theorem Joined.mem {c : FrameContent} {s t : State} (h : Joined c s t) (hl : s.line.queue.length < 8) : c ∈ t.contents := by
  rw [(h.1 hl).1]
  exact List.mem_append.2 (.inr (List.mem_singleton.2 rfl))

/-- A HALT handed to a queue with room stands in it (R102). -/
theorem sendFrame_halt_mem (c n : Byte) (l : BitVec 32) (hl : s.line.queue.length < 8) :
    FrameContent.halt c n l ∈ (sendFrame (.halt c n l) s).contents := by
  unfold sendFrame
  simp only [FrameContent.urgent, if_true, pollLine_contents]
  unfold joinHalt
  simp [hl, State.contents, placeHalt, QueuedFrame.fresh]

/-! ### The store's queue -/

theorem judgeBank_frame (n b : Nat) : (judgeBank n b s).1.store.waiting = s.store.waiting ∧
    (judgeBank n b s).1.store.inFlight = s.store.inFlight ∧ (judgeBank n b s).1.store.key = s.store.key ∧
    (judgeBank n b s).1.store.keyStation = s.store.keyStation ∧ (judgeBank n b s).1.store.table = s.store.table := by
  unfold judgeBank placeAt
  repeat' split
  all_goals exact ⟨rfl, rfl, rfl, rfl, rfl⟩

theorem searchSector_frame : (searchSector s).1.store.waiting = s.store.waiting ∧ (searchSector s).1.store.inFlight = s.store.inFlight ∧
    (searchSector s).1.store.key = s.store.key ∧ (searchSector s).1.store.keyStation = s.store.keyStation ∧
    (searchSector s).1.store.table = s.store.table := by
  unfold searchSector
  dsimp only
  split
  · exact ⟨rfl, rfl, rfl, rfl, rfl⟩
  · exact judgeBank_frame s 0 _

theorem firstStep_waiting (op : StoreOp) : (firstStep op s).1.store.waiting = s.store.waiting := by
  have h := (searchSector_frame s).1
  cases op with
  | programHeader coil image => exact h
  | keep coil =>
    unfold firstStep
    dsimp only
    split
    · rfl
    · exact h
  | _ => rfl

/-- An operation that begins is in flight, at its first step and in no retry, and the waiting ones stay. -/
theorem beginOp_inFlight (op : StoreOp) : (∃ f, (beginOp op s).store.inFlight = some f ∧ f.op = op) ∧
    (beginOp op s).store.waiting = s.store.waiting :=
  ⟨⟨_, rfl, rfl⟩, firstStep_waiting s op⟩

/-- An operation that no anchor in its bank answers at once (R165). -/
def Begins (s : State) : StoreOp → Prop
  | .eraseBank b _ => s.bankHoldsAnchor b = false
  | _ => True

/-- Handing a reply to the line keeps which banks hold an anchor. -/
theorem sendReply_bankHoldsAnchor (k : ServiceKind) (d : Station) (bytes : List Byte) (b : Nat) :
    (sendReply k d bytes s).bankHoldsAnchor b = s.bankHoldsAnchor b := by
  have h := sendReply_only s k d bytes
  have hc : (sendReply k d bytes s).coil = s.coil := h.2 .coil (by decide)
  have hs : (sendReply k d bytes s).store = s.store := h.2 .store (by decide)
  simp [State.bankHoldsAnchor, State.records, State.recordKept, State.sectorClass, State.sectorEntry, hc, hs]

/-- Of the operations that wait, the last one begins or still waits when the next one is begun (R159, R165). -/
theorem startNext_last (op : StoreOp) (ops : List StoreOp) (h : Begins s op) : HandedToStore op (startNext (ops ++ [op]) s) := by
  have begins : ∀ (x : StoreOp) (l : List StoreOp) (s : State), x = op ∨ op ∈ l →
      HandedToStore op (beginOp x (s.withStore { s.store with waiting := l })) := by
    rintro x l s (rfl | hm)
    · exact .inl (beginOp_inFlight _ _).1
    · exact .inr (by rw [(beginOp_inFlight _ _).2]; exact hm)
  induction ops generalizing s with
  | nil =>
    cases op with
    | eraseBank b source =>
      have hb : s.bankHoldsAnchor b = false := h
      simp only [List.nil_append, startNext, hb, Bool.false_eq_true, if_false]
      exact begins _ _ _ (.inl rfl)
    | _ => exact begins _ _ _ (.inl rfl)
  | cons x ops ih =>
    have hm : op ∈ ops ++ [op] := List.mem_append.2 (.inr (List.mem_singleton.2 rfl))
    cases x with
    | eraseBank b source =>
      rw [List.cons_append, startNext]
      split
      · refine ih _ ?_
        cases op with
        | eraseBank b2 source2 => exact (sendReply_bankHoldsAnchor _ _ _ _ _).trans h
        | _ => trivial
      · exact begins _ _ _ (.inr hm)
    | _ => exact begins _ _ _ (.inr hm)

/-- An operation handed to the store is in flight or waits (R159). -/
theorem enqueue_handed (op : StoreOp) (h : Begins s op) : HandedToStore op (enqueue op s) := by
  unfold enqueue
  split
  · exact startNext_last s op _ h
  · exact .inr (by simp)

/-- The reading of the attempt in progress is a collision exactly where the first reading to come names a byte that differs (R106). -/
theorem badReading_eq_some {s : State} {r : Readback} : s.badReading = some r ↔
    (∃ rest, s.world.readings = some r :: rest) ∧ r.differs s.line.sending = true := by
  unfold State.badReading
  match h : s.world.readings with
  | [] => simp
  | none :: l => simp
  | some q :: l =>
    simp only [List.head?_cons, Option.join_some, Option.filter_eq_some_iff, List.cons.injEq, Option.some.injEq, exists_and_left,
      exists_eq', and_true]

/-- A byte collides exactly where the reading that differs names it (R106). -/
theorem collidesAt_iff {s : State} {n : Nat} : s.collidesAt n = true ↔ ∃ r, s.badReading = some r ∧ r.good = n := by
  simp [State.collidesAt, Option.any_eq_true]

end Sys2Proof.Machine
end

