-- ==== Sys2Proof/Laws/Memory.lean ====
section
/-! SUPPORT. The laws of the store's memory: what is written is read back, a write leaves every other byte alone, and every
operation over the memory keeps the canonical form. -/

namespace Sys2Proof.Machine

/-! ### The canonical form -/

theorem Memory.wf_nil : Memory.wf [] := by simp [Memory.wf]

theorem Memory.wf_cons {a : Nat} {b : Byte} {m : Memory} :
    Memory.wf ((a, b) :: m) ↔ (∀ c ∈ m, a < c.1) ∧ b ≠ erasedByte ∧ Memory.wf m := by
  constructor
  · rintro ⟨h, k⟩
    rw [List.pairwise_cons] at h
    exact ⟨h.1, k (a, b) (by simp), h.2, fun c hc => k c (by simp [hc])⟩
  · rintro ⟨h, hb, hm⟩
    refine ⟨List.pairwise_cons.2 ⟨h, hm.1⟩, fun c hc => ?_⟩
    rcases List.mem_cons.1 hc with rfl | hc
    · exact hb
    · exact hm.2 c hc

/-- A write adds no address but its own. -/
theorem Memory.write_mem {m : Memory} {x : Nat} {v : Byte} {c : Host.Cell} (h : c ∈ m.write x v) : c.1 = x ∨ c ∈ m := by
  induction m with
  | nil => simp only [Memory.write] at h; split at h <;> simp_all
  | cons d m ih =>
    obtain ⟨a, b⟩ := d
    simp only [Memory.write] at h
    split at h
    · split at h
      · exact .inr h
      · rcases List.mem_cons.1 h with rfl | h
        · exact .inl rfl
        · exact .inr h
    · split at h
      · split at h
        · exact .inr (List.mem_cons_of_mem _ h)
        · rcases List.mem_cons.1 h with rfl | h
          · exact .inl rfl
          · exact .inr (List.mem_cons_of_mem _ h)
      · rcases List.mem_cons.1 h with rfl | h
        · exact .inr (by simp)
        · exact (ih h).imp id (List.mem_cons_of_mem _)

/-- A write keeps the canonical form. -/
theorem Memory.write_wf {m : Memory} (x : Nat) (v : Byte) (h : m.wf) : (m.write x v).wf := by
  induction m with
  | nil =>
    simp only [Memory.write]
    split
    · exact h
    · rename_i hv
      exact Memory.wf_cons.2 ⟨by simp, hv, h⟩
  | cons d m ih =>
    obtain ⟨a, b⟩ := d
    obtain ⟨h1, h2, h3⟩ := Memory.wf_cons.1 h
    simp only [Memory.write]
    split
    · rename_i hx
      split
      · exact h
      · rename_i hv
        refine Memory.wf_cons.2 ⟨?_, hv, h⟩
        rintro c hc
        rcases List.mem_cons.1 hc with rfl | hc
        · exact hx
        · exact hx.trans (h1 c hc)
    · split
      · rename_i hxa
        split
        · exact h3
        · rename_i hv
          exact Memory.wf_cons.2 ⟨by simpa [hxa] using h1, hv, h3⟩
      · rename_i hx hxa
        refine Memory.wf_cons.2 ⟨fun c hc => ?_, h2, ih h3⟩
        rcases Memory.write_mem hc with hc | hc
        · omega
        · exact h1 c hc

/-! ### Reading -/

theorem Memory.read_of_lt {m : Memory} {x : Nat} (h : ∀ c ∈ m, x < c.1) : m.read x = erasedByte := by
  induction m with
  | nil => rfl
  | cons d m ih =>
    obtain ⟨a, b⟩ := d
    have ha : x < a := h (a, b) (by simp)
    simp only [Memory.read, if_neg (by omega : ¬ a = x)]
    exact ih fun c hc => h c (by simp [hc])

/-- What is written is read back. -/
theorem Memory.read_write_self {m : Memory} (x : Nat) (v : Byte) (h : m.wf) : (m.write x v).read x = v := by
  induction m with
  | nil => simp only [Memory.write]; split <;> simp_all [Memory.read]
  | cons d m ih =>
    obtain ⟨a, b⟩ := d
    obtain ⟨h1, h2, h3⟩ := Memory.wf_cons.1 h
    simp only [Memory.write]
    split
    · rename_i hx
      split
      · rename_i hv
        rw [hv]
        refine Memory.read_of_lt fun c hc => ?_
        rcases List.mem_cons.1 hc with rfl | hc
        · exact hx
        · exact hx.trans (h1 c hc)
      · simp [Memory.read]
    · split
      · rename_i hxa
        split
        · rename_i hv
          rw [hv]
          exact Memory.read_of_lt (by simpa [hxa] using h1)
        · simp [Memory.read]
      · rename_i hxa
        simp [Memory.read, Ne.symm hxa, ih h3]

/-- A write leaves every other byte alone. -/
theorem Memory.read_write_ne (m : Memory) {x y : Nat} (v : Byte) (h : y ≠ x) : (m.write x v).read y = m.read y := by
  induction m with
  | nil => simp only [Memory.write]; split <;> simp [Memory.read, h.symm]
  | cons d m ih =>
    obtain ⟨a, b⟩ := d
    simp only [Memory.write]
    split
    · split
      · rfl
      · simp [Memory.read, h.symm]
    · split
      · rename_i hxa
        subst hxa
        split <;> simp [Memory.read, h.symm]
      · simp [Memory.read, ih]

theorem Memory.readRange_eq_map (m : Memory) (a n : Nat) : m.readRange a n = (List.range n).map (fun i => m.read (a + i)) := by
  induction n generalizing a with
  | zero => rfl
  | succ n ih =>
    rw [Memory.readRange, ih, List.range_succ_eq_map]
    simp [Function.comp_def, Nat.add_assoc, Nat.add_comm 1]

@[simp] theorem Memory.readRange_length (m : Memory) (a n : Nat) : (m.readRange a n).length = n := by
  simp [Memory.readRange_eq_map]

/-! ### Programming and erasing -/

theorem Memory.burn_wf {m : Memory} (wear : Wear) (a : Nat) (v : Byte) (h : m.wf) : (m.burn wear a v).wf :=
  Memory.write_wf _ _ h

theorem Memory.burnAll_wf (wear : Wear) (bytes : List Byte) {m : Memory} (a : Nat) (h : m.wf) : (m.burnAll wear a bytes).wf := by
  induction bytes generalizing m a with
  | nil => exact h
  | cons v vs ih => exact ih _ (Memory.burn_wf wear a v h)

/-- A program step keeps the canonical form, however it ends. -/
theorem Memory.program_wf {m : Memory} (wear : Wear) (a : Nat) (bytes : List Byte) (h : m.wf) :
    (m.program wear a bytes).1.wf := by
  unfold Memory.program
  split
  · exact Memory.burnAll_wf wear bytes a h
  · exact h

theorem Memory.clearRange_wf {m : Memory} (lo hi : Nat) (h : m.wf) : (m.clearRange lo hi).wf :=
  ⟨h.1.filter _, fun c hc => h.2 c (List.mem_filter.1 hc).1⟩

theorem Memory.foldl_write_wf (l : List (Nat × Byte)) (f : Memory → Nat × Byte → Byte) {m : Memory} (h : m.wf) :
    (l.foldl (fun m c => m.write c.1 (f m c)) m).wf := by
  induction l generalizing m with
  | nil => exact h
  | cons c l ih => exact ih (Memory.write_wf _ _ h)

/-- A bank erase keeps the canonical form. -/
theorem Memory.eraseBank_wf {m : Memory} (wear : Wear) (b : Nat) (h : m.wf) : (m.eraseBank wear b).wf :=
  Memory.foldl_write_wf _ (fun _ c => c.2) (Memory.clearRange_wf _ _ h)

theorem Memory.read_burnAll_out (wear : Wear) (bytes : List Byte) (m : Memory) (a : Nat) {x : Nat}
    (h : x < a ∨ a + bytes.length ≤ x) : (m.burnAll wear a bytes).read x = m.read x := by
  induction bytes generalizing m a with
  | nil => rfl
  | cons v vs ih =>
    simp only [List.length_cons] at h
    rw [Memory.burnAll, ih _ _ (by omega)]
    exact Memory.read_write_ne m _ (by omega)

/-- A program step changes no byte outside the ones it writes. -/
theorem Memory.read_program_out (wear : Wear) (bytes : List Byte) (m : Memory) (a : Nat) {x : Nat}
    (h : x < a ∨ a + bytes.length ≤ x) : (m.program wear a bytes).1.read x = m.read x := by
  unfold Memory.program
  split
  · exact Memory.read_burnAll_out wear bytes m a h
  · rfl

/-- Bytes programmed where all read erased, with every byte taken, are read back. -/
theorem Memory.readRange_burnAll (bytes : List Byte) {m : Memory} (a : Nat) (h : m.wf)
    (he : ∀ i, i < bytes.length → m.read (a + i) = erasedByte) : (m.burnAll [] a bytes).readRange a bytes.length = bytes := by
  induction bytes generalizing m a with
  | nil => rfl
  | cons v vs ih =>
    have hv : (m.burn [] a v).read a = v := by
      have h0 := he 0 (by simp)
      simp only [Nat.add_zero] at h0
      rw [Memory.burn, Memory.read_write_self _ _ h, burnt, h0]
      exact BitVec.allOnes_and
    have hr : ((m.burn [] a v).burnAll [] (a + 1) vs).read a = v := by
      rw [Memory.read_burnAll_out _ _ _ _ (by omega), hv]
    rw [Memory.burnAll, List.length_cons, Memory.readRange, hr]
    congr 1
    refine ih _ (Memory.burn_wf _ _ _ h) fun i hi => ?_
    rw [Memory.burn, Memory.read_write_ne _ _ (by omega), Nat.add_assoc, Nat.add_comm 1]
    exact he (i + 1) (by simpa using hi)

/-- A program step over erased bytes, with every byte taken, succeeds and leaves its bytes. -/
theorem Memory.program_good (bytes : List Byte) {m : Memory} (a : Nat) (h : m.wf)
    (he : ∀ i, i < bytes.length → m.read (a + i) = erasedByte) :
    m.program [] a bytes = (m.burnAll [] a bytes, .good) := by
  have ha : (m.readRange a bytes.length).all (· == erasedByte) = true := by
    simpa [Memory.readRange_eq_map] using he
  simp [Memory.program, ha, Memory.readRange_burnAll bytes a h he]

/-- A program step that finds a byte not erased writes nothing (R163). -/
theorem Memory.program_address_error (wear : Wear) (bytes : List Byte) (m : Memory) (a i : Nat) (hi : i < bytes.length)
    (he : m.read (a + i) ≠ erasedByte) : m.program wear a bytes = (m, .addressError) := by
  have ha : ¬ (m.readRange a bytes.length).all (· == erasedByte) = true := by
    simp only [Memory.readRange_eq_map, List.all_map, List.all_eq_true, List.mem_range, Function.comp_apply, beq_iff_eq,
      not_forall]
    exact ⟨i, hi, he⟩
  simp only [Memory.program, if_neg ha]

theorem Memory.read_clearRange_in {m : Memory} {lo hi x : Nat} (h : lo ≤ x ∧ x < hi) : (m.clearRange lo hi).read x = erasedByte := by
  induction m with
  | nil => rfl
  | cons d m ih =>
    obtain ⟨a, b⟩ := d
    unfold Memory.clearRange at *
    rw [List.filter_cons]
    split
    · rename_i hc
      have hax : ¬ a = x := by simp at hc; omega
      simp [Memory.read, hax, ih]
    · exact ih

theorem Memory.read_clearRange_out {m : Memory} {lo hi x : Nat} (h : x < lo ∨ hi ≤ x) : (m.clearRange lo hi).read x = m.read x := by
  induction m with
  | nil => rfl
  | cons d m ih =>
    obtain ⟨a, b⟩ := d
    unfold Memory.clearRange at *
    rw [List.filter_cons]
    split
    · simp [Memory.read, ih]
    · rename_i hc
      have hax : ¬ a = x := by simp at hc; omega
      simp [Memory.read, hax, ih]

/-- Writes leave every byte alone that none of them names. -/
theorem Memory.read_foldl_write_out (l : List (Nat × Byte)) (m : Memory) {x : Nat} (h : ∀ c ∈ l, c.1 ≠ x) :
    (l.foldl (fun m c => m.write c.1 c.2) m).read x = m.read x := by
  induction l generalizing m with
  | nil => rfl
  | cons c l ih =>
    rw [List.foldl_cons, ih _ fun d hd => h d (List.mem_cons_of_mem _ hd)]
    exact Memory.read_write_ne m _ (h c List.mem_cons_self).symm

/-- A byte of a bank that no entry of the list names reads erased after the bank's erase. -/
theorem Memory.read_eraseBank_in (m : Memory) (wear : Wear) {b x : Nat} (h : b * 4096 ≤ x ∧ x < b * 4096 + 4096)
    (hw : wear.lookup x = none) : (m.eraseBank wear b).read x = erasedByte := by
  unfold Memory.eraseBank
  rw [Memory.read_foldl_write_out, Memory.read_clearRange_in h]
  rintro ⟨a, v⟩ hc rfl
  have hv := List.lookup_eq_none_iff.1 hw _ (List.mem_filter.1 hc).1
  simp at hv

/-- A bank erase changes no byte outside its bank, whichever bytes fail. -/
theorem Memory.read_eraseBank_out (m : Memory) (wear : Wear) {b x : Nat} (h : x < b * 4096 ∨ b * 4096 + 4096 ≤ x) :
    (m.eraseBank wear b).read x = m.read x := by
  unfold Memory.eraseBank
  rw [Memory.read_foldl_write_out, Memory.read_clearRange_out h]
  rintro ⟨a, v⟩ hc rfl
  have hv := (List.mem_filter.1 hc).2
  simp at hv
  omega

/-! ### The steps of an operation -/

variable {s : State} (wear : Wear)

theorem setEntry_foldl_memory (e : Nat → SectorEntry) (l : List Nat) (s : State) :
    (l.foldl (fun t p => t.setEntry p (e p)) s).memory = s.memory := by
  induction l generalizing s with
  | nil => rfl
  | cons p l ih => exact ih _

theorem eraseBankNow_memory (b : Nat) : (eraseBankNow wear b s).memory = s.memory.eraseBank wear b := by
  unfold eraseBankNow
  dsimp only
  split
  · rfl
  · exact setEntry_foldl_memory _ _ _

theorem countStep_memory (r : StepResult) : (countStep r s).memory = s.memory := by cases r <;> rfl

theorem programNow_memory (a : Nat) (bytes : List Byte) :
    (programNow wear a bytes s).1.memory = (s.memory.program wear a bytes).1 := countStep_memory _

theorem judgeBank_memory (n b : Nat) : (judgeBank n b s).1.memory = s.memory := by
  unfold judgeBank placeAt
  repeat' split
  all_goals rfl

theorem searchSector_memory : (searchSector s).1.memory = s.memory := by
  unfold searchSector
  dsimp only
  split
  · rfl
  · exact judgeBank_memory 0 _

theorem searchOn_memory (b n : Nat) : (searchOn wear b n s).1.memory = s.memory.eraseBank wear b := by
  unfold searchOn
  dsimp only
  split
  · exact eraseBankNow_memory wear b
  · rw [judgeBank_memory, eraseBankNow_memory]

theorem entered_memory (op : StoreOp) (p : Nat) : (entered op p s).memory = s.memory := by
  unfold entered
  split
  · rfl
  · split <;> rfl
  · rfl
  · rfl

theorem voidMark_wf (p : Nat) (h : s.memory.wf) : (voidMark wear p s).memory.wf := by
  have hb := Memory.burn_wf wear (sectorBase p + 255) voidMarker h
  unfold voidMark
  dsimp only [State.setEntry_memory]
  split
  · exact hb
  · rw [countStep_memory]; exact hb

theorem endProgram_memory (f : InFlight) (p : Nat) : (endProgram wear f p s).1.memory =
    (s.memory.program wear (programmed f.op p s).1 (programmed f.op p s).2).1 := by
  have h := programNow_memory (s := s) wear (programmed f.op p s).1 (programmed f.op p s).2
  obtain ⟨op, step, retry, left⟩ := f
  unfold endProgram
  dsimp only at h ⊢
  generalize programNow wear (programmed op p s).1 (programmed op p s).2 s = x at h ⊢
  generalize (s.memory.program wear (programmed op p s).1 (programmed op p s).2).1 = m at h ⊢
  obtain ⟨s1, r⟩ := x
  cases r with
  | good => exact (entered_memory op p).trans h
  | _ => cases op <;> exact h

/-- The end of a step keeps the canonical form. -/
theorem endStep_wf (f : InFlight) (h : s.memory.wf) : (endStep wear f s).1.memory.wf := by
  unfold endStep
  split
  · exact h
  · exact h
  · split
    · rw [eraseBankNow_memory]; exact Memory.eraseBank_wf _ _ h
    · dsimp only
      rw [searchOn_memory]; exact Memory.eraseBank_wf _ _ h
  · rw [endProgram_memory]; exact Memory.program_wf _ _ _ h
  · have hv := voidMark_wf (s := s) wear ‹Nat› h
    unfold endVoid
    dsimp only
    split
    · dsimp only; rw [searchSector_memory]; exact hv
    · exact hv
    · exact hv

/-- All the steps of an operation keep the canonical form. -/
theorem runOp_wf (f : InFlight) (h : s.memory.wf) : (runOp wear f s).1.memory.wf := by
  have hn : ∀ (n : Nat) (f : InFlight) (s : State), s.memory.wf → (runSteps wear n f s).1.memory.wf := by
    intro n
    induction n with
    | zero => exact fun _ _ h => h
    | succ n ih =>
      intro f s h
      have hs := endStep_wf wear f h
      rw [runSteps]
      generalize endStep wear f s = x at hs ⊢
      obtain ⟨s1, o⟩ := x
      cases o with
      | done good => exact hs
      | next step retry => exact ih _ _ hs
  exact hn 40 f s h

/-! ### What a reset leaves -/

theorem tearProgram_wf {m : Memory} (torn : Torn) (a : Nat) (bytes : List Byte) (h : m.wf) : (tearProgram m torn a bytes).wf := by
  unfold tearProgram
  split
  · have h1 := Memory.burnAll_wf [] (bytes.take torn.written) a h
    dsimp only
    split
    · exact Memory.burn_wf _ _ _ h1
    · exact h1
  · exact h

theorem restoreSector_wf {m m1 : Memory} (p : Nat) (h : m1.wf) : (restoreSector m m1 p).wf :=
  Memory.foldl_write_wf _ (fun _ c => c.2) (Memory.clearRange_wf _ _ h)

theorem tearErase_wf {m : Memory} (torn : Torn) (b : Nat) (h : m.wf) : (tearErase m torn b).wf := by
  have hf : ∀ (l : List Nat) (n : Memory), n.wf →
      (l.foldl (fun n p => if erasePlausible m n p then n else restoreSector m n p) n).wf := by
    intro l
    induction l with
    | nil => exact fun _ h => h
    | cons p l ih =>
      refine fun n h => ih _ ?_
      dsimp only
      split
      · exact h
      · exact restoreSector_wf p h
  exact hf _ _ (Memory.foldl_write_wf _ (fun m c => m.read c.1 ||| c.2) h)

theorem tearMarks_wf {m : Memory} (torn : Torn) (l : List Nat) (h : m.wf) : (tearMarks m torn l).wf := by
  have hf : ∀ (k : List Nat) (m : Memory), m.wf →
      (k.foldl (fun m p => (m.program [] (sectorBase p + 16) [0x00]).1) m).wf := by
    intro k
    induction k with
    | nil => exact fun _ h => h
    | cons p k ih => exact fun m h => ih _ (Memory.program_wf _ _ _ h)
  exact hf _ _ h

theorem tearVoid_wf {m : Memory} (torn : Torn) (p : Nat) (h : m.wf) : (tearVoid m torn p).wf := by
  have hb := Memory.burn_wf (m := m) [] (sectorBase p + 255) (if torn.written = 0 then voidMarker ||| torn.partly else voidMarker) h
  unfold tearVoid
  generalize m.burn [] (sectorBase p + 255) (if torn.written = 0 then voidMarker ||| torn.partly else voidMarker) = m1 at hb ⊢
  dsimp only
  split
  · exact h
  · exact hb

theorem tearSector_wf {m : Memory} (torn : Torn) (p a : Nat) (bytes : List Byte) (h : m.wf) : (tearSector m torn p a bytes).wf := by
  unfold tearSector
  dsimp only
  split
  · exact h
  · exact tearProgram_wf _ _ _ h

theorem tearStep_wf (torn : Torn) (f : InFlight) (s : State) (h : s.memory.wf) : (tearStep torn f s).wf := by
  unfold tearStep
  split
  · exact h
  · exact tearErase_wf _ _ h
  · exact tearSector_wf _ _ _ _ h
  · exact tearVoid_wf _ _ h
  · split
    · exact tearMarks_wf _ _ h
    · exact tearErase_wf _ _ h
    · exact h

/-- The memory that a reset finds keeps the canonical form. -/
theorem tornMemory_wf (torn : Torn) (s : State) (h : s.memory.wf) : (tornMemory torn s).wf := by
  unfold tornMemory
  split
  · exact h
  · have hf := tearStep_wf torn ‹InFlight› s h
    dsimp only
    split
    · exact Memory.eraseBank_wf _ _ hf
    · exact hf

/-- The memory right after reset has the canonical form. -/
theorem reset_memory_wf : State.reset.memory.wf := Memory.wf_nil

end Sys2Proof.Machine
end

