-- ==== Sys2Proof/WellFormed.lean ====
section
/-! DEFINITION. Which commands are well formed: operands within the ranges that the rules of their rows give. A command that is not
is one that no sender of the node's forms; the machine gives it a meaning all the same, and no claim rests on it. -/

namespace Sys2Proof

/-- A start request carries a drive length exactly for PULSE (R5). -/
def StartRequest.wellFormed (r : StartRequest) : Bool := (r.mode == .pulse) == r.drive.isSome

/-- The trigger CHAIN names another channel (Table 1-1). -/
def TriggerEvent.wellFormed (channel : Fin 8) : TriggerEvent → Bool
  | .chain source => source != channel
  | _ => true

/-- A count of 32 bits. -/
def count32 (n : Nat) : Bool := n < 4294967296

/-- A lay, absent or 1–16,777,215 µm (Table 3-6). -/
def layInRange : Option Nat → Bool
  | none => true
  | some n => 0 < n && n < 16777216

/-- Totals in the ranges of Table 3-6. -/
def TwistTotals.wellFormed (t : TwistTotals) : Bool :=
  count32 t.windows && count32 t.outOfBand && count32 t.stalled && count32 t.layFaults &&
    layInRange t.minLay && layInRange t.maxLay && layInRange t.meanLay

/-- Counts in the ranges of Table 5-6. -/
def KnotCounts.wellFormed (k : KnotCounts) : Bool :=
  [k.sampledRows, k.unseenRows, k.inchRows, k.missedKnots, k.headFaults, k.meshWindows, k.meshOutOfBand, k.meshFaults].all count32

/-- A part handed over at the end of a segment. -/
def SegmentPart.wellFormed : SegmentPart → Bool
  | .twist t => t.wellFormed
  | .knot k => k.wellFormed

/-- A TALLY's parts in range (Table 10-7). -/
def Tally.wellFormed (t : Tally) : Bool := t.twist.all TwistTotals.wellFormed && t.knot.all KnotCounts.wellFormed

/-- A frame holds no more than 40 payload bytes (R97). -/
def RawFrame.wellFormed (f : RawFrame) : Bool := f.payload.length ≤ 40

/-- Bytes of the 65,536 of the memory (R154). -/
def bytesInMemory (bytes : List (Nat × Byte)) : Bool := bytes.all (fun c => c.1 < 65536)

/-- A torn operation lies in the memory, and its program step is of one sector at most (R158). -/
def Torn.wellFormed (t : Torn) : Bool := bytesInMemory t.erased && t.written ≤ 256

/-- Operands within the ranges of their rules. -/
def Instr.wellFormed : Instr → Bool
  | .reset _ _ torn => torn.wellFormed
  | .startEvent => true
  | .channelStartRequest _ r => r.wellFormed
  | .channelStopRequest _ => true
  | .setNextReload _ _ => true
  | .channelTrigger i e => e.wellFormed i
  | .intervalExpiry _ => true
  | .periodCapture _ => true
  | .encoderTransition _ _ _ => true
  | .speedEvaluation => true
  | .pacePartToMetering _ => true
  | .flagSetRequest _ o => o != .none
  | .spindleTurn _ => true
  | .twistRunningEntry => true
  | .twistRunningExit => true
  | .stallCheck => true
  | .twistSegmentRequest coil => coil != 0
  | .pacePartToTwist _ => true
  | .paceSourceSilent => true
  | .paceHoldExpiry => true
  | .paceSourceHeard => true
  | .scanStart => true
  | .conversionComplete _ => true
  | .samplerRunningEntry => true
  | .samplerRunningExit => true
  | .tensionClearQuestion => true
  | .tensionClearNotice => true
  | .phaseCodeChange _ => true
  | .windowOpen _ => true
  | .knotSample _ => true
  | .windowClose => true
  | .drawWidthCapture c full => full == (c == 0xFFFFFF)
  | .knotRunningEntry => true
  | .knotRunningExit => true
  | .knotSegmentRequest coil => coil != 0
  | .frameReceived f => f.wellFormed
  | .brokenFrame _ => true
  | .presenceTimerExpiry => true
  | .permitStateNotice p => p != .unset
  | .withdrawRequest serial => serial != 0
  | .transmitterJoin => true
  | .attemptBegin => true
  | .attemptSuccess => true
  | .collision => true
  | .peerListFrame f => f.station != 0
  | .peerAgeing n => n != 0
  | .start => true
  | .stop => true
  | .breakOpen => true
  | .breakClose => true
  | .alarmReset => true
  | .raiseCause _ => true
  | .clearCause _ => true
  | .haltTimerExpiry => true
  | .withdrawAnswer _ serial => serial != 0
  | .haltFrame n _ _ _ => n != 0
  | .resumeFrame n _ => n != 0
  | .presenceHaltPart n _ => n != 0
  | .tensionAnswer _ => true
  | .cutEndedAnswer _ => true
  | .heldBackAnswer _ => true
  | .coilHoldSet => true
  | .coilHoldClear => true
  | .supplyWarning => true
  | .supplyRecovery => true
  | .refusalBlinkEnd => true
  | .coilRunningEntry => true
  | .cutRequest => true
  | .restTimerExpiry => true
  | .cutDriveStart => true
  | .cutPulseExpiry => true
  | .cutTimerExpiry => true
  | .cutEndedQuestion => true
  | .cutDone => true
  | .segmentStatisticsAnswer coil part => coil != 0 && part.wellFormed
  | .reasonNotice _ _ _ => true
  | .splice => true
  | .markSpliceReceived n => n != 0
  | .markCutReceived n _ => n != 0
  | .tallyReceived n t => n != 0 && t.wellFormed
  | .tallyWaitExpiry => true
  | .keepReport coil _ => coil != 0
  | .heldBackQuestion => true
  | .supplyNotice => true
  | .programHeaderComplete wear => bytesInMemory wear
  | .keepComplete wear => bytesInMemory wear
  | .markCollectedComplete wear => bytesInMemory wear
  | .eraseBankComplete wear => bytesInMemory wear
  | .checkComplete => true
  | .readComplete => true
  | .lostCompletion wear => bytesInMemory wear
  | .commitComplete wear => bytesInMemory wear
  | .query n _ => n != 0
  | .recall n _ _ => n != 0
  | .collected n _ => n != 0
  | .key n _ => n != 0
  | .erase n _ => n != 0
  | .check n _ _ => n != 0
  | .setting n _ data => n != 0 && (data.length == 0 || data.length == 32)
  | .settingCommit n => n != 0
  | .target n _ => n != 0
  | .clearflags n => n != 0
  | .phaseCandidate _ => true
  | .receiverEntersPass => true
  | .passIdle => true
  | .alarmFlash => true

end Sys2Proof
end

