-- ==== Sys2Proof/Tests/Slice0.lean ====
section
/-! SUPPORT. Tests. The expected values of `test_…` theorems are the worked figures of spec/, named beside each; the
`refuses_…` theorems show that `Instr.wellFormed` refuses an ill-formed term. The helpers build small states: a node of station 7 in
group 2 with every role, in STANDBY, with changes of one record. -/

namespace Sys2Proof.Tests

open Sys2Proof Sys2Proof.Machine

/-! ### Helpers -/

/-- Settings of every node here, from the manual's worked sequences. -/
def base : Settings := { Settings.blank with
  group := 2
  coil := true
  paceSource := 4
  driftCheck := true
  autoResume := true
  encA := ⟨true, false, 1570796, 4096⟩
  encB := ⟨true, false, 1570796, 4096⟩
  slipStep := 1000
  slipLimit := 10
  driftLimit := 10
  takeUpRatio := 1065
  scanPeriod := 10
  scan := Vector.replicate 8 ⟨2, .low, true, false, 3, 1200, 4095⟩
  haltTimeout := 10
  coilTarget := 2000000
  cutDelay := 1500
  cutPulse := 800
  cutDoneTimeout := 10000
  tallyWait := 3000 }

/-- Settings of a TWIST node that follows station 4. -/
def rope : Settings := { base with
  twist := true
  follow := true
  layEscalate := true
  spindles := Vector.replicate 4 ⟨true, 1, 8, 180000, 25, 3⟩
  stallPeriod := 1000
  pref := 60
  paceHold := 1500 }

/-- Settings of a KNOT node. -/
def net : Settings := { base with
  knot := true
  meshEscalate := true
  consecutiveStop := true
  fittedHeads := 0xFF
  phaseFilter := 50
  openDelay := 400
  windowSpan := 2000
  headFilter := 3
  suspectThreshold := 3
  meshRows := 4
  meshTarget := 50000
  meshTolerance := 20
  meshRunLimit := 2 }

/-- A node of station 7 in STANDBY, just started. -/
def node : State := { State.reset with
  due := []
  startRec := { StartRecord.reset with station := 7, settingsValid := true, started := true }
  settings := rope
  meter := { Metering.reset with evaluationLeft := some 100000 }
  twist := { Twist.reset with spindles := Vector.replicate 4 { Spindle.reset with bandLow := 175500, bandHigh := 184500 } }
  prot := { Protection.reset with permit := .standby } }

/-- The same node as a KNOT node. -/
def knotter : State := { node with settings := net, twist := .reset, knot := { Knot.reset with meshLow := 49000, meshHigh := 51000 } }

/-- The state that a command leads to. -/
def after (c : Instr) (s : State) : State :=
  match exec c s with
  | .next t => t
  | _ => s

/-- A node in another permit state. -/
def inPermit (p : Permit) : State := { node with prot := { node.prot with permit := p } }

/-- A node with an own cause, in HALTED. -/
def haltedBy (c : Cause) : State := { node with prot := { node.prot with permit := .halted, causes := [c] } }

/-- A node at a line length. -/
def atLength (l : Int) : State := { node with meter := { node.meter with encA := { EncoderRecord.reset with length := l } } }

/-- The clear status, with one flag. -/
def only (flag : ArithFlag) : ArithFlags := clearFlags.set flag

/-- The same node at a line length of -1 µm. -/
def reversed (s : State) : State := { s with meter := (atLength (-1)).meter }

/-- A node with a spindle record for spindle 1. -/
def withSpindle (p : Spindle) : State := node.setSpindle 0 p

/-- An OPEN window in band 175,500–184,500 µm that began at 20,000,000 µm. -/
def window (turns : Nat) : Spindle := { Spindle.reset with
  windowOpen := true, turns := turns, startLength := 20000000, lastTurnLength := 20000000, bandLow := 175500, bandHigh := 184500 }

/-- A knot monitor in a sector, with its code. -/
def shaft (code : BitVec 3) (k : Sector) (rowValid : Bool) (w : WindowState) : State := { knotter with
  knot := { Knot.reset with takenCode := some code, takenSector := some k, rowValid := rowValid, window := w } }

/-- A coil record in a state. -/
def record (st : RecordState) : CoilRecord := { newRecord node 418 with state := st }

/-- A node with records in its slots. -/
def slots (o c h : Option CoilRecord) : State := { node with
  coil := { CoilBuilder.reset with openSlot := o, closingSlot := c, heldSlot := h, next := some 419 } }

/-- A node whose store has an operation in flight, at a step. -/
def storing (op : StoreOp) (step : StoreStep) (s : State) : State := { s with
  store := { s.store with inFlight := some ⟨op, step, false, 0⟩ } }

/-- A node whose key stands in a state. -/
def keyed (k : KeyState) (n : Option Station) : State := { node with store := { node.store with key := k, keyStation := n } }

/-- A node with a frame at the head of its queue. -/
def queued (f : QueuedFrame) (tx : TxState) : State := { node with line := { node.line with queue := [f], tx := tx } }

/-- A peer entry that is HEARD. -/
def peer (n : Station) (roles : Byte) : Peer :=
  { station := n, roles := roles, permit := 1, causes := 0, coil := 0, pace := none, halt := none, sequence := 0, heard := true, age := 0 }

/-! ### Worked figures -/

/-- R182: both settings are valid ones. -/
theorem test_settings_valid : rope.valid = true ∧ net.valid = true := by decide


/-- 6.2, Worked check. -/
theorem test_crc_of_0x01 : crc [0x01] = 0x7D07 := by decide

/-- 2.2, Worked accumulation: 3,760 counts of encoder A. -/
theorem test_accumulation : accumulate rope.encA 3760 .reset = ({ EncoderRecord.reset with length := 1441941, residue := 2624 }, none) := by
  decide

/-- Table 2-3: one count back. -/
theorem test_count_back : accumulate rope.encA (-1) { EncoderRecord.reset with length := 1441941, residue := 2624 } =
    ({ EncoderRecord.reset with length := 1441558, residue := 596 }, none) := by decide

/-- 2.2: a count at the upper limit. -/
theorem test_length_held : accumulate rope.encA 1 { EncoderRecord.reset with length := 549755813700 } =
    ({ EncoderRecord.reset with length := 549755813887, residue := 2028, limitReached := true }, some .ovf) := by decide

/-- 2.6, Worked slip figures. -/
theorem test_slip : perMille 987900 1000412 = 12 := by decide

/-- Table 2-6, part 2: the second pace part makes a drift of 12 ‰. -/
theorem test_drift : let s := after (.pacePartToMetering 41000) { atLength 43678000 with
      meter := { (atLength 43678000).meter with driftReference := some (40000, 42600000) } }
    s.meter.lastDrift = 12 ∧ s.meter.driftRun = 1 ∧ s.meter.driftReference = some (41000, 43678000) := by decide

/-- 3.3, Worked lay, and windows 2, 4 and 5 of Table 3-2. -/
theorem test_lay : layOf 1441941 8 = (180243, none) ∧ layOf 1490000 8 = (186250, none) ∧ layOf 1395000 8 = (174375, none) ∧
    layOf 1444004 8 = (180501, none) ∧ layTolerance ⟨true, 1, 8, 180000, 25, 3⟩ = 4500 := by decide

/-- 3.3 and Table 3-2, window 1: the eighth turn of spindle 1 closes its window. -/
theorem test_turn_closes : let p := (after (.spindleTurn 0) { withSpindle (window 7) with meter := (atLength 21441941).meter }).spindle 0
    p.lastLay = some 180243 ∧ p.lastClass = .within ∧ p.turns = 0 ∧ p.startLength = 21441941 ∧ p.stats.windows = 1 := by decide

/-- Table 3-2, window 4: the third out-of-band window makes the fault and raises LAY. -/
theorem test_lay_fault : let s := { withSpindle { window 7 with bandRun := 2 } with meter := (atLength 21395000).meter }
    let t := after (.spindleTurn 0) s
    (t.spindle 0).lastClass = .below ∧ (t.spindle 0).bandRun = 0 ∧ (t.spindle 0).stats.layFaults = 1 ∧
      t.due = [.raiseCause .lay] := by decide

/-- Table 3-7. -/
theorem test_half_period : halfPeriodOf 180000 500 60 = (3000, none) ∧ halfPeriodOf 180000 437 60 = (3432, none) ∧
    halfPeriodOf 1 65535 4095 = (10, some .ovf) ∧ halfPeriodOf 16777215 1 1 = (16777215, some .unf) := by decide

/-- 1.7, A new half-period on CH5: the interval in progress ends and the pending reload is taken. -/
theorem test_interval_reload : let c : Channel := { Channel.reset with
      mode := some .interval, state := .running, count := 1, reload := 3000, pendingReload := some 3432, action := .toggle }
    (after (.intervalExpiry 5) (node.setChannel 5 c)).channel 5 =
      { c with count := 3432, reload := 3432, pendingReload := none, level := true } := by decide

/-- R17: CH6 reloads in the event that gives its expiry, and the scan start that follows leaves it there. -/
theorem test_expiry_changes_the_channel_once : let c : Channel := { Channel.reset with
      mode := some .interval, state := .running, count := 1, reload := 10 }
    let s := stepChannel 6 (node.setChannel 6 c)
    (s.channel 6).count = 10 ∧ s.due = [.scanStart] ∧
      ((after .scanStart (s.setChannel 6 { c with count := 7 })).channel 6).count = 7 ∧
      ((after .scanStart (node.setChannel 6 { c with count := 7 })).channel 6).count = 10 := by decide

/-- Table 1-6: CH7 in PULSE mode is RUNNING with count 1,500, and then DRIVING with count 800 and CUT high. -/
theorem test_cut_pulse : let s := after (.channelStartRequest 7 (cutStart rope)) node
    let t := after .cutDriveStart s
    (s.channel 7).state = .running ∧ (s.channel 7).count = 1500 ∧ s.cutOut = false ∧
      (t.channel 7).state = .driving ∧ (t.channel 7).count = 800 ∧ t.cutOut = true := by decide

/-- Table 4-4 at 30 ms: the third low result trips, locks and raises TENSION; at 47 and 53 ms the question's answers. -/
theorem test_tension_trip : let e : ScanEntry := { ScanEntry.reset with result := 1100, filterRun := 2 }
    let s : State := { node with
      sampler := { Sampler.reset with position := some 0, runningView := true, entries := Sampler.reset.entries.set 0 e } }
    let t := after (.conversionComplete 1080) s
    t.sampler.entries[0] = { e with result := 1080, filterRun := 3, tripped := true, tripCount := 1, tripValue := some 1080, locked := true } ∧
      t.due = [.raiseCause .tension] ∧ (after .tensionClearQuestion t).due = [.raiseCause .tension, .tensionAnswer false] := by decide

/-- Table 5-7: establish S4, forward to S0, backward and skip. -/
theorem test_phase_sequence :
    (after (.phaseCodeChange 4) knotter).knot.takenSector = some .s4 ∧
    (after (.phaseCodeChange 1) (shaft 5 .s5 false .idle)).knot.rowValid = true ∧
    (after (.phaseCodeChange 1) (shaft 5 .s5 true .idle)).knot.rowCounter = 1 ∧
    (after (.phaseCodeChange 1) (shaft 3 .s1 true .idle)).knot.rowValid = false ∧
    (after (.phaseCodeChange 6) (shaft 3 .s1 false .idle)).knot.phaseFaults = 1 ∧
    (after (.phaseCodeChange 6) (shaft 3 .s1 false .idle)).knot.takenSector = none := by decide

/-- Table 5-8 at 500 µs: heads 0–4, 6 and 7 become TIGHT at the third active sample, head 5 does not. -/
theorem test_tight_heads : let k : Knot := { Knot.reset with window := .opened, samples := 4, headRuns := (Vector.replicate 32 2).set 5 1 }
    let t := after (.knotSample 0xFF) { knotter with knot := k }
    t.knot.tight = 0xDF ∧ t.knot.samples = 5 ∧ (after .windowClose t).knot.rowMissed = 0x20 ∧
      (after .windowClose t).knot.rowOutcome = .seen := by decide

/-- Table 6-4: the gaps of station 5 at attempts 0 and 1. -/
theorem test_gaps : let f := QueuedFrame.fresh .presence
    let h := QueuedFrame.fresh (.halt 2 1 0)
    [gapOf 5 h, gapOf 5 { h with attempts := 1 }, gapOf 5 f, gapOf 5 { f with attempts := 1 }] = [28, 32, 190, 80] := by decide

/-- Table 7-6 at time 0, for a node that resumes by itself: BREAK opens in RUNNING away from rest. -/
theorem test_break_opens : let t := after .breakOpen { inPermit .running with meter := { node.meter with atRest := false } }
    t.prot.permit = .halting ∧ t.prot.causes = [.breakChain] ∧ t.prot.serial = 1 ∧ t.prot.episode = .standing ∧
      t.prot.eligible = false ∧ t.contents = [.halt 2 1 0] ∧ t.brakeOut = true := by decide

/-- Table 7-7, the last row: the SENT answer of a CLOSING episode queues RESUME 5. -/
theorem test_episode_ends : let s := { node with prot := { node.prot with episode := .closing, serial := 5, sentSerial := some 4, outstanding := 1 } }
    let t := after (.withdrawAnswer true 5) s
    t.prot.episode = .quiet ∧ t.prot.sentSerial = none ∧ t.contents = [.resume 5] := by decide +kernel

/-- 8.11: the twist parts of stations 3 and 7 merged (Table 8-5). -/
theorem test_twist_merge : (mergeTwist (some (mergeTwist none ⟨1200, 14, 0, 0, some 171000, some 186900, some 180120⟩))
      ⟨800, 3, 2, 0, some 174500, some 185200, some 180410⟩).totals =
    ⟨2000, 17, 2, 0, some 171000, some 186900, some 180235⟩ := by decide +kernel

/-- R166, Table 9-5: 0x3C and then 0xA7 from one station open the key. -/
theorem test_key_opens : keyAfter .locked none 9 0x3C = (.half, some 9) ∧ keyAfter .half (some 9) 9 0xA7 = (.opened, some 9) ∧
    keyAfter .half (some 9) 8 0xA7 = (.frozen, some 9) := by decide

/-- A step runs the command at the front of the queue, then the oldest due event, then time. -/
theorem test_step_order : let s := { node with pending := [.breakClose, .stop], due := [.alarmReset] }
    step s = exec .breakClose { s with pending := [.stop] } ∧ step { node with due := [.alarmReset] } = exec .alarmReset { node with due := [.alarmReset] } := by
  constructor <;> rfl

/-- R181: a node with an erased sector 0 and no strap stays UNSET with its transmitter in QUIET. -/
theorem test_start_from_reset : (after .startEvent State.reset).prot.permit = .unset ∧
    (after .startEvent State.reset).line.tx = .quiet := by decide

/-! ### Ill-formed commands -/

theorem refuses_a_drive_length_outside_pulse :
    Instr.wellFormed (.channelStartRequest 7 ⟨.delay, .ms1, 10, some 5, .owner, .none⟩) = false := by decide

theorem refuses_a_pulse_without_a_drive_length :
    Instr.wellFormed (.channelStartRequest 7 ⟨.pulse, .ms1, 10, none, .owner, .drive⟩) = false := by decide

theorem refuses_a_chain_to_the_channel_itself : Instr.wellFormed (.channelTrigger 3 (.chain 3)) = false := by decide

theorem refuses_the_origin_none : Instr.wellFormed (.flagSetRequest .ovf .none) = false := by decide

theorem refuses_coil_0 : Instr.wellFormed (.twistSegmentRequest 0) = false ∧ Instr.wellFormed (.knotSegmentRequest 0) = false ∧
    Instr.wellFormed (.keepReport 0 true) = false ∧
    Instr.wellFormed (.segmentStatisticsAnswer 0 (.knot zeroCounts)) = false := by decide

theorem refuses_an_unsaturated_full_capture : Instr.wellFormed (.drawWidthCapture 0xFFFFFF false) = false ∧
    Instr.wellFormed (.drawWidthCapture 0xFFFFFE true) = false := by decide

theorem refuses_41_payload_bytes : Instr.wellFormed (.frameReceived ⟨0, 0, 0, 0, List.replicate 41 0, 0⟩) = false := by decide

theorem refuses_a_notice_of_unset : Instr.wellFormed (.permitStateNotice .unset) = false := by decide

theorem refuses_serial_0 : Instr.wellFormed (.withdrawRequest 0) = false ∧ Instr.wellFormed (.withdrawAnswer true 0) = false := by decide

theorem refuses_station_0 : Instr.wellFormed (.peerListFrame ⟨0, 0, none⟩) = false ∧ Instr.wellFormed (.peerAgeing 0) = false ∧
    Instr.wellFormed (.haltFrame 0 2 1 0) = false ∧ Instr.wellFormed (.resumeFrame 0 1) = false ∧
    Instr.wellFormed (.presenceHaltPart 0 none) = false ∧ Instr.wellFormed (.markCutReceived 0 1) = false ∧
    Instr.wellFormed (.markSpliceReceived 0) = false ∧ Instr.wellFormed (.query 0 0) = false ∧
    Instr.wellFormed (.settingCommit 0) = false := by decide

theorem refuses_totals_out_of_range :
    Instr.wellFormed (.segmentStatisticsAnswer 1 (.twist ⟨4294967296, 0, 0, 0, none, none, none⟩)) = false ∧
    Instr.wellFormed (.segmentStatisticsAnswer 1 (.twist ⟨1, 0, 0, 0, some 0, none, none⟩)) = false ∧
    Instr.wellFormed (.segmentStatisticsAnswer 1 (.twist ⟨1, 0, 0, 0, none, some 16777216, none⟩)) = false ∧
    Instr.wellFormed (.segmentStatisticsAnswer 1 (.knot { zeroCounts with meshFaults := 4294967296 })) = false ∧
    Instr.wellFormed (.tallyReceived 3 ⟨1, 0, clearFlags, 0, none, some { zeroCounts with inchRows := 4294967296 }⟩) = false := by
  decide +kernel

theorem refuses_bytes_outside_the_memory : Instr.wellFormed (.keepComplete [(65536, 0)]) = false ∧
    Instr.wellFormed (.reset 7 false ⟨[(65536, 0)], 0, 0⟩) = false ∧
    Instr.wellFormed (.reset 7 false ⟨[], 257, 0⟩) = false := by decide +kernel

theorem refuses_a_part_of_another_length : Instr.wellFormed (.setting 9 0 [1]) = false := by decide

/-! ### Witnesses

One theorem for each obligation with hypotheses: states and operands that meet them together, and for statements with several
clauses those of each clause, at the boundaries of its range. -/

theorem witness_StepRunsTheFrontCommand : ({ node with pending := [.start, .stop] } : State).pending = .start :: [.stop] := rfl

/-- The levels of a µs with SP3 high and the rest as in `node`. -/
def levels4 : Levels where
  encA := Vector.replicate 4 node.pins.readA
  encB := Vector.replicate 4 node.pins.readB
  phase := node.pins.phase
  ks := node.pins.ks
  sp := 4
  ai := node.pins.ai
  supply := node.pins.supply

theorem witness_StepWithoutCommands :
    let ch (c : Channel) := (node.setChannel 3 { c with state := .running }).channel 3
    let e : Channel := { Channel.reset with mode := some .count, unit := .edges, input := .spindle 2, count := 1 }
    let rise : State := { node.setChannel 3 e with pins := { node.pins with sp := 4 }, world := { node.world with levels := [levels4] } }
    node.pending = [] ∧ node.due = [] ∧ State.reset.due = [.startEvent] ∧ node.meter.evaluationLeft = some (99999 + 1) ∧
      (ch { Channel.reset with mode := some .delay }).count = 0 ∧ (ch { Channel.reset with mode := some .delay }).mode = some .delay ∧
      (∀ i, (node.channel i).input = .none) ∧ TickUnit.ms1.micros = some 1000 ∧ TickUnit.us1.micros = some (0 + 1) ∧
      2 ≤ (ch { Channel.reset with mode := some .interval, count := 2 }).count.toNat ∧
      (rise.channel 3).input = .spindle 2 ∧ rise.pins.spTaken.getLsbD 2 = false ∧ rise.pins.sp.getLsbD 2 = true ∧
      node.begun = true ∧ node.settings.encA.enabled = true ∧ node.prot.supplyWarning = false := by decide

/-- R7, R17, R75, R110, R114: what time makes due at each of those: a trigger of an ARMED channel at an expiry, a code change at the
end of the filter time, the candidate before it, ageing steps at 3,000 and 10,000 ms, and the lamp's change. -/
theorem witness_StepWithoutCommands_due :
    let c : Channel := { Channel.reset with mode := some .interval, state := .running, count := 1, reload := 9 }
    let a : Channel := { Channel.reset with mode := some .delay, state := .armed, trigger := .chain 3 }
    let k (n : Nat) (cand : Option (BitVec 3)) : State := { (shaft 3 .s1 true .idle).withKnot { (shaft 3 .s1 true .idle).knot with
      candidate := cand, filterTime := n } with pins := { knotter.pins with phase := 2 } }
    let p (n : Nat) (heard : Bool) : Peer := { peer 4 0 with heard := heard, age := n }
    let flashing : State := { node with prot := { node.prot with lamp := ⟨.flashing, true, some 1⟩ } }
    (tick ((node.setChannel 3 c).setChannel 4 a)).due = [.channelTrigger 4 (.chain 3)] ∧ net.phaseFilter = 50 ∧
      (tick (k 49 (some 2))).due = [.phaseCodeChange 2] ∧ (tick (k 48 (some 2))).due = [] ∧
      (tick (k 48 (some 2))).knot.filterTime = 49 ∧ (tick (k 48 none)).due = [.phaseCandidate 2] ∧
      (tick { node with peers := [p 2999999 true] }).due = [.peerAgeing 4] ∧ (tick { node with peers := [p 2999998 true] }).due = [] ∧
      (tick { node with peers := [p 9999999 false] }).due = [.peerAgeing 4] ∧ (tick { node with peers := [p 3000000 false] }).due = [] ∧
      (tick flashing).due = [.alarmFlash] := by decide +kernel

/-- R21: a pair read by two successive samples is taken, one read by a single sample is passed over, and both lines of a pair
taken go to the encoder. -/
theorem test_pair_is_taken_at_the_second_sample :
    let high : Levels := { levels4 with encA := #v[(false, false), (true, false), (true, false), (true, true)] }
    let low : Levels := { levels4 with encA := #v[(true, false), (true, false), (true, false), (true, false)] }
    let s : State := { node with world := { node.world with levels := [high, low] } }
    (tick s).due = [.encoderTransition .a true false] ∧ (tick (tick s)).due = (tick s).due ∧
      (tick s).pins.readA = (true, true) ∧ (tick s).pins.encA = (true, false) := by decide +kernel

/-- R133: the 1,000th reading below 17.0 V in succession makes the warning, and 17.0 V itself is none. -/
theorem test_supply_warns_after_1_ms :
    let s (mv n : Nat) : State := node.withPins { node.pins with supply := mv, supplyLow := n }
    (tick (s 16999 999)).due = [.supplyWarning] ∧ (tick (s 16999 998)).due = [] ∧ (tick (s 17000 999)).due = [] := by
  decide +kernel

/-- R4, R11: the second high sample of an input is an edge, which a COUNT channel counts, and the first is none. -/
theorem test_edge_is_taken_at_the_second_sample :
    let c : Channel := { Channel.reset with mode := some .count, unit := .edges, state := .running, input := .spindle 2, count := 5, reload := 5 }
    let s : State := { node.setChannel 3 c with world := { node.world with levels := [levels4] } }
    let t := tick s
    (t.channel 3).count = 5 ∧ t.pins.spTaken = 0 ∧ ((tick t).channel 3).count = 4 ∧ (tick t).pins.spTaken = 4 := by decide +kernel

/-- R84, with the levels that a µs brings shown first (log entry 3): the window that a CH1 expiry opens reads the lines of its µs, and
taking it later changes no line. -/
theorem test_window_opens_on_the_lines_of_its_instant :
    let c : Channel := { Channel.reset with mode := some .delay, state := .running, count := 1 }
    let s : State := { shaft 6 .s3 true .pending with world := { node.world with levels := [{ levels4 with phase := 6, ks := 7 }] } }
    let t := tick (s.setChannel 1 c)
    t.due = [.windowOpen 7] ∧ t.pins.ks = 7 ∧ (after (.windowOpen 7) t).pins = t.pins ∧
      (after (.windowOpen 7) t).knot.headRuns[(2 : Fin 32)] = 1 := by decide +kernel

theorem witness_ResetReturnsEveryBlock_erased (p : Nat) (_ : 16 ≤ p) (_ : p ≤ 255) : State.reset.sectorClass p ≠ .openOnly := by
  simp only [State.sectorClass, State.sectorEntry, State.reset, Store.reset, List.getD_eq_getElem?_getD, List.getElem?_replicate]
  split <;> decide

set_option maxRecDepth 4000 in
theorem witness_ResetReturnsEveryBlock : imageValid (State.reset.memory.readRange 0 256) = false ∧ node.store.inFlight = none ∧
    ({ node with store := { node.store with table := [⟨.openOnly, 7, 1, false⟩] } } : State).sectorClass 16 = .openOnly := by
  decide +kernel

set_option maxRecDepth 4000 in
/-- R183: a reset during a commit leaves settings that are not valid. -/
theorem witness_ResetReturnsEveryBlock_commit :
    let s (step : StoreStep) := storing (.commit (List.replicate 256 0x31) 9) step node
    (List.replicate 256 (0x31 : Byte)).length = 256 ∧ (s (.program 0)).store.inFlight.isSome = true ∧
      imageValid ((tornMemory ⟨[], 0, 0⟩ (s (.erase 0 1))).readRange 0 256) = false := by decide +kernel

theorem witness_StartEventDecides :
    let s (n : Station) := { State.reset with startRec := { StartRecord.reset with station := n, settingsValid := true } }
    State.reset.startRec.started = false ∧ State.reset.store.inFlight = none ∧ State.reset.store.scanLeft = [] ∧
      (s 1).startRec.settingsValid = true ∧ (s 1).startRec.station ≠ 0 ∧ (s 31).startRec.station ≠ 0 ∧ (s 31).pins.breakOpen = false ∧
      State.reset.startRec.settingsValid = false ∧ (s 0).startRec.station = 0 ∧ rope.twist = true ∧ net.knot = true ∧
      ({ s 7 with pins := { Pins.reset with breakOpen := true } } : State).pins.breakOpen = true ∧ Cause.breakChain ∉ (s 7).prot.causes := by
  decide

/-- Table 2-1: the references are the pairs read when counting begins, also where they differ from the pairs taken. -/
theorem test_references_are_the_pairs_read :
    let s := { State.reset with
      startRec := { StartRecord.reset with station := 7, settingsValid := true }
      pins := { Pins.reset with readA := (true, false) } }
    (after .startEvent s).meter.encA.reference = (true, false) ∧ (after .startEvent s).pins.encA = (true, false) := by decide

theorem witness_RunningStaysUnheld : RunsUnheld (inPermit .running) ∧ RunsUnheld (haltedBy .lay) ∧
    (∃ t, step (inPermit .running) = .next t) ∧ (haltedBy .lay).prot.causes ≠ [] := by
  refine ⟨fun _ => ⟨rfl, rfl⟩, fun h => absurd h (by decide), ⟨_, rfl⟩, by decide⟩

theorem witness_StandbyStaysIneligible : StandbyIneligible node ∧ node.prot.permit = .standby ∧
    HaltsUnique { node with prot := { node.prot with table := [⟨1, 2, 1, none, false⟩, ⟨31, 2, 1, none, true⟩] } } ∧
    ∃ t, step node = .next t :=
  ⟨fun _ => rfl, rfl, by unfold HaltsUnique; decide, _, rfl⟩

theorem witness_QueueStaysOrdered : QueueOrdered { node with line := { node.line with
      queue := [.fresh (.halt 2 1 0), .fresh .presence] } } ∧ ∃ t, step node = .next t :=
  ⟨⟨by decide, by decide, by unfold urgentFirst; decide⟩, _, rfl⟩

theorem witness_WindowsStayAddedUp : WindowsAddUp (withSpindle { Spindle.reset with
    stats := { SpindleStats.zero with windows := 5, within := 2, below := 1, above := 2 } }) ∧
    HistoryFits (knotter.withKnot { Knot.reset with history := List.replicate 16 ⟨1, 0, false, false⟩ }) := by
  unfold WindowsAddUp HistoryFits; decide

theorem witness_MemoryStaysCanonical : MemoryCanonical { node with memory := [(0, 0x31), (65535, 0)] } ∧
    RecordsFit (slots (some { record .opened with
      halts := List.replicate 8 ⟨2, 3, 0, true⟩, splices := List.replicate 8 0 }) (some { record .gathering with
      contributors := List.replicate 15 (ownContributor 3) }) none) := by
  unfold MemoryCanonical RecordsFit RecordFits; decide

theorem witness_UnsetProtectionTakesNothing : State.reset.prot = .reset ∧ Instr.stop ≠ .startEvent ∧
    ∃ t, exec .stop State.reset = .next t := ⟨rfl, by decide, _, rfl⟩

theorem witness_StartRequestRunsOrArms : node.allocated 0 = true ∧ node.allocated 7 = true ∧ knotter.allocated 0 = true ∧
    (∀ m : RunMode, m ∈ [.interval, .count, .delay, .pulse] → m ≠ .period ∧ m ≠ .width) ∧ Trigger.input ≠ .owner ∧
    Trigger.chain 2 ≠ .chain 1 := by decide

/-- R6, R13, Table 1-4: requests with every value that is adjusted, at the reloads 0 and 1. -/
theorem witness_StartRequestRunsOrArms_adjusted :
    let c (r : StartRequest) := (after (.channelStartRequest 7 r) node).channel 7
    let ran (r : StartRequest) := ((c r).state, (c r).count, (c r).reload)
    ran ⟨.interval, .edges, 0, none, .chain 7, .drive⟩ = (.running, 1, 1) ∧ ran ⟨.count, .ms1, 0, none, .owner, .none⟩ = (.running, 1, 1) ∧
      ran ⟨.delay, .ms1, 0, none, .chain 0, .toggle⟩ = (.armed, 1, 1) ∧ ran ⟨.delay, .ms1, 0, none, .owner, .none⟩ = (.running, 0, 0) ∧
      ran ⟨.pulse, .ms1, 0, some 0, .owner, .drive⟩ = (.driving, 1, 0) ∧ ran ⟨.pulse, .ms1, 1, some 1, .input, .drive⟩ = (.armed, 1, 1) ∧
      ran ⟨.width, .ms1, 1, none, .owner, .toggle⟩ = (.armed, 0, 1) ∧ (c ⟨.interval, .edges, 0, none, .chain 7, .drive⟩).trigger = .owner ∧
      (c ⟨.interval, .edges, 0, none, .owner, .drive⟩).unit = .us1 ∧ (c ⟨.count, .ms1, 0, none, .owner, .none⟩).unit = .edges ∧
      (c ⟨.interval, .us1, 1, none, .owner, .drive⟩).action = .none ∧ (c ⟨.interval, .us1, 1, none, .owner, .toggle⟩).action = .toggle ∧
      (c ⟨.width, .ms1, 1, none, .owner, .toggle⟩).trigger = .input := by decide

/-- R2: channels without an entry for the roles, and all of them in UNSET. -/
theorem witness_StartRequestRunsOrArms_unallocated :
    let meterOnly : State := { node with settings := { base with coil := false } }
    let r : StartRequest := ⟨.interval, .us1, 5, none, .owner, .none⟩
    meterOnly.allocated 0 = false ∧ meterOnly.allocated 6 = true ∧ knotter.allocated 3 = false ∧ node.allocated 5 = true ∧
      State.reset.allocated 6 = false ∧ (State.reset.channel 6).state = .idle ∧ (State.reset.channel 6).mode = none ∧
      (after (.channelStartRequest 0 r) meterOnly).channel 0 = .reset := by decide

theorem witness_StopAndSetNextReloadAct :
    let ch (m : RunMode) (st : ChannelState) := (node.setChannel 5 { Channel.reset with mode := some m, state := st }).channel 5
    (node.channel 5).state = .idle ∧ (ch .interval .running).mode = some .interval ∧ (ch .interval .running).state = .running ∧
      (ch .count .armed).mode = some .count ∧ (ch .count .armed).state = .armed ∧ (ch .pulse .driving).state = .driving ∧
      ¬ ((ch .pulse .driving).mode = some .interval ∨ (ch .pulse .driving).mode = some .count) := by decide

theorem witness_TriggerStartsAnArmedChannel :
    let c : Channel := { Channel.reset with mode := some .delay, state := .armed, reload := 1, trigger := .line .cut }
    let d : Channel := { Channel.reset with mode := some .width, state := .armed, trigger := .input, input := .inDraw }
    (node.channel 5).state ≠ .armed ∧ c.state = .armed ∧ c.trigger = .line .cut ∧ c.mode = some .delay ∧ c.reload ≠ 0 ∧
      d.state = .armed ∧ d.trigger = .input ∧ d.input ≠ .none ∧ d.mode = some .width := by decide

/-- R13: a triggered PULSE with a reload of 0 is at once in its drive. -/
theorem witness_TriggerStartsAnArmedChannel_drive :
    let c : Channel := { Channel.reset with mode := some .pulse, state := .armed, trigger := .line .cut, drive := some 4, action := .drive }
    let t := after (.channelTrigger 7 (.line .cut)) (node.setChannel 7 c)
    c.mode = some .pulse ∧ c.reload = 0 ∧ t.channel 7 = { c with state := .driving, count := 4, level := true } ∧
      .cutDriveStart ∈ t.due := by decide +kernel

theorem witness_IntervalsReloadAndPeriodsCapture :
    let c : Channel := { Channel.reset with mode := some .interval, state := .running, count := 1, reload := 1 }
    let d : Channel := { Channel.reset with mode := some .period, state := .running, input := .spindle 2, count := 0xFFFFFF }
    let s := (node.setChannel 5 c).setChannel 3 d
    (s.channel 5).state = .running ∧ (s.channel 5).mode = some .interval ∧ (s.channel 3).state = .running ∧
      (s.channel 3).mode = some .period ∧ (s.channel 3).input ≠ .none ∧ (s.channel 3).count.toNat = 16777215 := by decide

/-- R7: either expiry triggers the channel that is ARMED with CHAIN on its channel. -/
theorem witness_IntervalsReloadAndPeriodsCapture_chains :
    let c : Channel := { Channel.reset with mode := some .interval, state := .running, count := 1, reload := 1 }
    let d : Channel := { Channel.reset with mode := some .period, state := .running, input := .spindle 2, count := 9 }
    let a (i : Fin 8) : Channel := { Channel.reset with mode := some .delay, state := .armed, trigger := .chain i }
    let s := (((node.setChannel 5 c).setChannel 3 d).setChannel 1 (a 5)).setChannel 2 (a 3)
    (s.channel 1).state = .armed ∧ (s.channel 1).trigger = .chain 5 ∧ (s.channel 2).trigger = .chain 3 ∧
      .channelTrigger 1 (.chain 5) ∈ (after (.intervalExpiry 5) s).due ∧ (s.channel 3).mode = some .period ∧
      (s.channel 3).input ≠ .none := by decide

theorem witness_TransitionsCountAndKeepTheResidue : node.begun = true ∧ (node.settings.encoder .a).enabled = true ∧
    0 < (node.settings.encoder .a).d ∧ transitionOf (node.meter.encoder .a).reference (true, false) = .count 1 ∧
    transitionOf (node.meter.encoder .a).reference (false, true) = .count (-1) ∧
    true ≠ (node.meter.encoder .a).reference.1 ∧ true ≠ (node.meter.encoder .a).reference.2 := by decide

theorem witness_TransitionsCountAndKeepTheResidue_ends :
    let s : State := { atLength 2000000000 with
      settings := { rope with coil := true }
      coil := (slots (some { record .opened with startMicrometres := 0, target := 2000000 }) none none).coil }
    s.begun = true ∧ s.settings.encA.enabled = true ∧ s.settings.encB.enabled = true ∧
      ((s.settings.slipStep : Int) * 1000 ≤ s.meter.encA.length - s.meter.slipA) ∧ s.settings.coil = true ∧
      (record .opened).state = .opened ∧ 2000000 ≤ (s.lineLength + 383 - 0).toNat / 1000 ∧ s.lineLength ≠ s.lineLength + 383 ∧
      ¬ 2000001 ≤ (s.lineLength + 383 - 0).toNat / 1000 := by decide

/-- R24: a count past either limit, and one that just stays below. -/
theorem witness_TransitionsCountAndKeepTheResidue_limits :
    let s (l : Int) (r : Nat) (f : ArithFlags) : State := { node with meter := { node.meter with
      flags := f, encA := { EncoderRecord.reset with length := l, residue := r } } }
    let t (l : Int) (r : Nat) (back : Bool) := (after (.encoderTransition .a (!back) back) (s l r clearFlags)).meter
    (node.meter.encoder .a).reference = (false, false) ∧ (t 549755813887 0 false).encA.length = 549755813887 ∧
      (t 549755813887 0 false).flags.ovf = true ∧ (t 549755813887 0 false).origin = .meterA ∧
      (t 549755813887 0 false).encA.limitReached = true ∧ (t (-549755813888) 0 true).flags.unf = true ∧
      (t (-549755813888) 0 true).encA.limitReached = true ∧ (t 549755813504 0 false).encA.length = 549755813887 ∧
      (t 549755813504 0 false).encA.limitReached = false ∧ (s 0 0 { clearFlags with rng := true }).meter.flags.any = true ∧
      (549755813887 : Int) < 549755813887 + (0 + 1 * (1570796 : Int)).fdiv 4096 ∧
      (-549755813888 : Int) + (0 + -1 * (1570796 : Int)).fdiv 4096 < -549755813888 := by decide +kernel

/-- R30, R32, R142: a slip above 65,535 ‰ alone, a line length before the start of the OPEN coil alone, and both in one count, for
which SLIP is the origin (log entry 43); and a coil that ends away from rest or while a record gathers is not cut yet. -/
theorem witness_TransitionsCountAndKeepTheResidue_status :
    let s (b start : Int) (rest : Bool) (c : Option CoilRecord) : State := { atLength 1999700 with
      meter := { (atLength 1999700).meter with
        encB := { EncoderRecord.reset with length := b }, slipA := 999000, atRest := rest }
      coil := (slots (some { record .opened with startMicrometres := start, target := 2 }) c none).coil }
    let t (b start : Int) (rest : Bool) (c : Option CoilRecord) := after (.encoderTransition .a true false) (s b start rest c)
    let m (b start : Int) := ((t b start false none).meter.flags, (t b start false none).meter.origin)
    let st (rest : Bool) (c : Option CoilRecord) := (t 1000000 (-1000000) rest c).coil.openSlot.map CoilRecord.state
    m 90000000 1999000 = (only .rng, .slip) ∧ m 1000000 3000000 = (only .rng, .convert) ∧
      m 90000000 3000000 = (only .rng, .slip) ∧ m 1000000 1999000 = (clearFlags, .none) ∧
      (t 1000000 (-1000000) true none).meter.slipA = 2000083 ∧ st true none = some .cutting ∧ st false none = some .ending ∧
      st true (some (record .gathering)) = some .ending ∧ st true (some (record .sealing)) = some .cutting := by decide +kernel

theorem witness_CountForwardAndBackCancel : 0 < rope.encA.d ∧ rope.encA.n ≤ 16777215 ∧ EncoderRecord.reset.residue < rope.encA.d ∧
    -500000000000 ≤ EncoderRecord.reset.length ∧ EncoderRecord.reset.length ≤ 500000000000 := by decide

theorem witness_SpeedEvaluationFollowsTheLine :
    let z : State := { inPermit .halting with meter := { node.meter with zeroRun := 2, atRest := false } }
    let d (l : Int) := (l - node.meter.keptLength).tdiv 100
    node.begun = true ∧ d (-100) = -1 ∧ d 99 = 0 ∧ d 100 = 1 ∧ d 6553500 = 65535 ∧ d 6553600 = 65536 ∧
      (atLength 6553600).lineLength = 6553600 ∧ z.meter.zeroRun = 2 ∧ z.meter.atRest = false ∧ z.prot.permit = .halting ∧
      ({ z with prot := { z.prot with causes := [.lay] } } : State).prot.causes ≠ [] := by decide

/-- Table 7-4 row by row, with a peer halt as a reason, and a zero evaluation that finds the run at 3. -/
theorem witness_SpeedEvaluationFollowsTheLine_rests :
    let z (run : Nat) (rest : Bool) (table : List HaltEntry) (eligible hold : Bool) : State := { inPermit .halting with
      meter := { node.meter with zeroRun := run, atRest := rest }
      prot := { (inPermit .halting).prot with table := table, eligible := eligible, coilHold := hold, haltLeft := some 1 } }
    let decided (s : State) := ((after .speedEvaluation s).prot.permit, (after .speedEvaluation s).prot.haltLeft)
    decided (z 2 false [⟨4, 2, 1, none, false⟩] true false) = (.halted, none) ∧ decided (z 2 false [] false false) = (.standby, none) ∧
      decided (z 2 false [] true true) = (.halted, none) ∧ decided (z 2 false [] true false) = (.running, none) ∧
      decided (z 1 false [] true false) = (.halting, some 1) ∧ decided (z 3 true [] true false) = (.halting, some 1) ∧
      (after .speedEvaluation (z 3 true [] true false)).meter.zeroRun = 3 := by decide

theorem witness_SlipAndDriftAreChecked :
    let s := { node with meter := { (atLength 1000412).meter with encB := { EncoderRecord.reset with length := 987900 } } }
    let part (n : Int) := ((n - 40000) * node.settings.takeUpRatio + 500).tdiv 1000
    0 < s.meter.encA.length - s.meter.slipA ∧ s.settings.slipLimit < (checkSlip s).meter.lastSlip ∧ s.meter.slipRun = 0 ∧
      node.begun = true ∧ node.settings.driftCheck = true ∧ node.settings.paceSource ≠ 0 ∧ node.meter.driftReference = none ∧
      part 40093 = 99 ∧ part 40094 = 100 := by decide +kernel

/-- R32, R34: a slip and a drift of 65,535 ‰ set no flag, and of 65,536 ‰ set RNG with their origin where no flag stood. -/
theorem witness_SlipAndDriftAreChecked_flags :
    let slip (b : Int) (f : ArithFlags) : State := { node with meter := { (atLength 1000000).meter with
      flags := f, encB := { EncoderRecord.reset with length := b } } }
    let drift (own : Int) := after (.pacePartToMetering 940) { atLength own with
      settings := { rope with takeUpRatio := 1064 }
      meter := { (atLength own).meter with driftReference := some (0, 0) } }
    let status (s : State) := (s.meter.flags, s.meter.origin)
    status (checkSlip (slip 66535000 clearFlags)) = (clearFlags, .none) ∧
      status (checkSlip (slip 66536000 clearFlags)) = (only .rng, .slip) ∧
      status (checkSlip (slip 66536000 (only .dvz))) = ((only .dvz).set .rng, .none) ∧
      (checkSlip (slip 66536000 clearFlags)).meter.lastSlip = 65535 ∧
      status (drift 66535000) = (clearFlags, .none) ∧ status (drift 66536000) = (only .rng, .drift) := by decide +kernel

theorem witness_FlagRequestKeepsTheFirstOrigin : node.begun = true ∧ node.meter.flags.any = false := by decide

theorem witness_SpindleTurnCountsOrCloses : let s (n : Nat) := withSpindle (window n)
    (s 6).begun = true ∧ (s 6).settings.twist = true ∧ ((s 6).spindle 0).windowOpen = true ∧
      ((s 6).spindle 0).turns + 1 < (s 6).settings.spindles[(0 : Fin 4)].turnsPerWindow ∧
      (s 7).settings.spindles[(0 : Fin 4)].turnsPerWindow ≤ ((s 7).spindle 0).turns + 1 ∧
      ((s 7).spindle 0).stats.windows < 4294967295 := by decide

theorem witness_SpindleTurnCountsOrCloses_judged :
    let s : State := { withSpindle { window 7 with bandRun := 2 } with meter := (atLength 21395000).meter, due := [.spindleTurn 0] }
    let c : Channel := { Channel.reset with mode := some .count, state := .running, input := .spindle 0 }
    let lay := (layOf (s.lineLength - (s.spindle 0).startLength) ((s.spindle 0).turns + 1)).1
    lay < (s.spindle 0).bandLow ∧ s.settings.spindles[(0 : Fin 4)].runLimit ≤ (s.spindle 0).bandRun + 1 ∧
      s.settings.layEscalate = true ∧ Instr.spindleTurn 0 ∈ s.due ∧ Instr.spindleTurn 0 ∉ node.due ∧ c.mode = some .count ∧
      c.state = .running ∧ c.input ≠ .none ∧ (node.channel (turnChannel 0)).input = .none ∧ (node.spindle 0).windowOpen = false := by decide

/-- R45: a full window of an advance of 0, of one that rounds to 16,777,215 µm a turn, and of one that rounds above it. -/
theorem witness_SpindleTurnCountsOrCloses_clamped :
    let s (l : Int) : State := { withSpindle (window 7) with meter := (atLength (20000000 + l)).meter }
    let t (l : Int) := after (.spindleTurn 0) (s l)
    let seen (l : Int) := ((t l).meter.flags, (t l).meter.origin, ((t l).spindle 0).lastLay)
    seen 0 = (only .unf, .lay 0, some 1) ∧ seen 134217723 = (clearFlags, .none, some 16777215) ∧
      seen 134217724 = (only .ovf, .lay 0, some 16777215) ∧ (t 0).due = [] := by decide +kernel

/-- R7: a turn whose edge has not acted triggers the channel that is ARMED with CHAIN on its turn channel. -/
theorem witness_SpindleTurnCountsOrCloses_chain :
    let c : Channel := { Channel.reset with mode := some .count, unit := .edges, state := .running, input := .spindle 0, count := 1 }
    let a : Channel := { Channel.reset with mode := some .delay, state := .armed, trigger := .chain (turnChannel 0) }
    let s := (node.setChannel (turnChannel 0) c).setChannel 7 a
    Instr.spindleTurn 0 ∉ s.due ∧ (s.channel 7).state = .armed ∧ (s.channel 7).trigger = .chain (turnChannel 0) ∧
      .channelTrigger 7 (.chain (turnChannel 0)) ∈ (after (.spindleTurn 0) s).due := by decide

theorem witness_LayIsRoundedAndJudged : (0 < 255 ∧ 255 ≤ 255) ∧ (0 : Int) ≤ 0 ∧ ((255 : Int) ≤ 2 * 128 ∧ 2 * (128 : Int) < 33554431 * 255) ∧
    (33554431 * 1 ≤ 2 * (16777216 : Int)) ∧ (2 < 3 ∧ 175499 < 175500 ∧ 184500 < 184501 ∧ 2 + 1 = 3) := by decide

theorem witness_TwistFollowsRunning : node.begun = true ∧ node.settings.twist = true ∧
    (∀ n : Fin 4, node.settings.spindles[n].fitted = true) ∧ base.spindles[(0 : Fin 4)].fitted = false ∧ node.settings.follow = true := by
  decide

theorem witness_StallCheckClosesUnmarkedWindows : let p (n : Nat) (mark : Bool) := (withSpindle { window n with closedMark := mark }).spindle 0
    node.begun = true ∧ node.settings.twist = true ∧ (node.spindle 0).windowOpen = false ∧ (p 0 true).closedMark = true ∧
      (p 0 true).windowOpen = true ∧ (p 1 false).closedMark = false ∧ 0 < (p 1 false).turns ∧ (p 0 false).turns = 0 := by decide

/-- R47, R49, R50, R52: a short close at the run limit, and a second stall in succession with no flag standing. -/
theorem witness_StallCheckClosesUnmarkedWindows_judged :
    let s := withSpindle { window 1 with lastTurnLength := 20170000, bandRun := 2 }
    let z := withSpindle { window 0 with stallRun := 1 }
    let t := after .stallCheck s
    let u := after .stallCheck z
    let lay := (layOf ((s.spindle 0).lastTurnLength - (s.spindle 0).startLength) (s.spindle 0).turns).1
    lay < (s.spindle 0).bandLow ∧ s.settings.spindles[(0 : Fin 4)].runLimit ≤ (s.spindle 0).bandRun + 1 ∧
      (s.spindle 0).stats.windows < 4294967295 ∧ (t.spindle 0).stats.layFaults = 1 ∧ (t.spindle 0).stats.below = 1 ∧
      .raiseCause .lay ∈ t.due ∧ z.meter.flags.any = false ∧ (∀ m : Fin 4, ¬ m < 0) ∧ u.meter.flags.dvz = true ∧
      u.meter.origin = .lay 0 ∧ (u.spindle 0).stats.stalled = 1 ∧ .raiseCause .strand ∈ u.due := by decide +kernel

/-- R37, R45, R50: the first spindle that asks gives the origin, and the flags of the later ones are set too. -/
theorem witness_StallCheckClosesUnmarkedWindows_flags :
    let short (l : Int) : Spindle := { window 1 with lastTurnLength := 20000000 + l }
    let s := (((node.setSpindle 0 (short 180000)).setSpindle 1 (short 16777216)).setSpindle 2 (short 0)).setSpindle 3 (window 0)
    let t := after .stallCheck s
    t.meter.flags = (((only .ovf).set .unf).set .dvz) ∧ t.meter.origin = .lay 1 ∧ (t.spindle 1).lastLay = some 16777215 ∧
      (t.spindle 2).lastLay = some 1 ∧ (after .stallCheck (node.setSpindle 0 (short 180000))).meter.flags = clearFlags ∧
      .raiseCause .arith ∈ (after .stallCheck { s with settings := { rope with arithEscalate := true } }).due := by decide +kernel

theorem witness_SegmentRequestsHandOverAndClear : node.begun = true ∧ node.settings.twist = true ∧ knotter.begun = true ∧
    knotter.settings.knot = true := by decide

theorem witness_PacePartRecomputesTheHalfPeriod : let h (v : Nat) := (1000 * 180000 + v * 60) / (2 * v * 60)
    node.follows = true ∧ node.twist.condition = .tracking ∧ node.twistRunning = false ∧ (withSpindle (window 0)).twistRunning = true ∧
      node.referenceRuns = false ∧ ({ node with due := [.channelStartRequest 5 (intervalRequest .us1 10 .toggle)] } : State).referenceRuns = true ∧
      10 ≤ h 65535 ∧ h 1 ≤ 16777215 ∧
      (1000 * 1 + 65535 * 4095) / (2 * 65535 * 4095) < 10 ∧ 16777215 < (1000 * 16777215 + 1 * 1) / (2 * 1 * 1) := by decide +kernel

/-- R55: a half-period clamped at either end sets its flag with origin FOLLOW, and one within them sets none. -/
theorem witness_PacePartRecomputesTheHalfPeriod_clamped :
    let s (target pref : Nat) : State := { node with settings := { rope with
      pref := pref, spindles := Vector.replicate 4 ⟨true, 1, 8, target, 25, 3⟩ } }
    let seen (target pref : Nat) (v : BitVec 16) := let t := after (.pacePartToTwist v) (s target pref)
      (t.twist.halfPeriod, t.meter.flags, t.meter.origin)
    seen 1 4095 65535 = (some 10, only .ovf, .follow) ∧ seen 16777215 1 1 = (some 16777215, only .unf, .follow) ∧
      seen 180000 60 500 = (some 3000, clearFlags, .none) := by decide +kernel

theorem witness_PaceSourceIsHeldLostAndFound :
    let s (c : PaceCondition) : State := { node with twist := { node.twist with condition := c } }
    (s .tracking).follows = true ∧ (s .holding).follows = true ∧ (s .holding).twist.condition ≠ .tracking ∧
      (s .lost).twist.condition ≠ .holding ∧ (s .lost).follows = true := by decide

theorem witness_SamplerScansAndTakesItsNotices : node.begun = true ∧ node.sampler.position = none ∧
    node.settings.scan[(0 : Fin 8)].mode ≠ .off ∧ node.settings.knot = false ∧ node.convertible 0 = true ∧
    (∀ n : Fin 8, ({ node with settings := Settings.blank } : State).convertible n = false) ∧
    ({ node with sampler := { node.sampler with position := some 7 } } : State).sampler.position ≠ none := by decide

theorem witness_ConversionFiltersAndTrips : let s (n : Fin 8) : State := { node with sampler := { node.sampler with position := some n } }
    let g := node.settings.scan[(0 : Fin 8)]
    (s 0).sampler.position = some 0 ∧ inWindow g 1200 = true ∧ inWindow g 1199 = false ∧ ScanEntry.reset.tripped = false ∧
      1 + 1 < g.filterCount ∧ g.filterCount ≤ 2 + 1 ∧ g.protect = true ∧ (s 0).convertible 1 = true ∧
      ∀ m : Fin 8, 7 < m → (s 7).convertible m = false := by decide

/-- R62: each window mode at its limits. R66: on a KNOT node in sectors S0 and S1, and only there, an entry that is blanked in the tie
starts no conversion. -/
theorem witness_ConversionFiltersAndTrips_modes :
    let s (m : ScanMode) : State := { node with
      settings := { rope with scan := Vector.replicate 8 ⟨2, m, true, true, 3, 1200, 2000⟩ }
      sampler := { node.sampler with position := some 0 } }
    let run (m : ScanMode) (r : BitVec 12) := (after (.conversionComplete r) (s m)).sampler.entries[(0 : Fin 8)].filterRun
    let tie (k : Sector) : State := { shaft 3 k true .idle with
      settings := { net with scan := (s .band).settings.scan.set 7 ⟨2, .off, true, false, 3, 1200, 2000⟩ } }
    let began (u : State) := (after .scanStart u).sampler.position
    (run .low 1199, run .low 1200, run .high 2000, run .high 2001) = (1, 0, 0, 1) ∧
      (run .band 1199, run .band 1200, run .band 2000, run .band 2001) = (1, 0, 0, 1) ∧
      (tie .s0).settings.knot = true ∧ (tie .s0).settings.scan[(0 : Fin 8)].blankInTie = true ∧
      began (tie .s0) = none ∧ began (tie .s1) = none ∧ began (tie .s2) = some 0 ∧ began (tie .s5) = some 0 ∧
      began { tie .s1 with settings := { (tie .s1).settings with knot := false } } = some 0 := by decide +kernel

/-- R61, R64: two entries on one input are converted each in its own turn: the second samples the input itself, not the first's
result. -/
theorem test_entries_on_one_input_sample_it_in_turn :
    let s : State := { node with
      pins := { node.pins with ai := Vector.replicate 8 2000000 }
      sampler := { node.sampler with position := some 0 } }
    (after (.conversionComplete 1500) s).sampler.sampled = 2000 ∧ (after (.conversionComplete 1500) s).sampler.position = some 1 ∧
      (after (.conversionComplete 1500) s).pins = s.pins := by decide

theorem witness_PhaseChangesAreJudged : let s := shaft 3 .s1 true .idle
    s.begun = true ∧ s.settings.knot = true ∧ s.knot.takenCode ≠ some 1 ∧ knotter.knot.takenSector = none ∧ sectorOf 0 = none ∧
      sectorOf 4 = some .s4 ∧ sectorDistance .s1 .s0 = 5 ∧ sectorDistance .s1 .s3 = 2 ∧ sectorDistance .s1 .s5 = 4 := by decide

theorem witness_ForwardStepsRunTheRow :
    (shaft 2 .s2 true .idle).begun = true ∧ (shaft 2 .s2 true .idle).settings.knot = true ∧ sectorOf 6 = some .s3 ∧
      (shaft 2 .s2 true .idle).knot.takenCode ≠ some 6 ∧ (∀ j : Fin 6, sectorDistance
        ([.s0, .s1, .s2, .s3, .s4, .s5][j]) ([.s1, .s2, .s3, .s4, .s5, .s0][j]) = 1) ∧
      (shaft 6 .s3 true .pending).knot.window = .pending ∧ (shaft 6 .s3 true .closed).knot.window = .closed ∧
      (shaft 5 .s5 true .idle).knot.rowValid = true ∧ (shaft 5 .s5 true .idle).knot.runningView = false := by decide

theorem witness_ForwardStepsRunTheRow_rows :
    let m : BitVec 32 := 0x21
    let k : Knot := { (shaft 5 .s5 true .idle).knot with
      runningView := true, rowOutcome := .seen, rowMissed := m, mesh := .opened, meshCounted := 3, meshRun := 1, meshLow := 49000
      history := [⟨1, m, false, false⟩, ⟨2, m, false, false⟩, ⟨3, 0, false, true⟩] }
    let s := knotter.withKnot k
    s.knot.rowValid = true ∧ s.knot.runningView = true ∧ s.settings.meshRows ≤ s.knot.meshCounted + 1 ∧
      (layOf (s.lineLength - s.knot.meshStart) s.settings.meshRows).1 < s.knot.meshLow ∧
      s.settings.meshRunLimit ≤ s.knot.meshRun + 1 ∧ s.settings.meshEscalate = true ∧ s.settings.consecutiveStop = true ∧
      ((k.history ++ [(⟨4, m, false, false⟩ : RowEntry)]).filter (fun e : RowEntry => e.missed.getLsbD 5)).length = s.settings.suspectThreshold ∧
      (k.history.filter (fun e : RowEntry => !e.unseen)).getLast? = some ⟨2, m, false, false⟩ ∧
      s.knot.stats.sampledRows < 4294967295 := by decide

/-- R93: a mesh window of an advance of 0, of one that rounds to 16,777,215 µm a row, and of one that rounds above it. -/
theorem witness_ForwardStepsRunTheRow_clamped :
    let s (l : Int) : State := { knotter.withKnot { (shaft 5 .s5 true .idle).knot with
      runningView := true, rowOutcome := .unseen, mesh := .opened, meshCounted := 3 } with meter := (atLength l).meter }
    let seen (l : Int) := let t := after (.phaseCodeChange 1) (s l)
      (t.meter.flags, t.meter.origin, t.knot.lastMesh)
    seen 0 = (only .unf, .mesh, some 1) ∧ seen 67108861 = (clearFlags, .none, some 16777215) ∧
      seen 67108862 = (only .ovf, .mesh, some 16777215) := by decide +kernel

/-- R78: CH0 in WIDTH mode is triggered at the entry to S3 and captures at each exit from it; the exit to S4 stops CH2 with the window
PENDING or OPEN (R86). -/
theorem witness_ForwardStepsRunTheRow_draw :
    let c (st : ChannelState) (n : BitVec 24) : Channel := { Channel.reset with
      mode := some .width, trigger := .input, input := .inDraw, state := st, count := n, capture := 5 }
    let enters := (shaft 2 .s2 true .idle).setChannel 0 (c .armed 7)
    let leaves (w : WindowState) := (shaft 6 .s3 true w).setChannel 0 (c .running 420)
    let t := after (.phaseCodeChange 6) enters
    let u (w : WindowState) := after (.phaseCodeChange 4) (leaves w)
    t.channel 0 = { c .armed 7 with state := .running, count := 0 } ∧
      (u .closed).channel 0 = { c .armed 0 with capture := 420 } ∧ .drawWidthCapture 420 false ∈ (u .closed).due ∧
      .channelStopRequest 2 ∈ (u .pending).due ∧ .channelStopRequest 2 ∈ (u .opened).due ∧
      (after (.phaseCodeChange 2) (leaves .idle)).channel 0 = { c .armed 0 with capture := 420 } ∧
      (after (.phaseCodeChange 0) ((shaft 6 .s3 true .idle).setChannel 0 (c .running 0xFFFFFF))).due.contains (.drawWidthCapture 0xFFFFFF true) =
        true := by decide +kernel

theorem witness_WindowSamplesTheHeads : knotter.begun = true ∧ knotter.settings.knot = true ∧ 1 ≤ knotter.settings.headFilter ∧
    (shaft 6 .s3 true .pending).knot.window = .pending ∧ (shaft 6 .s3 true .opened).knot.window = .opened ∧
    knotter.settings.fittedHeads.getLsbD 7 = true ∧ knotter.settings.fittedHeads.getLsbD 8 = false := by decide

theorem witness_KnotFiltersCodesAndTakesNotices :
    let w := knotter.setChannel 0 { Channel.reset with mode := some .width, state := .running, input := .inDraw }
    knotter.begun = true ∧ knotter.settings.knot = true ∧ knotter.knot.takenCode ≠ some 4 ∧ knotter.settings.phaseFilter ≠ 0 ∧
      base.phaseFilter = 0 ∧ knotter.knot.candidate ≠ some 4 ∧ (w.channel 0).mode = some .width ∧ (w.channel 0).state = .running ∧
      w.due = [] := by
  decide

/-- A whole frame of station 4 in group 2: its header, and a RESUME of serial 1 with its check. -/
def resumeOf4 : RawFrame :=
  let f : RawFrame := ⟨0x32, 4, 0, 9, [1], 0⟩
  { f with check := crc (frameChecked f) }

theorem witness_FramesAreJudgedInOrder : let f := resumeOf4
    node.startRec.started = true ∧ crc (frameChecked f) = f.check ∧ crc (frameChecked f) ≠ f.check + 1 ∧
      node.startRec.station ≠ 0 ∧ frameSource f ≠ node.startRec.station ∧ frameGroup f = node.settings.group ∧
      frameValid f = true ∧ frameKind f = 3 ∧ frameValid { f with payload := [1, 2] } = false := by decide +kernel

/-- A whole frame of station 4 in group 2 for station 7, of a kind. -/
def frameOf4 (kind : Nat) (payload : List Byte) : RawFrame :=
  let f : RawFrame := ⟨BitVec.ofNat 8 (16 * kind + 2), 4, if kind < 5 then 0 else 7, 9, payload, 0⟩
  { f with check := crc (frameChecked f) }

theorem witness_FramesAreJudgedInOrder_kinds : let zeros (n : Nat) : List Byte := List.replicate n 0
    let frames := [frameOf4 1 ([0x14, 2, 0, 0, 0, 0, 0, 0, 0] ++ zeros 6), frameOf4 2 (2 :: 1 :: zeros 4), frameOf4 3 [1],
      frameOf4 4 ([1, 0, 0, 0, 1] ++ zeros 4), frameOf4 4 ([2, 0, 0, 0, 1] ++ zeros 4), frameOf4 5 ([0, 0, 0, 1] ++ zeros 3),
      frameOf4 6 [3], frameOf4 7 [0, 0, 0, 1, 0], frameOf4 8 [0, 0, 0, 1], frameOf4 9 [0x3C], frameOf4 10 [1], frameOf4 11 [0, 1],
      frameOf4 12 [0xFF], frameOf4 12 (zeros 33), frameOf4 13 [0, 0, 0, 1], frameOf4 14 []]
    (∀ f ∈ frames, crc (frameChecked f) = f.check ∧ frameValid f = true ∧ frameIsReply f = false ∧
      (5 ≤ frameKind f → frameDestination f = node.startRec.station)) ∧
      frames.map frameKind = [1, 2, 3, 4, 4, 5, 6, 7, 8, 9, 10, 11, 12, 12, 13, 14] ∧ node.settings.paceSource = 4 ∧
      rope.follow = true ∧ rope.driftCheck = true ∧
      (presenceOf ([0x14, 2, 0, 0, 0, 0, 0, 0, 0] ++ zeros 6)).pace.isSome = true := by decide +kernel

/-- R180 at the edges of Tables 10-3 to 10-7. -/
theorem witness_FramesAreJudgedInOrder_layouts : let zeros (n : Nat) : List Byte := List.replicate n 0
    let refused := [frameOf4 0 [], frameOf4 15 [], frameOf4 1 (0x04 :: zeros 8), frameOf4 1 (zeros 10), frameOf4 4 (3 :: zeros 8),
      frameOf4 5 ([0, 0, 0, 1, 0, 0xC0, 0] ++ zeros 25), frameOf4 5 ([0, 0, 0, 1, 0, 0x80] ++ zeros 33), frameOf4 6 [], frameOf4 8 [0, 0, 1],
      { frameOf4 3 [1] with h1 := 0x24 }, { frameOf4 3 [1] with h1 := 0 }, { frameOf4 3 [1] with h2 := 7 }, { frameOf4 9 [0] with h2 := 0 },
      { frameOf4 3 [1] with h0 := 0x3A }, { frameOf4 7 (zeros 5) with h0 := 0x7A }]
    let accepted := [frameOf4 1 (0x06 :: zeros 16), frameOf4 5 ([0, 0, 0, 1, 0, 0x80] ++ zeros 26),
      frameOf4 5 ([0, 0, 0, 1, 0, 0x40] ++ zeros 33), { frameOf4 7 (zeros 34) with h0 := 0x7A }, { frameOf4 6 (zeros 40) with h0 := 0x6A }]
    (∀ f ∈ refused, frameValid f = false) ∧ ∀ f ∈ accepted, frameValid f = true := by decide +kernel

theorem witness_ReceiverAndPresenceTimerAct :
    let s : State := { node with line := { node.line with presenceLeft := some 0, rx := .pass } }
    s.startRec.started = true ∧ s.line.presenceLeft = some 0 ∧ s.line.rx = .pass ∧ node.line.rx ≠ .pass ∧
      FrameContent.presence ∉ s.contents ∧ FrameContent.presence ∈ (queued (.fresh .presence) .gap).contents := by decide

theorem witness_ReceiverAndPresenceTimerAct_bytes :
    let s (rx : RxState) (taken : List Byte) (left : Option Nat) (began : Bool) : State := { node with
      line := { node.line with rx := rx, taken := taken, byteLeft := left, began := began, tx := .ready }
      world := { node.world with line := [⟨0, 0xC3, false⟩] } }
    let u := s .check [0x32, 4, 0, 9, 1, 1, 0x7D] (some 1) false
    u.pending = [] ∧ u.due = [] ∧ u.waitingExpiry = none ∧ u.startRec.started = true ∧ u.line.tx ≠ .sending ∧
      u.world.line = ⟨0, 0xC3, false⟩ :: [] ∧ (s .hunt [] none false).line.byteLeft = none ∧ (s .hunt [] (some 1) true).line.began = true ∧
      (u.line.taken ++ [0xC3]).length = 5 + (byteAt (u.line.taken ++ [0xC3]) 4).toNat + 2 ∧
      (s .frame [0x32, 4, 0, 9] (some 1) false).line.taken.length + 1 = 5 ∧ 40 < (0xC3 : Byte).toNat := by decide

/-- R99: in HUNT the sync byte begins a frame also where its stop bit reads low; in FRAME such a byte breaks the frame. -/
theorem test_sync_byte_begins_a_frame_by_its_value :
    let l (rx : RxState) : FloorLine := { node.line with rx := rx, began := true }
    ((l .hunt).rxByte 0xC3 true).1.rx = .frame ∧ ((l .hunt).rxByte 0xC3 true).2 = [] ∧
      ((l .hunt).rxByte 0xC2 false).1.rx = .pass ∧ ((l .frame).rxByte 0xC3 true).2 = [.brokenFrame false] := by decide

theorem witness_WithdrawRequestIsAnswered : let f := QueuedFrame.fresh (.halt 2 1 0)
    let g := { f with onLine := true }
    (∀ h ∈ node.line.queue, isHaltOf 1 h = false) ∧ (queued f .gap).line.queue.find? (isHaltOf 1) = some f ∧ f.onLine = false ∧
      (queued g .sending).line.queue.find? (isHaltOf 1) = some g ∧ g.onLine = true := by decide

theorem witness_TransmitterJoinsAndSends : let s := queued (.fresh .presence) .gap
    s.line.tx = .gap ∧ s.line.queue = .fresh .presence :: [] ∧ (queued (.fresh .presence) .starting).line.tx = .starting ∧
      node.line.queue = [] ∧ node.line.tx ≠ .starting := by decide

/-- R105: an attempt begins at the gap of the head frame, which for a first PRESENCE of station 7 is 40 + 10 × 5 bit times, and
not one bit time before. -/
theorem witness_TransmitterJoinsAndSends_gap :
    let s (idle : Nat) : State := { queued (.fresh .presence) .gap with
      line := { (queued (.fresh .presence) .gap).line with idle := idle }, due := [.attemptBegin] }
    gapOf node.station (.fresh .presence) = 90 ∧ (after .attemptBegin (s 90)).line.tx = .sending ∧
      (after .attemptBegin (s 89)).line = (s 89).line ∧ (after .attemptBegin (s 89)).due = [] := by decide +kernel

/-- R29, R105: a PRESENCE that begins at a negative line length sets RNG where its pace part is published, from GAP and from
STARTING; without a pace part it sets no flag. -/
theorem witness_TransmitterJoinsAndSends_convert :
    let s (tx : TxState) (l : Int) (publish : Bool) : State := { queued (.fresh .presence) tx with
      settings := { rope with pacePublish := publish }
      meter := (atLength l).meter
      line := { (queued (.fresh .presence) tx).line with idle := 90 } }
    let status (s : State) := (s.meter.flags, s.meter.origin, s.line.tx)
    status (after .attemptBegin (s .gap (-1) true)) = (only .rng, .convert, .sending) ∧
      status (after .transmitterJoin (s .starting (-1) true)) = (only .rng, .convert, .sending) ∧
      status (after .attemptBegin (s .gap 0 true)) = (clearFlags, .none, .sending) ∧
      status (after .attemptBegin (s .gap (-1) false)) = (clearFlags, .none, .sending) := by decide +kernel

theorem witness_AttemptsSucceedOrCollide : let f : QueuedFrame := { QueuedFrame.fresh (.halt 2 1 0) with onLine := true, attempts := 7 }
    let g : QueuedFrame := { f with attempts := 6, withdrawn := true }
    (queued f .sending).line.tx = .sending ∧ (queued f .sending).line.queue.find? QueuedFrame.onLine = some f ∧
      f.withdrawn = false ∧ 7 ≤ f.attempts ∧ g.attempts < 7 ∧ (queued g .sending).line.queue.find? QueuedFrame.onLine = some g ∧
      g.withdrawn = true := by decide

theorem witness_AttemptsSucceedOrCollide_readings :
    let s (good : Nat) : State := { queued { QueuedFrame.fresh (.resume 1) with onLine := true } .sending with
      line := { (queued { QueuedFrame.fresh (.resume 1) with onLine := true } .sending).line with
        rx := .check, taken := [0x32, 4, 0, 9, 1, 1, 0x7D], sending := List.replicate 9 0, sendLeft := some 40 }
      world := { node.world with readings := [some ⟨good, 1, false⟩] } }
    (s 8).line.tx = .sending ∧ (s 8).line.bytesEnded = 8 ∧ (s 8).world.readings = some ⟨8, 1, false⟩ :: [] ∧ 8 ≤ (s 8).line.bytesEnded ∧
      (s 8).line.sending[8]? ≠ some 1 ∧ (s 8).collisionReading = ⟨8, 1, false⟩ ∧
      ({ s 8 with world := { node.world with readings := [some ⟨8, 0, false⟩] } } : State).collisionReading = ⟨8, 0xFF, false⟩ ∧
      ((s 8).line.taken ++ [1]).length = 5 + (byteAt ((s 8).line.taken ++ [1]) 4).toNat + 2 := by decide

/-- R99, R106: a sync byte of the node's own attempt whose stop bit reads low is a collision, and begins a frame at its receiver. -/
theorem witness_AttemptsSucceedOrCollide_sync :
    let f : QueuedFrame := { QueuedFrame.fresh (.resume 1) with onLine := true }
    let s (began : Bool) : State := { queued f .sending with
      line := { (queued f .sending).line with rx := .hunt, began := began, sending := List.replicate 9 0xC3, sendLeft := some 320 }
      world := { node.world with readings := [some ⟨0, 0xC3, true⟩] } }
    let t (began : Bool) := after .collision (s began)
    (s true).line.bytesEnded = 1 ∧ (t true).line.rx = .frame ∧ (t true).line.taken = [] ∧ (t true).line.collisions = 1 ∧
      (t false).line.rx = .pass ∧ .receiverEntersPass ∈ (t false).due := by decide +kernel

/-- R106: a byte that reads as it was sent, with its stop bit high, is no collision, whatever the surroundings name. -/
theorem witness_AttemptsSucceedOrCollide_time :
    let s (left : Nat) (r : List (Option Readback)) : State := { queued { QueuedFrame.fresh (.resume 1) with onLine := true } .sending with
      line := { (queued { QueuedFrame.fresh (.resume 1) with onLine := true } .sending).line with
        sending := List.replicate 9 0xC3, sendLeft := some (left + 1) }
      world := { node.world with readings := r } }
    let due (left : Nat) (r : List (Option Readback)) : List Instr := match step (s left r) with
      | .next t => t.due
      | _ => []
    (s 40 []).pending = [] ∧ (s 40 []).due = [] ∧ (s 40 []).waitingExpiry = none ∧ (s 40 []).startRec.started = true ∧
      (s 40 []).line.sendLeft = some (40 + 1) ∧ 40 < 40 * (s 40 []).line.sending.length ∧ 7 + 40 / 40 + 1 = 9 ∧
      .collision ∈ due 40 [some ⟨7, 0xC2, false⟩] ∧ .collision ∈ due 40 [some ⟨7, 0xC3, true⟩] ∧
      .collision ∉ due 40 [some ⟨7, 0xC3, false⟩] ∧ .collision ∈ due 0 [some ⟨8, 0xC2, false⟩] ∧
      .attemptSuccess ∈ due 0 [some ⟨8, 0xC3, false⟩] ∧ .attemptSuccess ∈ due 0 [] := by decide +kernel

theorem witness_PeersAreHeardAndAge : let full := { node with peers := List.replicate 16 (peer 9 0) }
    node.station ≠ 0 ∧ (4 : Station) ≠ node.station ∧ node.peer 4 = none ∧ node.peers.length < 16 ∧
      ({ node with peers := [peer 4 0] } : State).peer 4 = some (peer 4 0) ∧ node.isPaceSource 4 = true ∧ node.follows = true ∧
      16 ≤ full.peers.length ∧ full.peer 5 = none ∧ full.isPaceSource 5 = false ∧ ∀ p ∈ full.peers, p.heard = true := by decide

/-- R110: an ageing step due for an entry that was replaced does not age the entry that its station has later. -/
theorem witness_PeersAreHeardAndAge_cancelled :
    let t := after (.peerListFrame ⟨9, 1, some ⟨0, 1, 0, 0, none, none⟩⟩) { node with due := [.peerAgeing 9, .stop] }
    t.peer 9 = some (peerOf 9 1 ⟨0, 1, 0, 0, none, none⟩) ∧ t.due = [.stop] := by decide

/-- R109: in a full list the SILENT entry unheard for the longest gives way, of equal times that of the lowest station; with none
SILENT the pace source alone takes a place. -/
theorem witness_PeersAreHeardAndAge_full :
    let frame (n : Station) : HeardFrame := ⟨n, 1, some ⟨0, 1, 0, 0, none, none⟩⟩
    let full (silent : Bool) : State := { node with peers := (List.finRange 16).map (fun i =>
      { peer ⟨i.val + 8, by omega⟩ 0 with heard := !(silent && (i.val == 3 || i.val == 5 || i.val == 6))
                                          age := if i.val = 5 ∨ i.val = 6 then 4000999 else 4000000 + i.val }) }
    let stations (n : Station) (silent : Bool) := (after (.peerListFrame (frame n)) (full silent)).peers.map Peer.station
    stations 5 true = [5, 8, 9, 10, 11, 12, 13, 14, 15, 16, 17, 18, 19, 20, 21, 22, 23].filter (· != 11) ∧
      stations 5 false = (full false).peers.map Peer.station ∧
      stations 4 false = [4, 9, 10, 11, 12, 13, 14, 15, 16, 17, 18, 19, 20, 21, 22, 23] := by decide

theorem witness_RaisedCausesActInOrder :
    let r (rest : Bool) := { inPermit .running with meter := { node.meter with atRest := rest } }
    node.begun = true ∧ Cause.lay ∉ node.prot.causes ∧ Cause.lay ∈ (haltedBy .lay).prot.causes ∧ node.line.queue.length < 8 ∧
      node.prot.episode = .quiet ∧ node.prot.permit = .standby ∧ (r true).prot.permit = .running ∧ (r true).meter.atRest = true ∧
      (r false).meter.atRest = false ∧ (haltedBy .lay).prot.permit = .halted ∧ Cause.cutter.groupWide = true ∧
      Cause.paceLost.groupWide = false := by decide

/-- R102: a HALT handed to a queue of 8 takes the place of the youngest routine frame not on the line; with none it is discarded
and LINE is to be raised. -/
theorem witness_RaisedCausesActInOrder_full :
    let s (q : List QueuedFrame) : State := { node with line := { node.line with queue := q, tx := .sending } }
    let sent : QueuedFrame := { QueuedFrame.fresh (.resume 9) with onLine := true }
    let halts (n : Nat) := List.replicate n (QueuedFrame.fresh (.halt 2 1 0))
    let t := after .stop (s (halts 5 ++ [.fresh (.resume 1), .fresh (.resume 2), sent]))
    let u := after .stop (s (halts 7 ++ [sent]))
    t.contents = List.replicate 5 (.halt 2 1 0) ++ [.halt 1 1 0, .resume 1, .resume 9] ∧ t.line.overruns = 1 ∧
      u.contents = List.replicate 7 (.halt 2 1 0) ++ [.resume 9] ∧ u.line.overruns = 1 ∧ .raiseCause .lineFailed ∈ u.due := by decide

/-- R29, R126: the HALT of a group-wide cause at a negative line length sets RNG; another cause, and a length of 0, set no flag. -/
theorem witness_RaisedCausesActInOrder_convert :
    let seen (c : Cause) (l : Int) := let t := after (.raiseCause c) (atLength l)
      (t.meter.flags, t.meter.origin, t.contents)
    Cause.paceLost.groupWide = false ∧ Cause.lay.groupWide = true ∧
      seen .lay (-1) = (only .rng, .convert, [.halt Cause.lay.byte 1 0]) ∧
      seen .lay 0 = (clearFlags, .none, [.halt Cause.lay.byte 1 0]) ∧ seen .paceLost (-1) = (clearFlags, .none, []) := by
  decide +kernel

theorem witness_ClearedCausesActInOrder : let s := haltedBy .lay
    Cause.lay ∈ s.prot.causes ∧ Cause.knot ∉ s.prot.causes ∧ s.prot.permit = .halted ∧ (∀ d ∈ s.prot.causes, d = .lay) ∧
      s.prot.table = [] ∧ s.prot.eligible = false ∧ Cause.lay.groupWide = true ∧
      ({ s with prot := { s.prot with episode := .standing } } : State).prot.episode = .standing ∧
      ({ s with prot := { s.prot with eligible := true, coilHold := true } } : State).prot.coilHold = true := by decide

/-- R128: with two group-wide causes the first that goes leaves the episode STANDING. -/
theorem witness_ClearedCausesActInOrder_two :
    let s : State := { node with prot := { node.prot with permit := .halted, causes := [.lay, .strand], episode := .standing, serial := 3 } }
    Cause.strand ∈ s.prot.causes ∧ Cause.strand ≠ .lay ∧ Cause.strand.groupWide = true ∧
      (after (.clearCause .lay) s).prot.episode = .standing ∧
      (after (.clearCause .strand) (after (.clearCause .lay) s)).prot.episode = .closing := by decide

theorem witness_StartRunsOrIsRefused : let s := { node with peers := [peer 4 0] }
    s.prot.permit = .standby ∧ s.prot.causes = [] ∧ s.prot.table = [] ∧ s.prot.coilHold = false ∧
      (∀ p ∈ s.peers, p.station.val = s.settings.paceSource ∧ p.heard = true) ∧ node.settings.follow = true ∧ node.peers = [] ∧
      (haltedBy .operator).prot.causes = [.operator] ∧ (haltedBy .operator).prot.eligible = false ∧
      (haltedBy .lay).prot.permit = .halted ∧ Cause.operator ∉ (haltedBy .lay).prot.causes ∧
      (inPermit .running).prot.permit = .running ∧ (inPermit .halting).prot.permit = .halting := by decide

/-- R114: the pattern that the lamp shows is the decided one, at the reset, in STANDBY, and in HALTED by a latching cause. -/
theorem witness_StartRunsOrIsRefused_pattern : decidedPattern State.reset = State.reset.prot.lamp.pattern ∧
    decidedPattern node = node.prot.lamp.pattern ∧ decidedPattern (haltedBy .lay) = .steady ∧ Cause.lay.latching = true ∧
    decidedPattern (haltedBy .paceLost) = .flashing ∧ (∃ t, step node = .next t) := ⟨rfl, rfl, rfl, rfl, rfl, _, rfl⟩

theorem witness_AlarmResetAndHaltTimerAct : (haltedBy .tension).prot.permit ≠ .running ∧ (haltedBy .tension).prot.permit ≠ .unset ∧
    Cause.tension ∈ (haltedBy .tension).prot.causes ∧ (inPermit .running).prot.permit = .running ∧
    (inPermit .halting).prot.permit = .halting ∧ (inPermit .halting).prot.causes = [] ∧ (inPermit .halting).prot.table = [] := by decide

/-- R119, R123, R128: an ALARM-RESET that takes the last reason, by what the machine may resume to, and the episode that closes. -/
theorem witness_AlarmResetAndHaltTimerAct_last :
    let s (eligible hold : Bool) (l : List Cause) : State := { node with prot := { node.prot with
      permit := .halted, causes := l, eligible := eligible, coilHold := hold, episode := .standing, serial := 3 } }
    let t (eligible hold : Bool) (l : List Cause) := (after .alarmReset (s eligible hold l)).prot
    (t false false [.lay]).permit = .standby ∧ (t true false [.lay]).permit = .running ∧ (t true true [.lay]).permit = .halted ∧
      (t true false [.lay]).episode = .closing ∧ (t true false [.lay]).outstanding = 1 ∧ (t true false [.lay, .tension]).permit = .halted ∧
      Cause.tension.groupWide = true ∧ (t true false [.lay, .tension]).episode = .standing ∧ Cause.lay.groupWide = true := by decide

theorem witness_WithdrawAnswersEndTheEpisode :
    let s (n : Nat) : State := { node with prot := { node.prot with episode := .closing, serial := 5, outstanding := n } }
    0 < (s 1).prot.outstanding ∧ (s 1).prot.outstanding = 1 ∧ (s 1).prot.episode = .closing ∧ 0 < (s 2).prot.outstanding ∧
      (s 1).prot.sentSerial = none := by decide

theorem witness_HaltTableFollowsTheLine : let e : HaltEntry := ⟨4, 2, 1, none, false⟩
    let s : State := { node with prot := { node.prot with table := [e] } }
    s.begun = true ∧ s.station ≠ 0 ∧ (4 : Station) ≠ 0 ∧ (4 : Station) ≠ s.station ∧ s.haltOf 4 = some e ∧ e.serial = 1 ∧ e.serial ≠ 2 ∧
      node.haltOf 4 = none ∧ node.prot.permit = .standby := by decide

theorem witness_HoldAndSupplyAreWatched : node.begun = true ∧ node.prot.supplyWarning = false ∧
    ({ node with prot := { node.prot with permit := .halted, eligible := true, coilHold := true } } : State).prot.permit = .halted ∧
    Cause.supply ∉ node.prot.causes := by decide

theorem witness_RunningOpensACoil : node.begun = true ∧ node.settings.coil = true ∧ node.coil.openSlot = none ∧
    node.coil.next = some 1 ∧ ({ node with coil := { node.coil with next := none } } : State).coil.next = none ∧
    (slots (some (record .opened)) none none).coil.openSlot = some (record .opened) ∧ Settings.blank.coil = false := by decide

/-- R29, R138: a coil that opens at a negative line length (log entry 45), and one at 0. -/
theorem witness_RunningOpensACoil_convert :
    let seen (l : Int) := let t := after .coilRunningEntry (atLength l)
      (t.meter.flags, t.meter.origin, t.coil.openSlot.map CoilRecord.startLength)
    (atLength (-1)).lineLength < 0 ∧ seen (-1) = (only .rng, .convert, some 0) ∧ seen 0 = (clearFlags, .none, some 0) := by
  decide +kernel

theorem witness_CutsBeginAtRest : let s (st : RecordState) := slots (some (record st)) none none
    (s .opened).begun = true ∧ (s .opened).settings.coil = true ∧ (s .opened).coil.openSlot = some (record .opened) ∧
      (s .opened).prot.permit ≠ .running ∧ (s .opened).cutMayStart = true ∧
      (slots (some (record .ending)) (some (record .gathering)) none).cutMayStart = false ∧
      ((s .cutting).channel 7).state = .idle ∧ (s .cutting).due = [] ∧
      (let c : Channel := { Channel.reset with mode := some .pulse, state := .driving }
       (((s .cutting).setChannel 7 c).channel 7).state = .driving ∧ c.mode = some .pulse ∧ c.trigger = .owner) := by decide

/-- R142: a cut waits for rest and for the end of a gathering; a SEALING record does not hold it. -/
theorem witness_CutsBeginAtRest_waits :
    let s (rest : Bool) (c : Option CoilRecord) : State := { slots (some (record .opened)) c none with
      meter := { node.meter with atRest := rest } }
    let t (rest : Bool) (c : Option CoilRecord) := (after .cutRequest (s rest c)).coil
    node.meter.atRest = true ∧ (t true none).openSlot.map CoilRecord.state = some .cutting ∧
      (t true (some (record .sealing))).openSlot.map CoilRecord.state = some .cutting ∧
      (t true (some (record .gathering))).openSlot.map CoilRecord.state = some .ending ∧
      (t false none).openSlot.map CoilRecord.state = some .ending ∧ (t false none).restLeft = some 100000 := by decide +kernel

theorem witness_CutDoneClosesTheCoil : let s := slots (some (record .cutting)) none none
    s.begun = true ∧ s.settings.coil = true ∧ s.coil.openSlot = some (record .cutting) ∧
      (record .cutting).contributors = [ownContributor s.station] ∧ (record .cutting).state = .cutting ∧ s.coil.closingSlot = none ∧
      (slots (some (record .cutting)) (some (record .gathering)) none).coil.closingSlot ≠ none ∧ s.coil.next = some 419 ∧
      s.line.queue.length < 8 := by decide

/-- R30, R36: a negative segment, with the record waiting, gathering, and sealed at once on a node that no part is expected for. -/
theorem witness_CutDoneClosesTheCoil_convert :
    let s (g : Settings) (start : Int) (c : Option CoilRecord) : State :=
      { slots (some { record .cutting with startMicrometres := start }) c none with settings := g }
    let status (u : State) := (u.meter.flags, u.meter.origin)
    let closing (u : State) := u.coil.closingSlot.map (fun q => (q.state, q.flags))
    let t (g : Settings) (start : Int) (c : Option CoilRecord) := after .cutDone (s g start c)
    (s rope 1 none).peers = [] ∧ base.twist = false ∧ base.knot = false ∧
      status (t rope 1 (some (record .sealing))) = (only .rng, .convert) ∧ status (t rope 0 (some (record .sealing))) = (clearFlags, .none) ∧
      status (t rope 1 none) = (only .rng, .convert) ∧ status (t rope 0 none) = (clearFlags, .none) ∧
      closing (t rope 1 none) = some (.gathering, clearFlags) ∧ closing (t base 1 none) = some (.sealing, only .rng) ∧
      status (t base 1 none) = (clearFlags, .none) ∧ closing (t base 0 none) = some (.sealing, clearFlags) := by decide +kernel

/-- A TALLY for a coil, with nothing in it. -/
def tallyFor (coil : BitVec 32) : Tally := ⟨coil, 0, clearFlags, 0, none, none⟩

theorem witness_TalliesAreGathered :
    let r := { record .gathering with contributors := [ownContributor 7, { ownContributor 3 with listed := true }] }
    let s := slots none (some r) none
    s.begun = true ∧ s.settings.coil = true ∧ s.coil.closingSlot = some r ∧ r.state = .gathering ∧ (tallyFor 418).coil.toNat = r.coil ∧
      (tallyFor 417).coil.toNat ≠ r.coil ∧ s.coil.openSlot = none ∧ (gatherTally 3 (tallyFor 418) r).gathered = false ∧
      (gatherTally 3 (tallyFor 418) { r with contributors := [ownContributor 3] }).gathered = true ∧ r.contributors.length < 15 ∧
      r.contributors.find? (fun c => c.station == 20) = none ∧ 15 ≤ (List.replicate 15 (ownContributor 3)).length := by decide

/-- R150: a tally is late with the CLOSING slot empty, with its record SEALING, and for another coil. -/
theorem witness_TalliesAreGathered_late :
    let late (c : Option CoilRecord) (o : CoilRecord) := (after (.tallyReceived 3 (tallyFor 418)) (slots (some o) c none)).coil
    let q := { record .opened with coil := 419 }
    ∀ c ∈ [none, some (record .sealing), some { record .gathering with coil := 417 }],
      (late c q).openSlot = some { q with lateCount := 1 } ∧ (late c { q with state := .sealing }).openSlot = some { q with state := .sealing } := by
  decide

theorem witness_TalliesAreGathered_parts :
    let r := { record .gathering with contributors := [ownContributor 7], awaitTwist := true, awaitKnot := true }
    let s := slots (some { record .ended with coil := 419 }) (some r) none
    let u : TwistTotals := ⟨10, 2, 3, 1, some 5, some 9, some 7⟩
    s.coil.openSlot = some { record .ended with coil := 419 } ∧ 419 ≠ r.coil ∧ r.coil < 4294967296 ∧ u.stalled ≤ u.windows ∧
      (takeOwnPart 7 (.twist u) r).gathered = false ∧ (takeOwnPart 7 (.twist u) { r with awaitKnot := false }).gathered = true ∧
      (∃ c ∈ r.contributors, c.status = .expected) ∧ s.settings.pacePublish = false := by decide

/-- R142: the end of a gathering starts the cut of a record that waits in ENDING, where the line is at rest. -/
theorem witness_TalliesAreGathered_cut :
    let s (rest : Bool) : State := { slots (some { record .ending with coil := 419 }) (some (record .gathering)) none with
      meter := { node.meter with atRest := rest } }
    let t (rest : Bool) := after .tallyWaitExpiry (s rest)
    (s true).coil.openSlot = some { record .ending with coil := 419 } ∧ (t true).coil.openSlot = some { record .cutting with coil := 419 } ∧
      .channelStartRequest 7 (cutStart rope) ∈ (t true).due ∧ (t false).coil.openSlot = (s false).coil.openSlot := by decide +kernel

theorem witness_ReasonsAndSplicesAreLogged : let s := slots (some (record .opened)) none none
    s.begun = true ∧ s.settings.coil = true ∧ s.coil.openSlot = some (record .opened) ∧ (record .opened).state.logs = true ∧
      (record .sealing).state.logs = false ∧ s.station = 7 ∧ s.prot.permit ≠ .running ∧ (13 : Byte).toNat ≤ 13 ∧ 13 < (14 : Byte).toNat ∧
    s.lineLength < ({ record .opened with startMicrometres := 1 } : CoilRecord).startMicrometres ∧ (record .opened).halts.length < 8 ∧
    8 ≤ (List.replicate 8 (⟨2, 3, 0, true⟩ : HaltNote)).length ∧ 0 ≤ s.lineLength ∧ s.settings.pacePublish = false := by
  decide

/-- R29, R30: an offset before the coil's start that is taken, one that is not, and the MARK of a splice at a negative length. -/
theorem witness_ReasonsAndSplicesAreLogged_convert :
    let s (start : Int) (n : Nat) : State := slots (some { record .opened with
      startMicrometres := start, halts := List.replicate n ⟨2, 3, 0, true⟩, splices := List.replicate n 0 }) none none
    let status (c : Instr) (u : State) := ((after c u).meter.flags, (after c u).meter.origin)
    status .splice (s 1 7) = (only .rng, .convert) ∧ status .splice (s 1 8) = (clearFlags, .none) ∧
      status .splice (s 0 7) = (clearFlags, .none) ∧ status .splice (reversed (s (-1) 7)) = (only .rng, .convert) ∧
      status (.reasonNotice 2 3 true) (s 1 7) = (only .rng, .convert) ∧ status (.reasonNotice 2 3 true) (s 1 8) = (clearFlags, .none) ∧
      status (.markSpliceReceived 3) (s 1 7) = (only .rng, .convert) := by decide +kernel

theorem witness_MarkCutFormsATally :
    let s : State := { node with settings := { rope with coil := false }, coil := { node.coil with tally := { node.coil.tally with begun := true } } }
    s.begun = true ∧ s.settings.coil = false ∧ s.coil.forming = [] ∧ s.coil.tally.begun = true ∧ s.settings.twist = true ∧
      s.coil.tally.startLength ≤ s.lineLength ∧ node.coil.tally.begun = false := by decide

/-- R30, R36: a segment that is negative, with parts to wait for and with none. -/
theorem witness_MarkCutFormsATally_convert :
    let s (g : Settings) (start : Int) : State := { node with
      settings := { g with coil := false }
      coil := { node.coil with tally := { node.coil.tally with begun := true, startLength := start } } }
    let t (g : Settings) (start : Int) := after (.markCutReceived 3 418) (s g start)
    let empty (f : ArithFlags) (o : Byte) : Tally := { tallyFor 418 with flags := f, origin := o }
    let convert : Byte := BitVec.ofNat 8 Origin.convert.code
    (s rope 1).lineLength < (s rope 1).coil.tally.startLength ∧ base.twist = false ∧ base.knot = false ∧
      (t rope 1).coil.forming = [⟨3, empty (only .rng) convert, true, false⟩] ∧
      (t rope 0).coil.forming = [⟨3, empty clearFlags 0, true, false⟩] ∧
      (t base 1).contents = [.tally 3 (empty (only .rng) convert)] ∧ (t base 1).meter.flags = clearFlags := by decide +kernel

theorem witness_MarkCutFormsATally_parts : let f (twist knot : Bool) : FormingTally := ⟨11, tallyFor 418, twist, knot⟩
    let s : State := { node with settings := { rope with coil := false }, coil := { node.coil with forming := [f false true] ++ f true false :: [] } }
    s.begun = true ∧ s.settings.coil = false ∧ (∀ g ∈ [f false true], g.needTwist = true ∨ g.needKnot = true) ∧
      (f true false).needTwist = true ∧ (∀ g ∈ [f false true], g.needTwist = false) ∧ (f true true).needKnot = true := by decide

theorem witness_KeepReportsEmptyTheSlots : let r := record .sealing
    r.coil = (418 : BitVec 32).toNat ∧ r.state = .sealing ∧ (slots none (some r) none).coil.closingSlot = some r ∧
      (slots none (some r) none).coil.heldSlot.all (fun q => q.coil != (418 : BitVec 32).toNat) = true ∧
      (slots (some r) none (some { record .held with coil := 417 })).coil.heldSlot.all (fun q => q.coil != (418 : BitVec 32).toNat) = true ∧
      (slots (some { record .ended with coil := 419 }) (some r) none).coil.openSlot = some { record .ended with coil := 419 } := by decide

theorem witness_KeepReportsEmptyTheSlots_held :
    let h := { record .held with coil := 417 }
    let back := { record .sealing with heldBack := true }
    let s := slots (some { record .ended with coil := 419 }) (some back) (some h)
    h.coil = (417 : BitVec 32).toNat ∧ h.state = .held ∧ s.coil.heldSlot = some h ∧ s.coil.closingSlot = some back ∧
      back.heldBack = true ∧ s.recordKept back = false ∧ (slots (some back) none (some h)).coil.openSlot = some back ∧
      (slots (some back) none (some h)).coil.closingSlot = none ∧ (slots none none (some h)).coil.openSlot = none := by decide

theorem witness_SupplySealsAndQuestionsAreAnswered : let s (st : RecordState) := slots (some (record st)) (some { record .gathering with coil := 417 }) none
    (s .cutting).begun = true ∧ (s .cutting).settings.coil = true ∧ (s .cutting).coil.openSlot = some (record .cutting) ∧
      (s .ended).coil.openSlot = some (record .ended) ∧ (s .sealing).coil.closingSlot = some { record .gathering with coil := 417 } := by
  decide

/-- R30, R36, R155: a coil in the making with a negative segment is sealed with RNG, and the status is cleared; on a KNOT node the
knot monitor is asked. -/
theorem witness_SupplySealsAndQuestionsAreAnswered_asks :
    let s : State := slots (some { record .opened with startMicrometres := 1 }) none none
    let k : State := { s with settings := net, twist := .reset, knot := knotter.knot }
    let t := after .supplyNotice s
    let u := after .supplyNotice k
    net.knot = true ∧ net.coil = true ∧ .knotSegmentRequest 418 ∈ u.due ∧ .twistSegmentRequest 418 ∉ u.due ∧
      .twistSegmentRequest 418 ∈ t.due ∧ (t.coil.openSlot.map (fun q => (q.state, q.flags))) = some (.sealing, only .rng) ∧
      t.meter.flags = clearFlags ∧ s.lineLength = 0 := by decide +kernel

/-- A node whose open record's store operation is in flight. -/
def keeping (a : Option Nat) (op : StoreOp) (step : StoreStep) : State :=
  storing op step (slots (some { record .sealing with anchor := a }) none none)

/-- A node whose sealing record, anchored at sector 16, has an operation in flight over a memory. -/
def tearing (op : StoreOp) (step : StoreStep) (m : Memory) : State := { keeping (some 16) op step with memory := m }

set_option maxRecDepth 4000 in
/-- R158, R163, R171: a reset that finds a header, a VOID-MARK, an erase or no step of its own in flight. -/
theorem witness_ResetReturnsEveryBlock_torn :
    let header := Memory.burnAll [] [] 4096 (headerBytes (record .sealing))
    let image := headerBytes (record .sealing)
    Memory.wf header = true ∧ image.length = 32 ∧
      tornMemory ⟨[], 0, 0xFF⟩ (tearing (.programHeader 418 image) .nothing []) = [] ∧
      tornMemory ⟨[], 0, 0⟩ (tearing (.checkRange 16 17 9) .work header) = header ∧
      Memory.read (tornMemory ⟨[], 0, 0⟩ (tearing (.keep 418) (.void 16) header)) 4351 = 0 ∧
      tornMemory ⟨[], 32, 0⟩ (tearing (.programHeader 418 image) (.program 16) []) = header ∧
      classify (tornMemory ⟨[], 5, 0⟩ (tearing (.programHeader 418 image) (.program 16) [])) 16 = .damaged ∧
      classify (tornMemory ⟨[(4096, 0xFF)], 0, 0⟩ (tearing (.eraseBank 1 9) .work header)) 16 = .damaged := by decide +kernel

set_option maxRecDepth 4000 in
/-- R171: a body cut short below its last byte and in it. -/
theorem witness_ResetReturnsEveryBlock_body :
    let header := Memory.burnAll [] [] 4096 (headerBytes (record .sealing))
    let r := { record .sealing with anchor := some 16 }
    let found (torn : Torn) := classify (tornMemory torn (tearing (.keep 418) (.program 16) header)) 16
    r ∈ (tearing (.keep 418) (.program 16) header).records ∧ r.anchor = some 16 ∧ (bodyBytes r).length = 224 ∧
      classify header 16 = .openOnly ∧ found ⟨[], 222, 0⟩ = .openOnly ∧ found ⟨[], 223, 0x80⟩ = .damaged := by decide +kernel

theorem witness_HeadersAndBodiesAreProgrammed : let image := headerBytes (record .opened)
    let s := keeping (some 16) (.keep 418) (.program 16)
    s.memory.wf ∧ s.store.full = false ∧ s.store.table.length = 240 ∧ s.coil.openSlot = some { record .sealing with anchor := some 16 } ∧
      s.records = [{ record .sealing with anchor := some 16 }] ∧ (∀ q ∈ s.records, q.coil = 418 → q = { record .sealing with anchor := some 16 }) ∧
      image.length = 32 ∧ (bodyBytes (record .sealing)).length = 224 ∧
      (recordBytes (record .sealing)).length = 256 ∧
      (keeping none (.programHeader 418 image) (.program 255)).store.inFlight = some ⟨.programHeader 418 image, .program 255, false, 0⟩ ∧
      (keeping none (.programHeader 418 image) (.erase 15 1)).store.inFlight = some ⟨.programHeader 418 image, .erase 15 1, false, 0⟩ ∧
      s.store.inFlight = some ⟨.keep 418, .program 16, false, 0⟩ := by decide +kernel

/-- R161: records in three slots, and what is left to write of each; the HELD one goes before a seal. -/
theorem witness_HeadersAndBodiesAreProgrammed_slots :
    let h := { record .held with coil := 417 }
    let r := { record .gathering with anchor := some 17 }
    let s := slots (some { record .opened with coil := 419, anchor := some 18 }) (some r) (some h)
    (∀ q ∈ s.records, q.coil = r.coil → q = r) ∧ (∀ q ∈ s.records, q ≠ r → q.anchor ≠ some 17) ∧ r ∈ s.records ∧ s.recordKept h = false ∧
      StoreOp.keep 417 ∉ s.store.waiting ∧ r.state = .gathering ∧ s.store.inFlight = none ∧ s.store.waiting = [] ∧
      (after .tallyWaitExpiry s).store.waiting = [.keep 418] ∧
      ((after .tallyWaitExpiry s).store.inFlight.map InFlight.op) = some (.keep 417) := by decide +kernel

/-- R161: a completion that clears FULL offers the HELD record. -/
theorem witness_HeadersAndBodiesAreProgrammed_full :
    let s := slots none none (some { record .held with coil := 417 })
    let u (e : SectorEntry) : State := { s with store := { s.store with
      full := true, table := List.replicate 240 e, waiting := [.keep 418], inFlight := some ⟨.checkRange 0 0 9, .work, false, 0⟩ } }
    let kept := after .checkComplete (u ⟨.void, 7, 2, false⟩)
    kept.store.full = false ∧ kept.store.waiting = [.keep 418] ∧ (kept.store.inFlight.map InFlight.op) = some (.keep 417) ∧
      (after .checkComplete (u ⟨.sealed, 7, 2, false⟩)).store.full = true := by decide +kernel

/-- R165, R171: of an erase cut short, bytes that would show a sector otherwise than ERASED, DAMAGED or unchanged leave it as it was, and
so do bits of a VOID-MARK that would make another known marker. -/
theorem test_torn_steps_leave_what_the_rules_say :
    let m := Memory.burn (Memory.burnAll [] [] 4096 (headerBytes (record .opened))) [] 4351 sealedMarker
    let erase (l : List (Nat × Byte)) := tearErase m ⟨l, 0, 0⟩ 1
    erase [(4351, 0xFF)] = m ∧ (scanEntry (erase [(4351, 0xFF), (4097, 0xFF)]) 16).cls = .damaged ∧
      (tearVoid m ⟨[], 0, 0x5C⟩ 16).read 4351 = sealedMarker ∧ (tearVoid m ⟨[], 0, 0x10⟩ 16).read 4351 = 0x10 &&& sealedMarker := by
  decide +kernel

/-- A ring of which sector 16 holds a collected record, and the rest of bank 1 voided ones. -/
def spentBank (pointer : Nat) : State := { node with
  store := { node.store with
    pointer := pointer
    table := ⟨.sealed, 7, 1, true⟩ :: List.replicate 15 ⟨.void, 7, 2, false⟩ ++ List.replicate 224 .blank } }

theorem witness_HeadersAndBodiesAreProgrammed_search : node.begun = true ∧ node.settings.coil = true ∧ node.coil.openSlot = none ∧
    node.coil.next = some 1 ∧ node.store.inFlight = none ∧ node.store.waiting = [] ∧ node.store.pointer = 16 ∧
    (∀ i, i < 16 → node.sectorClass (16 * 1 + i) = .erased) ∧ (spentBank 33).sectorClass 33 = .erased ∧
    (spentBank 16).sectorClass 16 ≠ .erased ∧ (spentBank 16).bankErasable 1 = true ∧
    ({ spentBank 16 with store := { (spentBank 16).store with table := List.replicate 240 ⟨.sealed, 7, 1, false⟩ } } : State).bankErasable 1 =
      false := by decide +kernel

/-- A keep of an unanchored record that fails at sector 16, with the pointer at sector 17. -/
def failing (retry : Bool) : State := { node with
  memory := [(4096, 0)]
  coil := (slots (some (record .sealing)) none none).coil
  store := { node.store with pointer := 17, inFlight := some ⟨.keep 418, .program 16, retry, 0⟩ } }

set_option maxRecDepth 4000 in
/-- R163, R164: a keep that has failed searches again for its retry. -/
theorem test_keep_is_retried : let x := endStep [] ⟨.keep 418, .program 16, false, 0⟩ (failing false)
    x.2 = .next (.void 16) false ∧ x.1.store.addressErrors = 1 ∧
      (endStep [] ⟨.keep 418, .void 16, false, 0⟩ x.1).2 = .next (.program 17) true := by decide +kernel

set_option maxRecDepth 4000 in
/-- R164: a retry that fails sets FAULT, and the record is reported not kept. -/
theorem test_second_failure_sets_fault : (after (.keepComplete []) (failing true)).store.fault = true ∧
    (after (.keepComplete []) (failing true)).due = [.keepReport 418 false] := by decide +kernel

theorem witness_HeadersAndBodiesAreProgrammed_bytes : (∀ i, i < 32 → State.reset.memory.read (256 * 16 + i) = 0xFF) ∧
    (∀ i, 32 ≤ i → i < 256 → State.reset.memory.read (256 * 255 + i) = 0xFF) ∧ Memory.read [(4096, 0)] (256 * 16 + 0) ≠ 0xFF :=
  ⟨fun _ _ => by simp [State.reset, Memory.read, erasedByte], fun _ _ _ => by simp [State.reset, Memory.read, erasedByte], by decide⟩

/-- R137: a record that fits, with every list at its bound. -/
theorem witness_HeadersAndBodiesAreProgrammed_fits : RecordFits { record .sealing with
    halts := List.replicate 8 ⟨2, 3, 0, true⟩, splices := List.replicate 8 0, contributors := List.replicate 15 (ownContributor 3) } := by
  unfold RecordFits; decide

set_option maxRecDepth 4000 in
/-- R163: a byte that reads back otherwise than written, of a header (a DATA-ERROR and a VOID-MARK) and of a body. -/
theorem witness_HeadersAndBodiesAreProgrammed_wear :
    let r := { record .sealing with anchor := some 16 }
    let image := headerBytes r
    let h := keeping none (.programHeader 418 image) (.program 255)
    let k := { keeping (some 16) (.keep 418) (.program 16) with
      memory := Memory.burnAll [] [] 4096 image, store := { (keeping (some 16) (.keep 418) (.program 16)).store with pointer := 17 } }
    let t := after (.programHeaderComplete [(65280, 0)]) h
    (0 : Byte) ≠ byteAt image 0 ∧ t.store.dataErrors = 1 ∧ t.memory.read 65535 = 0 ∧ t.memory.read 65280 = 0 ∧
      (1 : Byte) ≠ byteAt (bodyBytes r) 0 ∧ Memory.wf k.memory = true ∧ k.sectorClass 17 = .erased ∧ (∀ q ∈ k.records, q ≠ r → q.anchor ≠ some 16) ∧
      (k.memory.readRange 4128 224).all (· == 0xFF) = true ∧ (recordBytes r).length = 256 := by decide +kernel

theorem witness_StoreOperationsAreAnswered :
    let s (op : StoreOp) := storing op .work node
    (s (.eraseBank 15 9)).store.inFlight = some ⟨.eraseBank 15 9, .work, false, 0⟩ ∧ node.store.full = false ∧
      node.store.table.length = 240 ∧ node.line.queue.length < 8 ∧ node.memory.wf ∧
      (∀ p ∈ node.markList 418, node.memory.read (256 * p + 16) = 0xFF) ∧ node.recallSector 418 = none ∧
      (storing (.commit (List.replicate 256 0) 9) (.erase 0 1) node).store.inFlight =
        some ⟨.commit (List.replicate 256 0) 9, .erase 0 1, false, 0⟩ ∧
      (storing (.lostRecord 255) (.program 255) node).store.inFlight = some ⟨.lostRecord 255, .program 255, false, 0⟩ ∧
      node.store.scanLeft = [] := by decide +kernel

theorem witness_StoreOperationsAreAnswered_marks :
    let s : State := { node with store := { node.store with table := node.store.table.set 239 ⟨.sealed, 7, 418, false⟩ } }
    s.markList 418 = [255] ∧ s.recallSector 418 = some 255 := by decide +kernel

set_option maxRecDepth 4000 in
/-- R168, R170: the ring from the pointer's sector, with the sector that comes last in it holding the coil. -/
theorem witness_StoreOperationsAreAnswered_ring :
    let ring := (List.range 240).map (fun i => 16 + (255 - 16 + i) % 240)
    let s : State := { node with store := { node.store with pointer := 255, table := node.store.table.set 238 ⟨.sealed, 7, 418, false⟩ } }
    ring = [255] ++ List.range' 16 238 ++ [254] ∧ 16 ≤ s.store.pointer ∧ s.store.pointer ≤ 255 ∧ s.sectorClass 254 = .sealed ∧
      (s.sectorEntry 254).coil = 418 ∧ (∀ p ∈ ring, p ≠ 254 → (s.sectorEntry p).coil ≠ 418) ∧
      (node.sectorClass 16 ≠ .sealed ∧ node.sectorClass 16 ≠ .lost) := by decide +kernel

/-- R163, R165, R168, R183: bytes that fail in a bank, at a collected byte and in sector 0. -/
theorem witness_StoreOperationsAreAnswered_fails :
    List.lookup 65296 [(65296, (1 : Byte))] = some 1 ∧ List.lookup 65295 [(65296, (1 : Byte))] = none ∧ 4096 * 15 ≤ 65296 ∧
      65296 < 4096 * 15 + 4096 ∧ 256 * 255 + 16 = 65296 ∧ node.memory.read 65296 = 0xFF ∧ (1 : Byte) ≠ 0xFF ∧
      byteAt (List.replicate 256 0) 255 ≠ 0xFF := by decide +kernel

/-- R163, R172: a header over a body that reads erased, and over one that does not. -/
theorem witness_StoreOperationsAreAnswered_lost :
    let header := Memory.burnAll [] [] 65280 (headerBytes (record .opened))
    Memory.wf header = true ∧ headerValid header 255 = true ∧ bodyErased header 255 = true ∧
      Memory.read (header ++ [(65400, 1)]) 65400 ≠ 0xFF ∧ Memory.read (header ++ [(65400, 1)]) 65535 = 0xFF ∧
      byteAt ([4] ++ List.replicate 14 0) 0 ≠ 0xFF ∧ (node.recallSector 418 = none ∧ node.store.waiting = []) := by decide +kernel

/-- R168: a reset during a COLLECTED run leaves the sectors gone through marked and the rest as they were. -/
theorem test_torn_marks_leave_the_rest :
    (tearMarks [] ⟨[], 1, 0x10⟩ [16, 17]) = [(4112, 0)] ∧ tearMarks [] ⟨[], 0, 0x10⟩ [16, 17] = [] := by decide +kernel

theorem witness_KeyFollowsItsTable : node.startRec.started = true ∧ node.startRec.station ≠ 0 ∧ node.begun = true ∧
    (keyed .half (some 9)).store.keyStation = some 9 ∧ (keyed .half (some 9)).store.keyStation ≠ some 8 ∧
    (keyed .opened (some 9)).store.key = .opened ∧ (keyed .frozen none).store.key = .frozen ∧
    ∃ t, exec .stop (keyed .frozen none) = .next t := ⟨by decide, by decide, by decide, rfl, by decide, rfl, rfl, _, rfl⟩

/-- A settings image of a node of group 2 with METER alone: encoder A of 2.1, scan period 10 ms, halt timeout 10 s. -/
def meterImage : List Byte :=
  [0x31, 2, 0, 0, 0, 0, 0x80, 0x17, 0xF7, 0xEC, 0x10, 0x00] ++ List.replicate 67 0 ++ [0, 10] ++ List.replicate 48 0 ++ [10] ++
    List.replicate 12 0 ++ List.replicate 112 0xFF ++ [0xAA, 0xB4]

set_option maxRecDepth 4000 in
theorem witness_DestructiveRequestsAreJudged_image : imageValid meterImage = true ∧ meterImage.length = 256 ∧
    imageValid (List.replicate 256 0xFF) = false ∧ (settingsOf meterImage).encA = ⟨true, false, 1570796, 4096⟩ := by decide +kernel

theorem witness_DestructiveRequestsAreJudged :
    let s := keyed .opened (some 9)
    let held := { s with coil := (slots (some { record .sealing with anchor := some 255 }) none none).coil }
    s.startRec.started = true ∧ s.startRec.station ≠ 0 ∧ s.begun = true ∧ State.reset.begun = false ∧ s.bankHoldsAnchor 1 = false ∧
      held.bankHoldsAnchor 15 = true ∧ s.store.waiting.length < 4 ∧ (0 : Byte).toNat < 1 ∧ 15 < (16 : Byte).toNat := by
  decide +kernel

theorem witness_RequestsAreAnsweredOrQueued : node.startRec.started = true ∧ node.startRec.station ≠ 0 ∧ node.begun = true ∧
    node.settings.coil = true ∧ node.store.waiting.length < 4 ∧ (List.replicate 4 (StoreOp.keep 1)).length = 4 ∧
    node.settings.pacePublish = false := by decide

theorem witness_CheckCoversAClampedRange : node.startRec.started = true ∧ node.startRec.station ≠ 0 ∧ 250 ≤ 255 ∧ 255 ≤ 255 ∧
    node.line.queue.length < 8 ∧
    (storing (.checkRange 250 255 9) .work node).store.inFlight = some ⟨.checkRange 250 255 9, .work, false, 0⟩ := by decide

end Sys2Proof.Tests
end

section
/-! SUPPORT. The rules of the count channels (chapter 1): what each operation over a channel leaves in that channel's record, that it
leaves every other channel alone, and which events it gives; and the claims about the channels' commands. -/

namespace Sys2Proof.Machine

/-! ### Parts that a frame keeps -/

section
variable {l : List Part} {s t : State} (h : Only l s t)
include h

theorem Only.settings_eq (hl : Part.settings ∉ l := by decide) : t.settings = s.settings := h.2 .settings hl

theorem Only.pins_eq (hl : Part.pins ∉ l := by decide) : t.pins = s.pins := h.2 .pins hl

theorem Only.channels_eq (hl : Part.channels ∉ l := by decide) : t.channels = s.channels := h.2 .channels hl

theorem Only.channel_eq (i : Fin 8) (hl : Part.channels ∉ l := by decide) : t.channel i = s.channel i :=
  congrArg (fun v => v[i]) (h.channels_eq hl)

theorem Only.prot_eq (hl : Part.prot ∉ l := by decide) : t.prot = s.prot := h.2 .prot hl

theorem Only.begun_eq (hl : Part.prot ∉ l := by decide) : t.begun = s.begun := by
  unfold State.begun
  rw [h.prot_eq hl]

theorem Only.knot_eq (hl : Part.knot ∉ l := by decide) : t.knot = s.knot := h.2 .knot hl

theorem Only.meter_eq (hl : Part.meter ∉ l := by decide) : t.meter = s.meter := h.2 .meter hl

end

variable (s : State) (i j : Fin 8) (m : RunMode)

/-! ### The channel that an operation is about -/

theorem State.setChannel_self : s.setChannel i (s.channel i) = s := by
  simp [State.setChannel, State.channel]

/-- A channel that enters RUNNING, and its drive where it is a PULSE with a reload of 0 (R5, R7, R13). -/
def Channel.run (c : Channel) : Channel :=
  let c1 : Channel := { c with
    state := .running, count := if c.mode.any isMeasuring then 0 else c.reload, divider := 0 }
  if c.mode == some .pulse && c.reload == 0 then c1.driven else c1

/-- A channel as the end of a PULSE delay leaves it, which one not running in PULSE does not have (R13). -/
def Channel.driveStarted (c : Channel) : Channel :=
  if c.mode = some .pulse ∧ c.state = .running then c.driven else c

theorem driveChannel_channel_self : (driveChannel i s).channel i = (s.channel i).driveStarted := by
  unfold driveChannel Channel.driveStarted
  split <;> simp

theorem giveDrive_channel_self : (giveDrive i s).channel i = (s.channel i).driveStarted := by
  unfold giveDrive
  dsimp only
  split <;> simp [driveChannel_channel_self]

theorem runChannel_channel_self : (runChannel i s).channel i = (s.channel i).run := by
  unfold runChannel Channel.run
  dsimp only
  split
  case isTrue h =>
    obtain ⟨hm, _⟩ : (s.channel i).mode = some .pulse ∧ (s.channel i).reload = 0 := by simpa using h
    simp [giveDrive_channel_self, Channel.driveStarted, hm]
  case isFalse => simp

theorem expireChannel_channel_self :
    (expireChannel i m s).channel i = if (s.channel i).expiresIn m then (s.channel i).expired else s.channel i := by
  unfold expireChannel
  split <;> simp

@[simp] theorem giveRow_channel : (giveRow i m s).channel j = s.channel j := rfl

theorem giveExpiry_channel_self :
    (giveExpiry i m s).channel i = if (s.channel i).expiresIn m then (s.channel i).expired else s.channel i := by
  unfold giveExpiry
  split
  case isTrue h => simp [expireChannel_channel_self, h]
  case isFalse => rfl

/-- The record that a start request, adjusted by Table 1-4, leaves (R5): ARMED, or at once RUNNING. -/
def startedChannel (input : InputSignal) (a : StartRequest) : Channel :=
  if !isMeasuring a.mode && a.trigger == .owner then (armedChannel input a).run else armedChannel input a

theorem startChannel_channel_self (r : StartRequest) :
    (startChannel i r s).channel i = startedChannel (s.allocatedInput i) (adjustStart i r) := by
  unfold startChannel startedChannel
  dsimp only
  split <;> simp [runChannel_channel_self]

/-! ### Every other channel -/

section
variable {i j}
variable (h : j ≠ i)
include h

theorem driveChannel_channel_ne : (driveChannel i s).channel j = s.channel j := by
  unfold driveChannel
  split
  · exact State.setChannel_channel_ne s _ h
  · rfl

theorem giveDrive_channel_ne : (giveDrive i s).channel j = s.channel j := by
  unfold giveDrive
  dsimp only
  split <;> simp [driveChannel_channel_ne s h]

theorem runChannel_channel_ne : (runChannel i s).channel j = s.channel j := by
  unfold runChannel
  dsimp only
  split <;> simp [giveDrive_channel_ne _ h, State.setChannel_channel_ne s _ h]

theorem expireChannel_channel_ne : (expireChannel i m s).channel j = s.channel j := by
  unfold expireChannel
  split <;> simp [State.setChannel_channel_ne s _ h]

theorem giveExpiry_channel_ne : (giveExpiry i m s).channel j = s.channel j := by
  unfold giveExpiry
  split <;> simp [expireChannel_channel_ne s m h]

theorem startChannel_channel_ne (r : StartRequest) : (startChannel i r s).channel j = s.channel j := by
  unfold startChannel
  dsimp only
  split <;> simp [runChannel_channel_ne _ h, State.setChannel_channel_ne s _ h]

theorem widthExpiry_channel_ne (v : BitVec 24) : (widthExpiry i v s).channel j = s.channel j := by
  unfold widthExpiry
  dsimp only
  split <;> simp [State.setChannel_channel_ne s _ h]

theorem periodExpiry_channel_ne : (periodExpiry i s).channel j = s.channel j := by
  unfold periodExpiry
  dsimp only
  split <;> simp [State.setChannel_channel_ne s _ h]

theorem countEdge_channel_ne : (countEdge i s).channel j = s.channel j := by
  unfold countEdge
  dsimp only
  split
  · exact giveExpiry_channel_ne s .count h
  · exact State.setChannel_channel_ne s _ h

theorem activeEdge_channel_ne : (activeEdge i s).channel j = s.channel j := by
  unfold activeEdge
  dsimp only
  split
  · exact runChannel_channel_ne s h
  · split
    · split
      · exact countEdge_channel_ne s h
      · exact periodExpiry_channel_ne s h
      · rfl
    · rfl

theorem inactiveEdge_channel_ne : (inactiveEdge i s).channel j = s.channel j := by
  unfold inactiveEdge
  dsimp only
  split <;> simp [widthExpiry_channel_ne s h]

theorem inputEdge_channel_ne (active : Bool) : (inputEdge i active s).channel j = s.channel j := by
  unfold inputEdge
  split
  · exact activeEdge_channel_ne s h
  · exact inactiveEdge_channel_ne s h

end

/-! ### The events that an operation gives -/

/-- The triggers of an expiry reach exactly the channels ARMED with CHAIN on the channel (R7). -/
theorem mem_chained {e : Instr} :
    e ∈ s.chained i ↔ ∃ j, (s.channel j).state = .armed ∧ (s.channel j).trigger = .chain i ∧ .channelTrigger j (.chain i) = e := by
  simp [State.chained, and_assoc]

theorem mem_chained_of_armed {j : Fin 8} (hs : (s.channel j).state = .armed) (ht : (s.channel j).trigger = .chain i) :
    Instr.channelTrigger j (.chain i) ∈ s.chained i := (mem_chained s i).2 ⟨j, hs, ht, rfl⟩

theorem driveChannel_due : (driveChannel i s).due = s.due := by
  unfold driveChannel
  split <;> rfl

theorem takeExpiry_channel_self (given : Bool) : (takeExpiry given i m s).channel i =
    if given = false ∧ (s.channel i).expiresIn m = true then (s.channel i).expired else s.channel i := by
  unfold takeExpiry
  cases given <;> simp [expireChannel_channel_self]

theorem takeExpiry_channel_ne (given : Bool) {i j : Fin 8} (h : j ≠ i) : (takeExpiry given i m s).channel j = s.channel j := by
  unfold takeExpiry
  split
  · rfl
  · exact expireChannel_channel_ne s m h

theorem giveDrive_due : (giveDrive i s).due = s.due ++ if i = 7 then [.cutDriveStart] else [] := by
  unfold giveDrive
  dsimp only
  split <;> simp [driveChannel_due]

theorem runChannel_due : (runChannel i s).due = s.due ++
    if i = 7 ∧ (s.channel i).mode = some .pulse ∧ (s.channel i).reload = 0 then [.cutDriveStart] else [] := by
  unfold runChannel
  dsimp only
  split
  case isTrue h =>
    have hp : (s.channel i).mode = some .pulse ∧ (s.channel i).reload = 0 := by simpa using h
    simp only [giveDrive_due, State.setChannel_due, hp, and_true]
  case isFalse h =>
    have hp : ¬ ((s.channel i).mode = some .pulse ∧ (s.channel i).reload = 0) := by simpa using h
    simp only [State.setChannel_due, hp, and_false, if_false, List.append_nil]

theorem expireChannel_due :
    (expireChannel i m s).due = s.due ++ if (s.channel i).expiresIn m then s.chained i else [] := by
  unfold expireChannel
  split <;> simp

@[simp] theorem giveRow_due : (giveRow i m s).due = s.due ++ (s.expiryRow i m).toList := rfl

/-- The owner's row depends on the settings and the head lines alone. -/
theorem expiryRow_congr {t : State} (hs : t.settings = s.settings) (hp : t.pins.ks = s.pins.ks) :
    t.expiryRow i m = s.expiryRow i m := by
  unfold State.expiryRow
  rw [hs, hp]

/-- An expiry gives the triggers of the channels chained on it, then the row of its owner (R7, R17). -/
theorem giveExpiry_due : (giveExpiry i m s).due = s.due ++
    if (s.channel i).expiresIn m then s.chained i ++ (s.expiryRow i m).toList else [] := by
  unfold giveExpiry
  split
  case isTrue h =>
    have hf := expireChannel_only s i m
    rw [giveRow_due, expireChannel_due, if_pos h, expiryRow_congr s i m hf.settings_eq (by rw [hf.pins_eq]),
      List.append_assoc]
  case isFalse => simp

/-- The triggers of an expiry are due after it (R7). -/
theorem chained_subset_giveExpiry (h : (s.channel i).expiresIn m = true) : s.chained i ⊆ (giveExpiry i m s).due := by
  rw [giveExpiry_due, if_pos h]
  intro e he
  simp [he]

theorem expiryRow_mem_giveExpiry (h : (s.channel i).expiresIn m = true) {e : Instr} (he : s.expiryRow i m = some e) :
    e ∈ (giveExpiry i m s).due := by
  rw [giveExpiry_due, if_pos h, he]
  simp

theorem periodExpiry_channel_self (hm : (s.channel i).mode = some .period) (hs : (s.channel i).state = .running)
    (hn : (s.channel i).input ≠ .none) :
    (periodExpiry i s).channel i = { (s.channel i).captured (s.channel i).count with divider := 0 } := by
  simp [periodExpiry, hm, hs, hn]

theorem periodExpiry_due (hm : (s.channel i).mode = some .period) (hs : (s.channel i).state = .running)
    (hn : (s.channel i).input ≠ .none) : (periodExpiry i s).due = s.due ++ s.chained i := by
  simp [periodExpiry, hm, hs, hn]

theorem widthExpiry_channel_self (hm : (s.channel i).mode = some .width) (hs : (s.channel i).state = .running)
    (hn : (s.channel i).input ≠ .none) (v : BitVec 24) :
    (widthExpiry i v s).channel i = { (s.channel i).captured v with state := .armed } := by
  simp [widthExpiry, hm, hs, hn]

theorem widthExpiry_due (hm : (s.channel i).mode = some .width) (hs : (s.channel i).state = .running)
    (hn : (s.channel i).input ≠ .none) (v : BitVec 24) : (widthExpiry i v s).due = s.due ++ s.chained i := by
  simp [widthExpiry, hm, hs, hn]

/-- A count at its maximum, as a number (R16). -/
theorem beq_maxCount (n : BitVec 24) : (n == maxCount) = decide (n.toNat = 16777215) := by
  rw [Bool.eq_iff_iff]
  simp [maxCount, BitVec.toNat_eq]

/-! ### Stop and set-next-reload (R8, R9) -/

theorem Channel.stopped_of_idle {c : Channel} (h : c.state = .idle) : c.stopped = c := if_pos h

theorem Channel.stopped_of_ne {c : Channel} (h : c.state ≠ .idle) :
    c.stopped = { c with state := .idle, count := 0, pendingReload := none, level := false } := if_neg h

/-- A channel after a set-next-reload request with an adjusted reload (R9). -/
def Channel.nextReload (n : BitVec 24) (c : Channel) : Channel :=
  if c.mode = some .interval ∨ c.mode = some .count then
    match c.state with
    | .running => { c with pendingReload := some n }
    | .armed => { c with reload := n, count := n }
    | _ => c
  else c

theorem exec_setNextReload (n : BitVec 24) : exec (.setNextReload i n) s = .next ((s.take (.setNextReload i n)).setChannel i
    ((s.channel i).nextReload (if n = 0 then 1 else n))) := by
  change execSetNextReload i n s = _
  rw [← State.take_channel s (.setNextReload i n)]
  unfold execSetNextReload Channel.nextReload
  generalize s.take (.setNextReload i n) = s0
  refine congrArg Host.Outcome.next ?_
  by_cases hu : (s0.channel i).mode = some .interval ∨ (s0.channel i).mode = some .count
  · rw [if_pos hu, if_pos hu]
    cases hs : (s0.channel i).state <;> simp only [State.setChannel_self]
  · rw [if_neg hu, if_neg hu, State.setChannel_self]

/-- Settles O13, from what a stop and a new reload leave of the channel's record. -/
theorem stopAndSetNextReloadAct : Obligations.StopAndSetNextReloadAct := by
  intro i n s
  constructor
  · refine ⟨(s.take (.channelStopRequest i)).setChannel i (s.channel i).stopped, rfl, ?_, ?_, ?_, ?_⟩
    · exact (take_only s _).after (l := [.due, .channels]) ((setChannel_only _ i _).grow (by decide)) (by decide)
    · intro j hj
      exact State.setChannel_channel_ne _ _ hj
    · intro h
      rw [State.setChannel_channel_self, Channel.stopped_of_idle h]
    · intro h
      rw [State.setChannel_channel_self, Channel.stopped_of_ne h]
  · refine ⟨_, exec_setNextReload s i n, ?_, ?_, ?_, ?_, ?_, ?_⟩
    · exact (take_only s _).after (l := [.due, .channels]) ((setChannel_only _ i _).grow (by decide)) (by decide)
    · intro j hj
      exact State.setChannel_channel_ne _ _ hj
    · intro hu hr
      simp only [State.setChannel_channel_self, Channel.nextReload, if_pos hu, hr]
    · intro hu ha
      simp only [State.setChannel_channel_self, Channel.nextReload, if_pos hu, ha]
    · intro h
      rw [State.setChannel_channel_self, Channel.nextReload]
      split
      · rcases h with h | h <;> rw [h]
      · rfl
    · intro hu
      rw [State.setChannel_channel_self, Channel.nextReload, if_neg hu]

/-! ### A trigger (R7, R12, R13) -/

theorem Channel.takesTrigger_iff {c : Channel} {e : TriggerEvent} : c.takesTrigger e = true ↔ c.state = .armed ∧
    ((e = .input ∧ c.trigger = .input ∧ c.input ≠ .none) ∨ (∃ k, e = .chain k ∧ c.trigger = .chain k) ∨
      (∃ k, e = .line k ∧ c.trigger = .line k)) := by
  unfold Channel.takesTrigger
  cases e <;> cases c.trigger <;> simp
  case chain.chain => exact fun _ => eq_comm
  case line.line => exact fun _ => eq_comm

theorem Channel.run_measuring {c : Channel} (h : c.mode = some .period ∨ c.mode = some .width) :
    c.run = { c with state := .running, count := 0, divider := 0 } := by
  rcases h with h | h <;> simp [Channel.run, h, isMeasuring]

theorem Channel.run_counting {c : Channel} (h : c.mode = some .interval ∨ c.mode = some .count ∨ c.mode = some .delay ∨
    (c.mode = some .pulse ∧ c.reload ≠ 0)) :
    c.run = { c with state := .running, count := c.reload, divider := 0 } := by
  rcases h with h | h | h | ⟨h, hr⟩
  · simp [Channel.run, h, isMeasuring]
  · simp [Channel.run, h, isMeasuring]
  · simp [Channel.run, h, isMeasuring]
  · simpa [Channel.run, h, isMeasuring] using fun h0 => absurd h0 hr

theorem Channel.run_drive {c : Channel} (h : c.mode = some .pulse) (hr : c.reload = 0) :
    c.run = { c with state := .driving, count := c.drive.getD 1, divider := 0, level := c.action == .drive } := by
  simp [Channel.run, Channel.driven, h, hr]

/-- Settles O14, from what entering RUNNING leaves of a channel and the events it gives. -/
theorem triggerStartsAnArmedChannel : Obligations.TriggerStartsAnArmedChannel := by
  intro i e s
  let s0 := s.take (.channelTrigger i e)
  have h0 : Only [.due, .channels] s s0 := (take_only s _).grow (by decide)
  refine ⟨if (s0.channel i).takesTrigger e then runChannel i s0 else s0, rfl, ?_, ?_, ?_, ?_⟩
  · exact .ite (h0.trans (runChannel_only s0 i)) h0
  · intro j hj
    split
    · exact runChannel_channel_ne s0 hj
    · rfl
  · intro hs
    have ht : ¬ (s0.channel i).takesTrigger e = true := fun h => hs (Channel.takesTrigger_iff.1 h).1
    rw [if_neg ht]
    rfl
  · intro hs he
    have ht : (s0.channel i).takesTrigger e = true := Channel.takesTrigger_iff.2 ⟨hs, he⟩
    rw [if_pos ht, runChannel_channel_self]
    refine ⟨fun hm => Channel.run_measuring hm, fun hm => Channel.run_counting hm, fun hm hr => ⟨Channel.run_drive hm hr, ?_⟩⟩
    rintro rfl
    rw [runChannel_due, if_pos ⟨rfl, hm, hr⟩]
    simp

/-! ### A start request (R2, R5, R6) -/

theorem Channel.run_frame (c : Channel) :
    { c.run with state := c.state, count := c.count, divider := c.divider, level := c.level } = c := by
  unfold Channel.run
  dsimp only
  split <;> rfl

theorem Channel.run_divider (c : Channel) : c.run.divider = 0 := by
  unfold Channel.run
  dsimp only
  split <;> rfl

section
variable (input : InputSignal) (a : StartRequest)

/-- Entering RUNNING changes the state, the count and the output of what a start request leaves, and nothing else. -/
theorem startedChannel_frame : { startedChannel input a with
    state := .armed, count := (armedChannel input a).count, level := false, divider := 0 } = armedChannel input a := by
  unfold startedChannel
  split
  · exact Channel.run_frame (armedChannel input a)
  · rfl

theorem startedChannel_divider : (startedChannel input a).divider = 0 := by
  unfold startedChannel
  split
  · exact Channel.run_divider _
  · rfl

@[simp] theorem startedChannel_mode : (startedChannel input a).mode = some a.mode :=
  congrArg Channel.mode (startedChannel_frame input a)

@[simp] theorem startedChannel_unit : (startedChannel input a).unit = a.unit :=
  congrArg Channel.unit (startedChannel_frame input a)

@[simp] theorem startedChannel_reload : (startedChannel input a).reload = a.reload :=
  congrArg Channel.reload (startedChannel_frame input a)

@[simp] theorem startedChannel_drive : (startedChannel input a).drive = a.drive :=
  congrArg Channel.drive (startedChannel_frame input a)

@[simp] theorem startedChannel_trigger : (startedChannel input a).trigger = a.trigger :=
  congrArg Channel.trigger (startedChannel_frame input a)

@[simp] theorem startedChannel_action : (startedChannel input a).action = a.action :=
  congrArg Channel.action (startedChannel_frame input a)

variable {a}

theorem startedChannel_of_owner (hm : isMeasuring a.mode = false) (ht : a.trigger = .owner) :
    startedChannel input a = (armedChannel input a).run := by
  simp [startedChannel, hm, ht]

theorem startedChannel_of_armed (h : isMeasuring a.mode = true ∨ a.trigger ≠ .owner) :
    startedChannel input a = armedChannel input a := by
  rcases h with h | h <;> simp [startedChannel, h]

theorem startedChannel_running (hm : isMeasuring a.mode = false) (ht : a.trigger = .owner)
    (hp : a.mode ≠ .pulse ∨ a.reload ≠ 0) :
    startedChannel input a = { armedChannel input a with state := .running, count := a.reload } := by
  rw [startedChannel_of_owner input hm ht, Channel.run_counting]
  · rfl
  · revert hm hp
    cases hmode : a.mode <;> simp [armedChannel, isMeasuring, hmode]

theorem startedChannel_driving (hm : a.mode = .pulse) (ht : a.trigger = .owner) (hr : a.reload = 0) :
    startedChannel input a = { armedChannel input a with
      state := .driving, count := a.drive.getD 1, level := a.action == .drive } := by
  rw [startedChannel_of_owner input (by rw [hm]; rfl) ht,
    Channel.run_drive (c := armedChannel input a) (congrArg some hm) hr]
  rfl

end

theorem isMeasuring_iff {k : RunMode} : isMeasuring k = true ↔ k = .period ∨ k = .width := by
  cases k <;> decide

section
variable {r : StartRequest}

theorem adjustTrigger_of_measuring (h : isMeasuring r.mode = true) : adjustTrigger i r = .input := if_pos h

theorem adjustTrigger_of_counting (h : ¬ isMeasuring r.mode = true) :
    adjustTrigger i r = if r.trigger = .chain i then .owner else r.trigger := if_neg h

theorem adjustReload_of_ne (h : r.reload ≠ 0) : adjustReload i r = r.reload := if_neg fun k => h k.1

theorem adjustReload_of_repeating (h : r.reload = 0) (hm : r.mode = .interval ∨ r.mode = .count) : adjustReload i r = 1 :=
  if_pos ⟨h, hm.elim .inl fun k => .inr (.inl k)⟩

/-- A DELAY or PULSE takes a reload of 0 as 1 where its adjusted trigger is CHAIN (Table 1-4). -/
theorem adjustReload_of_delaying (h : r.reload = 0) (hm : r.mode = .delay ∨ r.mode = .pulse) :
    adjustReload i r = if isChain (adjustTrigger i r) = true then 1 else 0 := by
  unfold adjustReload
  rcases hm with hm | hm <;> simp [h, hm]

theorem isMeasuring_of_delaying (hm : r.mode = .delay ∨ r.mode = .pulse) : ¬ isMeasuring r.mode = true := by
  rcases hm with hm | hm <;> simp [hm, isMeasuring]

theorem adjustAction_eq : adjustAction r =
    if (r.mode = .interval ∧ r.action = .toggle) ∨ (r.mode = .pulse ∧ r.action = .drive) then r.action else .none := by
  unfold adjustAction
  cases r.action <;> simp

theorem adjustDrive_of_pulse (h : r.mode = .pulse) :
    adjustDrive r = some (if r.drive.getD 0 = 0 then 1 else r.drive.getD 0) := if_pos h

end

/-- The channels that the roles allocate (Table 1-3). -/
theorem State.allocated_iff : s.allocated i = true ↔ s.begun = true ∧
    ((i.val ≤ 2 ∧ (s.settings.twist = true ∨ s.settings.knot = true)) ∨ (3 ≤ i.val ∧ i.val ≤ 5 ∧ s.settings.twist = true) ∨
      i = 6 ∨ (i = 7 ∧ s.settings.coil = true)) := by
  fin_cases i <;> simp [State.allocated]

/-- Settles O12: what the adjusted request leaves of the channel, clause by clause of Table 1-4. -/
theorem startRequestRunsOrArms : Obligations.StartRequestRunsOrArms := by
  refine ⟨fun i s => s.allocated_iff i, ?_, ?_⟩
  · intro i r s ha
    refine ⟨s.take (.channelStartRequest i r), ?_, take_only s _, rfl, fun hs hm => ⟨hs, hm⟩⟩
    exact congrArg Host.Outcome.next (if_neg (by simpa using ha))
  · intro i r s ha
    let s0 := s.take (.channelStartRequest i r)
    have hself : (startChannel i r s0).channel i = startedChannel (s0.allocatedInput i) (adjustStart i r) :=
      startChannel_channel_self s0 i r
    refine ⟨startChannel i r s0, congrArg Host.Outcome.next (if_pos ha), ?_⟩
    dsimp only
    rw [hself]
    generalize s0.allocatedInput i = input
    simp only [startedChannel_mode, startedChannel_unit, startedChannel_reload, startedChannel_drive,
      startedChannel_trigger, startedChannel_action, startedChannel_divider, ← isMeasuring_iff]
    refine ⟨(take_only s _).after (startChannel_only s0 i r) (by decide), fun j hj => startChannel_channel_ne s0 hj r, rfl,
      congrArg Channel.capture (startedChannel_frame input _), congrArg Channel.captureSaturated (startedChannel_frame input _),
      congrArg Channel.pendingReload (startedChannel_frame input _), trivial, fun h => if_pos h, ?_, ?_, adjustReload_of_ne i,
      adjustReload_of_repeating i, ?_, ?_, ?_, fun h => if_neg h, adjustTrigger_of_measuring i, ?_, ?_, adjustAction_eq,
      ?_, ?_, ?_, ?_⟩
    · intro hm hu
      exact (if_neg hm).trans (if_pos hu)
    · intro hm hu
      exact (if_neg hm).trans (if_neg hu)
    · intro k h0 hm ht hk
      have hc : isChain (adjustTrigger i r) = true := by
        simp [adjustTrigger_of_counting i (isMeasuring_of_delaying hm), ht, hk, isChain]
      exact (adjustReload_of_delaying i h0 hm).trans (if_pos hc)
    · intro h0 hm ht
      have hc : ¬ isChain (adjustTrigger i r) = true := by
        rw [adjustTrigger_of_counting i (isMeasuring_of_delaying hm), if_neg (ht i)]
        cases hr : r.trigger <;> simp_all [isChain]
      exact (adjustReload_of_delaying i h0 hm).trans (if_neg hc)
    · intro d hm hd
      exact (adjustDrive_of_pulse hm).trans (by rw [hd]; rfl)
    · intro hm ht
      exact (adjustTrigger_of_counting i hm).trans (if_pos ht)
    · intro hm ht
      exact (adjustTrigger_of_counting i hm).trans (if_neg ht)
    · intro hm ht hp
      have hm' : isMeasuring (adjustStart i r).mode = false := Bool.eq_false_iff.2 hm
      rw [startedChannel_running input hm' ht hp]
      exact ⟨rfl, rfl, rfl⟩
    · intro hm ht h0
      rw [startedChannel_driving (a := adjustStart i r) input hm ht h0]
      have hd : (adjustStart i r).drive = some (if r.drive.getD 0 = 0 then 1 else r.drive.getD 0) := adjustDrive_of_pulse hm
      exact ⟨rfl, by rw [hd]; rfl, rfl⟩
    · intro hm ht
      rw [startedChannel_of_armed input (.inr ht)]
      exact ⟨rfl, if_neg hm, rfl⟩
    · intro hm
      rw [startedChannel_of_armed (a := adjustStart i r) input (.inl hm)]
      exact ⟨rfl, if_pos hm, rfl⟩

/-! ### Expiries (R10, R14, R16, R17) -/

theorem Channel.expired_interval {c : Channel} (h : c.mode = some .interval) : c.expired = { c with
    count := c.pendingReload.getD c.reload
    reload := c.pendingReload.getD c.reload
    pendingReload := none
    level := if c.action = .toggle then !c.level else c.level } := by
  simp [Channel.expired, Channel.reloaded, h]

theorem Channel.expired_count {c : Channel} (h : c.mode = some .count) : c.expired = { c with
    count := c.pendingReload.getD c.reload, reload := c.pendingReload.getD c.reload, pendingReload := none } := by
  simp [Channel.expired, Channel.reloaded, h]

theorem Channel.expiresIn_interval {c : Channel} (h : c.mode = some .interval) (hs : c.state = .running) :
    c.expiresIn .interval = true := by
  simp [Channel.expiresIn, h, hs]

/-- Settles O15, from what an expiry and a capture leave of the channel and the events they give. -/
theorem intervalsReloadAndPeriodsCapture : Obligations.IntervalsReloadAndPeriodsCapture := by
  intro i s hs
  constructor
  · intro hm
    let s0 := s.take (.intervalExpiry i)
    have hx : (s0.channel i).expiresIn .interval = true := Channel.expiresIn_interval hm hs
    refine ⟨giveExpiry i .interval s0, rfl, ?_, ?_, ?_, ?_, ?_, ?_⟩
    · intro j hj ht
      exact chained_subset_giveExpiry s0 i .interval hx (mem_chained_of_armed s0 i hj ht)
    · exact (take_only s _).after (giveExpiry_only s0 i .interval) (by decide)
    · intro j hj
      exact giveExpiry_channel_ne s0 .interval hj
    · rw [giveExpiry_channel_self, if_pos hx]
      exact Channel.expired_interval hm
    · rintro rfl hw
      exact expiryRow_mem_giveExpiry s0 0 .interval hx (if_pos hw)
    · rintro rfl
      exact expiryRow_mem_giveExpiry s0 6 .interval hx rfl
  · intro hm hn
    let s0 := s.take (.periodCapture i)
    refine ⟨periodExpiry i s0, rfl, ?_, ?_, ?_, ?_⟩
    · intro j hj ht
      rw [periodExpiry_due s0 i hm hs hn]
      exact List.mem_append_right _ (mem_chained_of_armed s0 i hj ht)
    · exact (take_only s _).after (periodExpiry_only s0 i) (by decide)
    · intro j hj
      exact periodExpiry_channel_ne s0 hj
    · rw [periodExpiry_channel_self s0 i hm hs hn]
      simp only [Channel.captured, beq_maxCount]
      rfl
end Sys2Proof.Machine
end

section
/-! SUPPORT. The end of a coil by hand and its cut (R141 to R143), command by command, for a COIL node with a record in the OPEN
slot. -/

namespace Sys2Proof.Machine

variable {s : State} {r : CoilRecord}

theorem State.cutMayStart_iff : s.cutMayStart = true ↔
    s.meter.atRest = true ∧ ∀ c, s.coil.closingSlot = some c → c.state ≠ .gathering := by
  unfold State.cutMayStart
  cases s.coil.closingSlot <;> simp

/-- The request that starts CH7 for a cut is due, and the OPEN slot's record is in CUTTING with both timers stopped (R142). -/
theorem startCut_effect (s : State) (r : CoilRecord) :
    .channelStartRequest 7 (cutStart s.settings) ∈ (startCut r s).due ∧
      (startCut r s).coil =
        { s.coil with openSlot := some { r with state := .cutting }, restLeft := none, cutLeft := none } :=
  ⟨by simp [startCut], rfl⟩

section
variable (hc : s.coilNode = true) (hr : s.coil.openSlot = some r)
include hc hr

/-- CUT-REQUEST by the state of the OPEN slot's record (R141). -/
theorem exec_cutRequest : exec .cutRequest s = .next (
    if r.state = .opened then
      (if s.prot.permit = .running then s.take .cutRequest else endCoil .manual r (s.take .cutRequest))
    else if r.state = .cutting ∧ (s.channel 7).state = .idle then startCut r (s.take .cutRequest)
    else s.take .cutRequest) := by
  change execCutRequest s = _
  simp only [execCutRequest, State.take_coil, hr, State.take_coilNode, hc]
  rfl

theorem cutRequest_effect :
    let pulse : Instr := .channelStartRequest 7 (cutStart s.settings)
    let cutting (q : CoilRecord) (t : State) := pulse ∈ t.due ∧
      t.coil = { s.coil with openSlot := some { q with state := .cutting }, restLeft := none, cutLeft := none }
    let repeats := r.state = .cutting ∧ (s.channel 7).state = .idle
    let ends := r.state = .opened ∧ s.prot.permit ≠ .running
    Completes .cutRequest s (fun t => Only [.due, .coil] s t ∧
      (ends → s.cutMayStart = true → .coilHoldSet ∈ t.due ∧ cutting { r with endReason := some .manual } t) ∧
      (ends → ¬ s.cutMayStart = true → .coilHoldSet ∈ t.due ∧ t.coil = { s.coil with
        openSlot := some { r with state := .ending, endReason := some .manual }, restLeft := some 100000 }) ∧
      (repeats → cutting r t) ∧ (¬ ends → ¬ repeats → t.coil = s.coil ∧ t.due = s.due.erase .cutRequest)) := by
  intro pulse cutting repeats ends
  let s0 := s.take .cutRequest
  have h0 : Only [.due, .coil] s s0 := (take_only s _).grow (by decide)
  refine ⟨_, exec_cutRequest hc hr, ?_, ?_, ?_, ?_, ?_⟩
  · exact .ite (.ite h0 (h0.trans (endCoil_only s0 .manual r))) (.ite (h0.trans (startCut_only s0 r)) h0)
  · rintro ⟨ho, hp⟩ hm
    rw [if_pos ho, if_neg hp]
    have hj : endCoil .manual r s0 = startCut { r with state := .ending, endReason := some .manual }
        ((s0.setOpen (some { r with state := .ending, endReason := some .manual })).emit [.coilHoldSet]) := if_pos hm
    rw [hj]
    exact ⟨by simp [startCut], by simp [startCut, pulse, s0], rfl⟩
  · rintro ⟨ho, hp⟩ hm
    rw [if_pos ho, if_neg hp]
    have hj : endCoil .manual r s0 =
        restAgain ((s0.setOpen (some { r with state := .ending, endReason := some .manual })).emit [.coilHoldSet]) := if_neg hm
    rw [hj]
    exact ⟨by simp [restAgain], rfl⟩
  · rintro ⟨hs, hi⟩
    have ho : ¬ r.state = .opened := by simp [hs]
    rw [if_neg ho, if_pos ⟨hs, hi⟩]
    exact startCut_effect s0 r
  · intro he hn
    rw [if_neg hn]
    split
    case isTrue ho =>
      rw [if_pos (by simpa [ends, ho] using he)]
      exact ⟨rfl, rfl⟩
    case isFalse => exact ⟨rfl, rfl⟩

end

theorem restTimerExpiry_effect (hr : s.coil.openSlot = some r) :
    let pulse : Instr := .channelStartRequest 7 (cutStart s.settings)
    let cutting (q : CoilRecord) (t : State) := pulse ∈ t.due ∧
      t.coil = { s.coil with openSlot := some { q with state := .cutting }, restLeft := none, cutLeft := none }
    Completes .restTimerExpiry s (fun t => Only [.due, .coil] s t ∧
      (r.state = .ending → s.coil.restLeft ≠ none → s.cutMayStart = true → .coilHoldSet ∈ t.due ∧ cutting r t) ∧
      (r.state = .ending → s.coil.restLeft ≠ none → ¬ s.cutMayStart = true →
        t.coil = { s.coil with restLeft := some 100000 }) ∧
      (r.state ≠ .ending ∨ s.coil.restLeft = none → t.coil = s.coil)) := by
  intro pulse cutting
  let s0 := s.take .restTimerExpiry
  have h0 : Only [.due, .coil] s s0 := (take_only s _).grow (by decide)
  by_cases hw : r.state = .ending ∧ s.coil.restLeft ≠ none
  · obtain ⟨he, hn⟩ := hw
    obtain ⟨n, hn'⟩ := Option.ne_none_iff_exists'.1 hn
    have hx : exec .restTimerExpiry s = .next (if s0.cutMayStart = true then startWaitingCut r s0 else restAgain s0) := by
      change execRestTimerExpiry s = _
      simp [execRestTimerExpiry, hr, hn', he, s0]
    refine ⟨_, hx, ?_, ?_, ?_, ?_⟩
    · exact .ite (h0.trans (startWaitingCut_only s0 r)) (h0.step (restAgain_only s0) (by decide))
    · intro _ _ hm
      rw [if_pos (show s0.cutMayStart = true from hm)]
      exact ⟨by simp [startWaitingCut], by simp [startWaitingCut, startCut, pulse, s0], rfl⟩
    · intro _ _ hm
      rw [if_neg (show ¬ s0.cutMayStart = true from hm)]
      rfl
    · rintro (h | h)
      · exact absurd he h
      · exact absurd h hn
  · have hx : exec .restTimerExpiry s = .next s0 := by
      change execRestTimerExpiry s = _
      cases hn : s.coil.restLeft with
      | none => simp [execRestTimerExpiry, hr, hn, s0]
      | some n =>
        have he : ¬ r.state = .ending := by simpa [hn] using hw
        simp [execRestTimerExpiry, hr, hn, he, s0]
    exact ⟨s0, hx, h0, fun he hn _ => absurd ⟨he, hn⟩ hw, fun he hn _ => absurd ⟨he, hn⟩ hw, fun _ => rfl⟩

theorem cutDriveStart_effect (hr : s.coil.openSlot = some r) :
    Completes .cutDriveStart s (fun t => Only [.due, .channels, .coil] s t ∧
      (.cutDriveStart ∉ s.due → (s.channel 7).mode = some .pulse → (s.channel 7).state = .running →
        t.channel 7 = (s.channel 7).driven) ∧
      t.coil = { s.coil with openSlot := some { r with cutDriven := true } }) := by
  let s0 := if s.due.contains .cutDriveStart then s.take .cutDriveStart else driveChannel 7 s
  have h0 : Only [.due, .channels] s s0 := .ite ((take_only s _).grow (by decide)) ((driveChannel_only s 7).grow (by decide))
  have hcoil : s0.coil = s.coil := h0.2 .coil (by decide)
  refine ⟨s0.setOpen (s0.coil.openSlot.map fun r => { r with cutDriven := true }), rfl,
    (h0.grow (m := [.due, .channels, .coil]) (by decide)).step (setOpen_only _ _) (by decide), ?_, by simp [hcoil, hr]⟩
  intro hd hm hs
  have hs0 : s0 = driveChannel 7 s := if_neg (by simpa using hd)
  change s0.channel 7 = _
  rw [hs0, driveChannel_channel_self]
  exact if_pos ⟨hm, hs⟩

theorem cutPulseExpiry_effect (hr : s.coil.openSlot = some r) :
    Completes .cutPulseExpiry s (fun t => Only [.due, .channels, .coil] s t ∧
      (.cutPulseExpiry ∉ s.due → (s.channel 7).mode = some .pulse → (s.channel 7).state = .driving →
        (s.channel 7).trigger = .owner → t.channel 7 = { s.channel 7 with state := .idle, count := 0, level := false }) ∧
      t.coil = if r.state = .cutting then { s.coil with cutLeft := some (s.settings.cutDoneTimeout * 1000) } else s.coil) := by
  let s0 := takeExpiry (s.due.contains .cutPulseExpiry) 7 .pulse (s.take .cutPulseExpiry)
  have h0 : Only [.due, .channels] s s0 := (take_only s _).after (takeExpiry_only _ _ _ _) (by decide)
  have hcoil : s0.coil = s.coil := h0.2 .coil (by decide)
  have hx : exec .cutPulseExpiry s = .next (
      if r.state = .cutting then s0.withCoil { s0.coil with cutLeft := some (ofMs s0.settings.cutDoneTimeout) } else s0) := by
    change execCutPulseExpiry s = _
    unfold execCutPulseExpiry
    change Host.Outcome.next (match s0.coil.openSlot with | some _ => _ | none => s0) = _
    rw [hcoil, hr]
  refine ⟨_, hx, ?_, ?_, ?_⟩
  · exact .ite ((h0.grow (m := [.due, .channels, .coil]) (by decide)).step (withCoil_only _ _) (by decide)) (h0.grow (by decide))
  · intro hd hm hs ht
    have hch : s0.channel 7 = { s.channel 7 with state := .idle, count := 0, level := false } := by
      rw [takeExpiry_channel_self, if_pos ⟨by simpa using hd, by simp [Channel.expiresIn, hm, hs]⟩]
      simp [Channel.expired, Channel.finished, hm, ht]
    split <;> exact hch
  · split
    · simp only [State.withCoil_coil, hcoil, h0.settings_eq, ofMs]
    · exact hcoil

theorem cutTimerExpiry_effect (hr : s.coil.openSlot = some r) :
    Completes .cutTimerExpiry s (fun t => Only [.due, .coil] s t ∧ t.coil = { s.coil with cutLeft := none } ∧
      (s.coil.cutLeft ≠ none → r.state = .cutting → .raiseCause .cutter ∈ t.due)) := by
  let s0 := s.take .cutTimerExpiry
  have h0 : Only [.due, .coil] s s0 := (take_only s _).grow (by decide)
  cases hn : s.coil.cutLeft with
  | none =>
    refine ⟨s0, ?_, h0, ?_, fun h => absurd rfl h⟩
    · change execCutTimerExpiry s = _
      simp [execCutTimerExpiry, hr, hn, s0]
    · change s.coil = _
      rw [← hn]
  | some n =>
    let s1 := s0.withCoil { s0.coil with cutLeft := none }
    have h1 : Only [.due, .coil] s s1 := h0.step (withCoil_only _ _) (by decide)
    refine ⟨if r.state = .cutting then s1.emit [.raiseCause .cutter] else s1, ?_,
      .ite (h1.step (emit_only _ _) (by decide)) h1, ?_, ?_⟩
    · change execCutTimerExpiry s = _
      simp [execCutTimerExpiry, hr, hn, s1, s0]
    · split <;> rfl
    · intro _ hs
      rw [if_pos hs]
      simp

/-- Settles O48: each command of the cut by its own lemma. -/
theorem cutsBeginAtRest : Obligations.CutsBeginAtRest := by
  intro r s hb hc hr
  have hn : s.coilNode = true := by simp [State.coilNode, hb, hc]
  simp only [← State.cutMayStart_iff]
  exact ⟨cutRequest_effect hn hr, restTimerExpiry_effect hr, cutDriveStart_effect hr, cutPulseExpiry_effect hr,
    cutTimerExpiry_effect hr⟩

end Sys2Proof.Machine
end

section
/-! SUPPORT. The lay and its judgment (R45 to R47, R52), which the mesh shares (R93, R94), and what a turn does to its spindle, its
channel and the arithmetic status (R41, R44). -/

namespace Sys2Proof.Machine

/-! ### The lay, its class and the band run -/

/-- The flag that a lay or a mesh asks for (R45, R93). -/
theorem layOf_flag (delta : Int) (n : Nat) : (layOf delta n).2 =
    if delta ≤ 0 then some .unf else if 16777215 < (2 * delta + n) / (2 * n) then some .ovf else none := by
  unfold layOf
  split
  · rfl
  case isFalse h =>
    obtain ⟨k, rfl⟩ := Int.eq_ofNat_of_zero_le (Int.le_of_lt (Int.not_le.1 h))
    have hq : (2 * (k : Int) + n) / (2 * n) = ((2 * k + n) / (2 * n) : Nat) := by push_cast; rfl
    dsimp only
    rw [hq, Int.toNat_natCast]
    have hc : (16777215 : Int) < ((2 * k + n) / (2 * n) : Nat) ↔ topLay < (2 * k + n) / (2 * n) := by
      unfold topLay
      omega
    by_cases ht : topLay < (2 * k + n) / (2 * n)
    · rw [if_pos ht, if_pos (hc.2 ht)]
    · rw [if_neg ht, if_neg (mt hc.1 ht)]
      split <;> rfl

theorem layOf_flag_unf {delta : Int} (h : delta ≤ 0) (n : Nat) : (layOf delta n).2 = some .unf := by
  rw [layOf_flag, if_pos h]

/-- An advance that makes the lay too long is not 0 or less. -/
theorem layOf_flag_ovf {delta : Int} {n : Nat} (h : 16777215 < (2 * delta + n) / (2 * n)) : (layOf delta n).2 = some .ovf := by
  rw [layOf_flag, if_neg, if_pos h]
  intro hd
  rcases Nat.eq_zero_or_pos n with rfl | hn
  · simp at h
  · have : (2 * delta + n) / (2 * n) < 1 := Int.ediv_lt_of_lt_mul (by omega) (by omega)
    omega

theorem layOf_flag_none {delta : Int} {n : Nat} (hd : 0 < delta) (h : ¬ 16777215 < (2 * delta + n) / (2 * n)) :
    (layOf delta n).2 = none := by
  rw [layOf_flag, if_neg (Int.not_le.2 hd), if_neg h]

theorem outOfBand_classOf {low high lay : Nat} : (classOf low high lay).outOfBand = true ↔ lay < low ∨ high < lay := by
  unfold classOf
  split
  · simp [LayClass.outOfBand, *]
  · split <;> simp [LayClass.outOfBand, *]

section
variable {cls : LayClass} {limit run : Nat}

theorem nextBandRun_of_within (h : ¬ cls.outOfBand = true) : nextBandRun cls limit run = (0, false) := if_neg h

theorem nextBandRun_of_fault (h : cls.outOfBand = true) (hl : limit ≤ run + 1) : nextBandRun cls limit run = (0, true) :=
  (if_pos h).trans (if_pos hl)

theorem nextBandRun_of_run (h : cls.outOfBand = true) (hl : ¬ limit ≤ run + 1) :
    nextBandRun cls limit run = (run + 1, false) :=
  (if_pos h).trans (if_neg hl)

theorem nextBandRun_fault_iff : (nextBandRun cls limit run).2 = true ↔ cls.outOfBand = true ∧ limit ≤ run + 1 := by
  unfold nextBandRun
  split
  · split <;> simp [*]
  · simp [*]

end

/-! ### A window entered in the statistics (R52) -/

theorem enterLay_of_top {t : SpindleStats} (h : t.windows = 4294967295) (cls : LayClass) (lay : Nat) (fault : Bool) :
    enterLay cls lay fault t = t := if_pos (by rw [h]; decide)

/-- A window below the count's maximum is entered under its class, with its extremes and its lay. -/
theorem enterLay_of_lt {t : SpindleStats} (h : t.windows < 4294967295) (low high lay : Nat) (fault : Bool) :
    enterLay (classOf low high lay) lay fault t = { t with
      windows := t.windows + 1
      within := if lay < low ∨ high < lay then t.within else t.within + 1
      below := if lay < low then t.below + 1 else t.below
      above := if ¬ lay < low ∧ high < lay then t.above + 1 else t.above
      layFaults := if fault then t.layFaults + 1 else t.layFaults
      minLay := leastOf t.minLay (some lay)
      maxLay := greatestOf t.maxLay (some lay)
      sumLay := t.sumLay + lay } := by
  unfold enterLay
  rw [if_neg (by unfold topWindows; omega)]
  unfold classOf
  split
  case isTrue h1 => simp [countClass, h1]
  case isFalse h1 =>
    split
    case isTrue h2 => simp [countClass, h1, h2]
    case isFalse h2 => simp [countClass, h1, h2]

/-! ### The arithmetic status of an event that may ask for a flag -/

section
variable {s s0 t : State} {flag : Option ArithFlag} {f : ArithFlag} {o : Origin}

/-- An event that has asked for one flag, beside which its status has not changed, and that takes no event back. -/
theorem setFlagIf_flagged (h0 : s0.meter = s.meter) (hs : s0.settings = s.settings) (hf : flag = some f)
    (hm : t.meter = (setFlagIf flag o s0).meter) (hd : (setFlagIf flag o s0).due ⊆ t.due) : Flagged f o s t := by
  subst hf
  exact ((setFlag_flagged s0 f o).kept (congrArg Metering.flags hm) (congrArg Metering.origin hm) (fun _ he => hd he)).before h0 hs

theorem setFlagIf_unflagged (h0 : s0.meter = s.meter) (hf : flag = none) (hm : t.meter = (setFlagIf flag o s0).meter) :
    Unflagged s t := by
  subst hf
  rw [Unflagged, hm]
  exact ⟨congrArg Metering.flags h0, congrArg Metering.origin h0⟩

theorem Unflagged.of_meter (h : t.meter = s.meter) : Unflagged s t := by rw [Unflagged, h]; exact ⟨rfl, rfl⟩

variable (flag o s)

/-- A flag changes nothing of the metering unit but the arithmetic status. -/
theorem setFlagIf_meter_frame :
    { (setFlagIf flag o s).meter with flags := s.meter.flags, origin := s.meter.origin } = s.meter := by
  cases flag with
  | none => rfl
  | some f =>
    simp only [setFlagIf, setFlag]
    split <;> rfl

end

/-! ### A window that closes with a lay (R44) -/

section
variable (s : State) (n : Fin 4) (turns : Nat) (finish : Int) (mark : Bool)

theorem closeWindow_spindle_self :
    (closeWindow n turns finish mark s).spindle n =
      let p := s.spindle n
      let lay := (layOf (finish - p.startLength) turns).1
      let cls := classOf p.bandLow p.bandHigh lay
      closedSpindle lay cls (nextBandRun cls (s.spindleSettings n).runLimit p.bandRun) mark finish p := by
  simp [closeWindow]

theorem closeWindow_spindle_ne {m : Fin 4} (h : m ≠ n) : (closeWindow n turns finish mark s).spindle m = s.spindle m := by
  have hf := setFlagIf_only s (layOf (finish - (s.spindle n).startLength) turns).2 (.lay n)
  have hk : (setFlagIf (layOf (finish - (s.spindle n).startLength) turns).2 (.lay n) s).spindle m = s.spindle m :=
    congrArg (fun t : Twist => t.spindles[m]) (hf.2 .twist (by decide))
  unfold closeWindow
  dsimp only
  rw [State.setSpindle_spindle_ne _ _ h]
  split
  · exact hk
  · exact hk

theorem closeWindow_meter : (closeWindow n turns finish mark s).meter =
    (setFlagIf (layOf (finish - (s.spindle n).startLength) turns).2 (.lay n) s).meter := by
  unfold closeWindow
  dsimp only
  rw [State.setSpindle_meter]
  split <;> rfl

theorem closeWindow_due : (closeWindow n turns finish mark s).due =
    (setFlagIf (layOf (finish - (s.spindle n).startLength) turns).2 (.lay n) s).due ++
      let p := s.spindle n
      let cls := classOf p.bandLow p.bandHigh (layOf (finish - p.startLength) turns).1
      if (nextBandRun cls (s.spindleSettings n).runLimit p.bandRun).2 = true ∧ s.settings.layEscalate = true
      then [.raiseCause .lay] else [] := by
  have hf := setFlagIf_only s (layOf (finish - (s.spindle n).startLength) turns).2 (.lay n)
  unfold closeWindow
  dsimp only
  rw [State.setSpindle_due, hf.settings_eq]
  simp only [Bool.and_eq_true]
  split <;> simp

end

/-! ### A turn (R41) -/

section
variable (s : State) (n : Fin 4)

theorem countTurn_of_lt (h : (s.spindle n).turns + 1 < (s.spindleSettings n).turnsPerWindow) :
    countTurn n s = s.setSpindle n { s.spindle n with turns := (s.spindle n).turns + 1, lastTurnLength := s.lineLength } :=
  if_neg (Nat.not_le.2 h)

theorem countTurn_of_full (h : (s.spindleSettings n).turnsPerWindow ≤ (s.spindle n).turns + 1) :
    countTurn n s = closeWindow n ((s.spindle n).turns + 1) s.lineLength true s :=
  if_pos h

theorem countTurn_spindle_ne {m : Fin 4} (h : m ≠ n) : (countTurn n s).spindle m = s.spindle m := by
  unfold countTurn
  dsimp only
  split
  · exact closeWindow_spindle_ne s n _ _ _ h
  · exact State.setSpindle_spindle_ne s _ h

theorem countTurn_meter_frame :
    { (countTurn n s).meter with flags := s.meter.flags, origin := s.meter.origin } = s.meter := by
  unfold countTurn
  dsimp only
  split
  · rw [closeWindow_meter]
    exact setFlagIf_meter_frame s _ _
  · rfl

theorem countTurn_due_subset : s.due ⊆ (countTurn n s).due := by
  unfold countTurn
  dsimp only
  split
  · rw [closeWindow_due]
    refine List.Subset.trans ?_ (List.subset_append_left _ _)
    generalize (layOf _ _).2 = flag
    cases flag with
    | none => exact List.Subset.refl _
    | some f =>
      simp only [setFlagIf, setFlag]
      split <;> simp
  · exact List.Subset.refl _

end

/-- The full count of a spindle's window closes it with its lay (R44 to R47, R52), in the words of the claim about a turn. -/
theorem countTurn_closes (s s0 : State) (n : Fin 4) (hp : s0.spindle n = s.spindle n) (hl : s0.lineLength = s.lineLength)
    (hg : s0.settings = s.settings) (hm : s0.meter = s.meter) :
    let t := countTurn n s0
    let p := s.spindle n
    let span := s.lineLength - p.startLength
    let turns : Int := p.turns + 1
    let tooLong := 16777215 < (2 * span + turns) / (2 * turns)
    let lay := (layOf span (p.turns + 1)).1
    let out := lay < p.bandLow ∨ p.bandHigh < lay
    let fault := out ∧ s.settings.spindles[n].runLimit ≤ p.bandRun + 1
    s.settings.spindles[n].turnsPerWindow ≤ p.turns + 1 →
      (span ≤ 0 → Flagged .unf (.lay n) s t) ∧ (tooLong → Flagged .ovf (.lay n) s t) ∧
      (0 < span → ¬ tooLong → Unflagged s t) ∧
      t.spindle n = closedSpindle lay (classOf p.bandLow p.bandHigh lay)
        (nextBandRun (classOf p.bandLow p.bandHigh lay) s.settings.spindles[n].runLimit p.bandRun) true s.lineLength p ∧
      (fault → s.settings.layEscalate = true → .raiseCause .lay ∈ t.due) := by
  intro t p span turns tooLong lay out fault hfull
  have ht : t = closeWindow n (p.turns + 1) s.lineLength true s0 := by
    have h := countTurn_of_full s0 n (by rw [hp, State.spindleSettings, hg]; exact hfull)
    rw [hp, hl] at h
    exact h
  have hmeter := closeWindow_meter s0 n (p.turns + 1) s.lineLength true
  have hdue := closeWindow_due s0 n (p.turns + 1) s.lineLength true
  rw [← ht, hp] at hmeter hdue
  have hsub : (setFlagIf (layOf (s.lineLength - (s.spindle n).startLength) (p.turns + 1)).2 (.lay n) s0).due ⊆ t.due := by
    rw [hdue]
    exact List.subset_append_left _ _
  refine ⟨fun h => ?_, fun h => ?_, fun h1 h2 => ?_, ?_, fun hf he => ?_⟩
  · exact setFlagIf_flagged hm hg (layOf_flag_unf h _) hmeter hsub
  · exact setFlagIf_flagged hm hg (layOf_flag_ovf (by exact_mod_cast h)) hmeter hsub
  · exact setFlagIf_unflagged hm (layOf_flag_none h1 (by exact_mod_cast h2)) hmeter
  · rw [ht, closeWindow_spindle_self, hp, State.spindleSettings, hg]
  · rw [hdue]
    apply List.mem_append_right
    have hr := nextBandRun_fault_iff.2 ⟨outOfBand_classOf.2 hf.1, hf.2⟩
    dsimp only
    rw [State.spindleSettings, hg, if_pos ⟨hr, he⟩]
    exact List.mem_singleton_self _

/-- Settles O21: the turn's own expiry at its channel (R11), then the turn in its window. -/
theorem spindleTurnCountsOrCloses : Obligations.SpindleTurnCountsOrCloses := by
  intro n s hb hw
  let s0 := takeExpiry (s.due.contains (.spindleTurn n)) (turnChannel n) .count (s.take (.spindleTurn n))
  have h0 : Only [.due, .channels] s s0 := (take_only s _).after (takeExpiry_only _ _ _ _) (by decide)
  have hspindle (m : Fin 4) : s0.spindle m = s.spindle m := congrArg (fun t : Twist => t.spindles[m]) (h0.2 .twist (by decide))
  have hlen : s0.lineLength = s.lineLength := by unfold State.lineLength; rw [h0.settings_eq, h0.meter_eq]
  have hnode : s0.twistNode = true := by simp [State.twistNode, h0.begun_eq, h0.settings_eq, hb, hw]
  let t := if (s.spindle n).windowOpen = true then countTurn n s0 else s0
  have hx : exec (.spindleTurn n) s = .next t := by
    change Host.Outcome.next (if s0.twistNode && (s0.spindle n).windowOpen then countTurn n s0 else s0) = _
    rw [hnode, hspindle, Bool.true_and]
  have hchan (j : Fin 8) : t.channel j = s0.channel j := by
    dsimp only [t]
    split
    · exact (countTurn_only s0 n).channel_eq j
    · rfl
  have hdue : s0.due ⊆ t.due := by
    dsimp only [t]
    split
    · exact countTurn_due_subset s0 n
    · exact List.Subset.refl _
  have hown : s0.channel (turnChannel n) =
      if s.due.contains (.spindleTurn n) = false ∧ (s.channel (turnChannel n)).expiresIn .count = true
      then (s.channel (turnChannel n)).expired else s.channel (turnChannel n) := takeExpiry_channel_self _ _ _ _
  refine ⟨t, hx, ?_, ?_, ?_, ?_, ?_, ?_, ?_, ?_, ?_, ?_⟩
  · exact .ite ((h0.grow (m := [.due, .channels, .meter, .twist]) (by decide)).step (countTurn_only s0 n) (by decide))
      (h0.grow (by decide))
  · intro m hm
    dsimp only [t]
    split
    · exact (countTurn_spindle_ne s0 n hm).trans (hspindle m)
    · exact hspindle m
  · intro j hj
    rw [hchan]
    exact takeExpiry_channel_ne _ _ _ hj
  · intro hd
    rw [hchan, hown, if_neg (by simp [hd])]
  · intro hd hm hs hi
    have he : (s.channel (turnChannel n)).expiresIn .count = true := by simp [Channel.expiresIn, hm, hs, hi]
    rw [hchan, hown, if_pos ⟨by simpa using hd, he⟩]
    refine ⟨Channel.expired_count hm, fun j hj ht => hdue ?_⟩
    have hs0 : s0 = expireChannel (turnChannel n) .count (s.take (.spindleTurn n)) := if_neg (by simpa using hd)
    rw [hs0, expireChannel_due, if_pos (show ((s.take _).channel _).expiresIn .count = true from he)]
    exact List.mem_append_right _ (mem_chained_of_armed (s.take _) _ hj ht)
  · intro hi
    rw [hchan, hown, if_neg (by simp [Channel.expiresIn, hi])]
  · intro ho
    have ht : t = s0 := if_neg (by simp [ho])
    rw [ht]
    exact ⟨h0.2 .twist (by decide), h0.meter_eq⟩
  · intro ho hlt
    have ht : t = s0.setSpindle n { s0.spindle n with turns := (s0.spindle n).turns + 1, lastTurnLength := s0.lineLength } :=
      (if_pos ho).trans (countTurn_of_lt s0 n (by rw [hspindle, State.spindleSettings, h0.settings_eq]; exact hlt))
    rw [ht, hspindle, hlen]
    exact ⟨State.setSpindle_spindle_self _ _ _, h0.meter_eq⟩
  · dsimp only [t]
    rw [← h0.meter_eq]
    split
    · exact countTurn_meter_frame s0 n
    · rfl
  · intro ho hfull
    have ht : t = countTurn n s0 := if_pos ho
    obtain ⟨hunf, hovf, hnone, hself, hraise⟩ := countTurn_closes s s0 n (hspindle n) hlen h0.settings_eq h0.meter_eq hfull
    rw [ht, hself]
    refine ⟨hunf, hovf, hnone, rfl, rfl, rfl, rfl, rfl, rfl, rfl, ho, fun hin => ?_, fun hout hnf => ?_, fun hf => ⟨?_, hraise hf⟩,
      fun hlt => ?_, fun htop => enterLay_of_top htop _ _ _⟩
    · exact congrArg Prod.fst (nextBandRun_of_within (mt outOfBand_classOf.1 hin))
    · exact congrArg Prod.fst (nextBandRun_of_run (outOfBand_classOf.2 hout) fun hl => hnf ⟨hout, hl⟩)
    · exact congrArg Prod.fst (nextBandRun_of_fault (outOfBand_classOf.2 hf.1) hf.2)
    · refine (enterLay_of_lt hlt _ _ _ _).trans ?_
      simp only [nextBandRun_fault_iff, outOfBand_classOf]
      congr 1
      · cases (s.spindle n).stats.minLay <;> rfl
      · cases (s.spindle n).stats.maxLay <;> rfl

end Sys2Proof.Machine
end

section
/-! SUPPORT. The knot monitor's shared rules: the shaft (R75 to R78) with the edges of the in-draw signal at CH0, and what a change of
the taken code leaves of the row, the window and the mesh. -/

namespace Sys2Proof.Machine

/-! ### The shaft -/

/-- What the phase filter and the judgment of changes hold of the shaft (Table 5-2). -/
def Knot.shaft (k : Knot) : Option (BitVec 3) × Option (BitVec 3) × Nat × Option Sector :=
  (k.takenCode, k.candidate, k.filterTime, k.takenSector)

section
variable (s : State)

theorem pendWindow_shaft : (pendWindow s).knot.shaft = s.knot.shaft := by
  unfold pendWindow
  split <;> rfl

theorem leaveDraw_shaft : (leaveDraw s).knot.shaft = s.knot.shaft := by
  unfold leaveDraw
  dsimp only
  split <;> rfl

theorem enterRow_knot (number : Nat) :
    let e := rowEntry number s.knot
    let l := addHistory e s.knot.history
    let joins := joiningHeads s.settings.suspectThreshold e.missed s.knot.suspects l
    (enterRow s number).knot = { s.knot with
      rowCounter := number, history := l, suspects := s.knot.suspects ||| joins
      stats := countRow e (headCount joins) s.knot.stats } := by
  unfold enterRow
  dsimp only
  split <;> rfl

theorem completeRow_of_inch (h : s.knot.runningView = false) : completeRow s = s.withKnot { s.knot with
    rowCounter := nextRow s.knot.rowCounter
    stats := { s.knot.stats with inchRows := holdInc topCount s.knot.stats.inchRows } } := if_neg (by simp [h])

theorem completeRow_of_view (h : s.knot.runningView = true) : completeRow s = enterRow s (nextRow s.knot.rowCounter) := if_pos h

theorem completeRow_shaft : (completeRow s).knot.shaft = s.knot.shaft := by
  cases h : s.knot.runningView with
  | false => rw [completeRow_of_inch s h]; rfl
  | true => rw [completeRow_of_view s h, Knot.shaft, enterRow_knot]; rfl

theorem computeMesh_knot : (computeMesh s).knot =
    let mesh := (layOf (s.lineLength - s.knot.meshStart) s.settings.meshRows).1
    let cls := classOf s.knot.meshLow s.knot.meshHigh mesh
    let run := nextBandRun cls s.settings.meshRunLimit s.knot.meshRun
    { s.knot with
      lastMesh := some mesh, meshRun := run.1, meshStart := s.lineLength, meshCounted := 0
      stats := countMesh cls.outOfBand run.2 s.knot.stats } := rfl

/-- Which of its five things the mesh window does at a step into S0 (R92). -/
theorem stepMesh_cases (sampled : Bool) :
    (s.knot.mesh = .idle ∧ stepMesh sampled s = s) ∨
    (s.knot.mesh = .waiting ∧
      stepMesh sampled s = s.withKnot { s.knot with mesh := .opened, meshStart := s.lineLength, meshCounted := 0 }) ∨
    (s.knot.mesh = .opened ∧ sampled = false ∧ stepMesh sampled s = s) ∨
    (s.knot.mesh = .opened ∧ sampled = true ∧ s.settings.meshRows ≤ s.knot.meshCounted + 1 ∧
      stepMesh sampled s = computeMesh s) ∨
    (s.knot.mesh = .opened ∧ sampled = true ∧ ¬ s.settings.meshRows ≤ s.knot.meshCounted + 1 ∧
      stepMesh sampled s = s.withKnot { s.knot with meshCounted := s.knot.meshCounted + 1 }) := by
  unfold stepMesh
  cases hm : s.knot.mesh with
  | idle => simp
  | waiting => simp
  | opened =>
    cases sampled with
    | false => simp
    | true => by_cases hr : s.settings.meshRows ≤ s.knot.meshCounted + 1 <;> simp [hr]

theorem stepMesh_shaft (sampled : Bool) : (stepMesh sampled s).knot.shaft = s.knot.shaft := by
  rcases stepMesh_cases s sampled with ⟨_, h⟩ | ⟨_, h⟩ | ⟨_, _, h⟩ | ⟨_, _, _, h⟩ | ⟨_, _, _, h⟩
  · rw [h]
  · rw [h]; rfl
  · rw [h]
  · rw [h, Knot.shaft, computeMesh_knot]; rfl
  · rw [h]; rfl

theorem turnRow_shaft : (turnRow s).knot.shaft = s.knot.shaft := by
  unfold turnRow
  dsimp only
  refine (stepMesh_shaft _ _).trans ?_
  split
  · exact completeRow_shaft s
  · rfl

theorem forwardInto_shaft (k : Sector) : (forwardInto k s).knot.shaft = s.knot.shaft := by
  cases k with
  | s0 => exact turnRow_shaft s
  | s3 => exact pendWindow_shaft s
  | s4 => exact leaveDraw_shaft s
  | s1 => rfl
  | s2 => rfl
  | s5 => rfl

/-! ### Events are only added -/

theorem setFlagIf_due (flag : Option ArithFlag) (o : Origin) : (setFlagIf flag o s).due = s.due ++
    if flag.isSome = true ∧ s.meter.flags.any = false ∧ s.settings.arithEscalate = true then [.raiseCause .arith] else [] := by
  cases flag with
  | none => simp [setFlagIf]
  | some f =>
    unfold setFlagIf setFlag
    cases s.meter.flags.any <;> cases s.settings.arithEscalate <;> simp

theorem abandonRow_due : (abandonRow s).due = s.due ++
    if s.knot.window = .idle then [] else [.channelStopRequest 1, .channelStopRequest 2] := rfl

theorem enterRow_due (number : Nat) : (enterRow s number).due = s.due ++
    if s.settings.consecutiveStop = true ∧ consecutiveMisses (rowEntry number s.knot)
      (addHistory (rowEntry number s.knot) s.knot.history).dropLast ≠ 0 then [.raiseCause .knot] else [] := by
  unfold enterRow
  dsimp only
  split <;> simp

theorem computeMesh_due : (computeMesh s).due =
    (setFlagIf (layOf (s.lineLength - s.knot.meshStart) s.settings.meshRows).2 .mesh s).due ++
      let cls := classOf s.knot.meshLow s.knot.meshHigh (layOf (s.lineLength - s.knot.meshStart) s.settings.meshRows).1
      if (nextBandRun cls s.settings.meshRunLimit s.knot.meshRun).2 = true ∧ s.settings.meshEscalate = true
      then [.raiseCause .mesh] else [] := by
  have hf := setFlagIf_only s (layOf (s.lineLength - s.knot.meshStart) s.settings.meshRows).2 .mesh
  unfold computeMesh
  dsimp only
  rw [State.withKnot_due, hf.settings_eq]
  simp only [Bool.and_eq_true]
  split <;> simp

theorem computeMesh_meter : (computeMesh s).meter =
    (setFlagIf (layOf (s.lineLength - s.knot.meshStart) s.settings.meshRows).2 .mesh s).meter := by
  unfold computeMesh
  dsimp only
  rw [State.withKnot_meter]
  split <;> rfl

theorem completeRow_due_subset : s.due ⊆ (completeRow s).due := by
  cases h : s.knot.runningView with
  | false => rw [completeRow_of_inch s h]; exact List.Subset.refl _
  | true => rw [completeRow_of_view s h, enterRow_due]; exact List.subset_append_left _ _

theorem setFlagIf_due_subset (flag : Option ArithFlag) (o : Origin) : s.due ⊆ (setFlagIf flag o s).due := by
  rw [setFlagIf_due]
  exact List.subset_append_left _ _

theorem computeMesh_due_subset : s.due ⊆ (computeMesh s).due := by
  rw [computeMesh_due]
  exact List.Subset.trans (setFlagIf_due_subset s _ _) (List.subset_append_left _ _)

theorem stepMesh_due_subset (sampled : Bool) : s.due ⊆ (stepMesh sampled s).due := by
  rcases stepMesh_cases s sampled with ⟨_, h⟩ | ⟨_, h⟩ | ⟨_, _, h⟩ | ⟨_, _, _, h⟩ | ⟨_, _, _, h⟩ <;> rw [h]
  case inr.inr.inr.inl => exact computeMesh_due_subset s
  all_goals exact List.Subset.refl _

theorem turnRow_due_subset : s.due ⊆ (turnRow s).due := by
  unfold turnRow
  dsimp only
  refine List.Subset.trans ?_ (stepMesh_due_subset _ _)
  split
  · exact completeRow_due_subset s
  · exact List.Subset.refl _

theorem forwardInto_due_subset (k : Sector) : s.due ⊆ (forwardInto k s).due := by
  cases k with
  | s0 => exact turnRow_due_subset s
  | s3 =>
    change s.due ⊆ (pendWindow s).due
    unfold pendWindow
    split <;> simp
  | s4 =>
    change s.due ⊆ (leaveDraw s).due
    unfold leaveDraw
    dsimp only
    split <;> simp
  | s1 => exact List.Subset.refl _
  | s2 => exact List.Subset.refl _
  | s5 => exact List.Subset.refl _

end

/-! ### The taken sector and the edges of the in-draw signal (R78) -/

section
variable (s : State) (k : Option Sector)

theorem drawEdge_knot (b : Bool) : (drawEdge b s).knot = s.knot := (drawEdge_only s b).knot_eq

theorem moveSector_knot : (moveSector k s).knot = { s.knot with takenSector := k } := by
  unfold moveSector
  dsimp only
  split
  · rfl
  · exact drawEdge_knot _ _

theorem drawEdge_channel_ne (b : Bool) {j : Fin 8} (h : j ≠ 0) : (drawEdge b s).channel j = s.channel j := by
  unfold drawEdge
  split
  · exact inputEdge_channel_ne s h b
  · rfl

theorem moveSector_channel_ne {j : Fin 8} (h : j ≠ 0) : (moveSector k s).channel j = s.channel j := by
  unfold moveSector
  dsimp only
  split
  · rfl
  · exact drawEdge_channel_ne _ _ h

/-- The taken sector stays in S3, or out of it: there is no edge. -/
theorem moveSector_of_same (h : s.knot.takenSector = some .s3 ↔ k = some .s3) :
    moveSector k s = s.withKnot { s.knot with takenSector := k } := by
  unfold moveSector
  refine if_pos ?_
  rw [beq_iff_eq, Bool.eq_iff_iff]
  simpa using h

theorem moveSector_of_enter (h : s.knot.takenSector ≠ some .s3) (hk : k = some .s3) :
    moveSector k s = drawEdge true (s.withKnot { s.knot with takenSector := k }) := by
  subst hk
  unfold moveSector
  have h1 : (s.knot.takenSector == some .s3) = false := by simpa using h
  rw [h1]
  rfl

theorem moveSector_of_leave (h : s.knot.takenSector = some .s3) (hk : k ≠ some .s3) :
    moveSector k s = drawEdge false (s.withKnot { s.knot with takenSector := k }) := by
  unfold moveSector
  have h1 : (k == some .s3) = false := by simpa using hk
  rw [h1, h]
  rfl

end

/-- An active edge starts a measurement at a channel ARMED with trigger INPUT in WIDTH mode (R7, R15). -/
theorem activeEdge_starts_width {s : State} {i : Fin 8} (hm : (s.channel i).mode = some .width)
    (hs : (s.channel i).state = .armed) (ht : (s.channel i).trigger = .input) (hi : (s.channel i).input ≠ .none) :
    (activeEdge i s).channel i = { s.channel i with state := .running, count := 0, divider := 0 } := by
  have hx : (s.channel i).takesTrigger .input = true := Channel.takesTrigger_iff.2 ⟨hs, .inl ⟨rfl, ht, hi⟩⟩
  have ha : activeEdge i s = runChannel i s := if_pos hx
  rw [ha, runChannel_channel_self]
  exact Channel.run_measuring (.inr hm)

/-- An inactive edge ends a measurement in WIDTH mode (R15). -/
theorem inactiveEdge_of_width {s : State} {i : Fin 8} (hm : (s.channel i).mode = some .width)
    (hs : (s.channel i).state = .running) (hi : (s.channel i).input ≠ .none) :
    inactiveEdge i s = (widthExpiry i (s.channel i).count s).emit (captureRow i (s.channel i)) := if_pos ⟨hm, hs, hi⟩

/-- What the edges of the in-draw signal have done at CH0 between two states (R4, R15, R78). -/
def DrawEdgesTaken (s t : State) : Prop :=
  let shaft := (s.channel 0).input = .inDraw ∧ (s.channel 0).mode = some .width
  let full := decide ((s.channel 0).count.toNat = 16777215)
  (s.knot.takenSector ≠ some .s3 → t.knot.takenSector = some .s3 → shaft → (s.channel 0).state = .armed →
    (s.channel 0).trigger = .input → t.channel 0 = { s.channel 0 with state := .running, count := 0, divider := 0 }) ∧
  (s.knot.takenSector = some .s3 → t.knot.takenSector ≠ some .s3 → shaft → (s.channel 0).state = .running →
    t.channel 0 = { s.channel 0 with
      state := .armed, count := 0, capture := (s.channel 0).count, captureSaturated := full } ∧
    .drawWidthCapture (s.channel 0).count full ∈ t.due ∧
    ∀ j : Fin 8, (s.channel j).state = .armed → (s.channel j).trigger = .chain 0 → .channelTrigger j (.chain 0) ∈ t.due) ∧
  ((s.knot.takenSector = some .s3 ↔ t.knot.takenSector = some .s3) → t.channel 0 = s.channel 0)

theorem drawEdge_of_shaft {s : State} (h : (s.channel 0).input = .inDraw) (b : Bool) : drawEdge b s = inputEdge 0 b s := if_pos h

theorem moveSector_drawEdgesTaken (s : State) (k : Option Sector) : DrawEdgesTaken s (moveSector k s) := by
  refine ⟨fun h hk hm hs ht => ?_, fun h hk hm hs => ?_, fun h => ?_⟩
  · obtain ⟨hi, hm⟩ := hm
    rw [moveSector_knot] at hk
    rw [moveSector_of_enter s k h hk, drawEdge_of_shaft (by exact hi)]
    exact activeEdge_starts_width (by exact hm) (by exact hs) (by exact ht) (by rw [State.withKnot_channel, hi]; simp)
  · obtain ⟨hi, hm⟩ := hm
    have hn : (s.channel 0).input ≠ .none := by simp [hi]
    rw [moveSector_knot] at hk
    rw [moveSector_of_leave s k h hk, drawEdge_of_shaft (by exact hi)]
    set s1 := s.withKnot { s.knot with takenSector := k }
    have hx : inputEdge 0 false s1 = (widthExpiry 0 (s.channel 0).count s1).emit (captureRow 0 (s.channel 0)) :=
      inactiveEdge_of_width (s := s1) hm hs hn
    have hw := widthExpiry_due s1 0 hm hs hn (s.channel 0).count
    rw [hx]
    refine ⟨?_, ?_, fun j hj ht => ?_⟩
    · refine (widthExpiry_channel_self s1 0 hm hs hn _).trans ?_
      simp only [Channel.captured, beq_maxCount]
      rfl
    · rw [← beq_maxCount]
      simp [captureRow]
    · rw [State.emit_due, hw]
      exact List.mem_append_left _ (List.mem_append_right _ (mem_chained_of_armed s1 0 hj ht))
  · rw [moveSector_knot] at h
    rw [moveSector_of_same s k h]
    rfl

/-- The edges reach as far as the node differs in nothing that they read or change. -/
theorem DrawEdgesTaken.congr {s s1 t t1 : State} (h : DrawEdgesTaken s1 t1) (hc : s1.channels = s.channels)
    (hk : s1.knot.takenSector = s.knot.takenSector) (hc1 : t.channels = t1.channels)
    (hk1 : t.knot.takenSector = t1.knot.takenSector) (hd : t1.due ⊆ t.due) : DrawEdgesTaken s t := by
  have h0 (i : Fin 8) : s1.channel i = s.channel i := congrArg (fun v => v[i]) hc
  have h1 (i : Fin 8) : t.channel i = t1.channel i := congrArg (fun v => v[i]) hc1
  unfold DrawEdgesTaken at *
  simp only [h0, hk] at h
  rw [hk1, h1]
  obtain ⟨hin, hout, hsame⟩ := h
  refine ⟨hin, fun a b c d => ?_, hsame⟩
  obtain ⟨hch, hcap, htr⟩ := hout a b c d
  exact ⟨hch, hd hcap, fun j hj ht => hd (htr j hj ht)⟩

/-! ### A change of the taken code (R76, R77) -/

/-- Whatever a change of the taken code is, it moves the taken sector once, and what follows leaves the channels and the shaft. -/
theorem takeCode_moves (code : BitVec 3) (s : State) : ∃ (k : Option Sector) (s1 : State),
    s1.channels = s.channels ∧ s1.knot.takenSector = s.knot.takenSector ∧ s1.knot.takenCode = some code ∧
    s1.knot.candidate = none ∧ (takeCode code s).channels = (moveSector k s1).channels ∧
    (moveSector k s1).due ⊆ (takeCode code s).due ∧ (takeCode code s).knot.shaft = (moveSector k s1).knot.shaft := by
  unfold takeCode
  dsimp only
  set s1 := s.withKnot { s.knot with takenCode := some code, candidate := none, filterTime := 0 }
  split
  case h_1 k _ => exact ⟨some k, s1, rfl, rfl, rfl, rfl, rfl, List.Subset.refl _, rfl⟩
  case h_2 k _ =>
    exact ⟨some k, s1, rfl, rfl, rfl, rfl, (forwardInto_only _ k).channels_eq, forwardInto_due_subset _ k, forwardInto_shaft _ k⟩
  case h_3 k _ =>
    exact ⟨some k, s1, rfl, rfl, rfl, rfl, rfl, List.subset_append_left _ _, rfl⟩
  case h_4 =>
    refine ⟨none, s1.withKnot { s1.knot with phaseFaults := holdInc 65535 s1.knot.phaseFaults }, rfl, rfl, rfl, rfl, ?_⟩
    unfold phaseFault
    dsimp only
    split
    · refine ⟨rfl, ?_, rfl⟩
      rw [State.emit_due, abandonRow_due]
      exact List.Subset.trans (List.subset_append_left _ _) (List.subset_append_left _ _)
    · exact ⟨rfl, List.subset_append_left _ _, rfl⟩

theorem takeCode_drawEdgesTaken (code : BitVec 3) (s : State) : DrawEdgesTaken s (takeCode code s) := by
  obtain ⟨k, s1, hc, hk, _, _, hc1, hd, hs⟩ := takeCode_moves code s
  exact (moveSector_drawEdgesTaken s1 k).congr hc hk hc1 (congrArg (fun x => x.2.2.2) hs) hd

theorem takeCode_channel_ne (code : BitVec 3) (s : State) {j : Fin 8} (h : j ≠ 0) :
    (takeCode code s).channel j = s.channel j := by
  obtain ⟨k, s1, hc, _, _, _, hc1, _, _⟩ := takeCode_moves code s
  calc (takeCode code s).channel j = (moveSector k s1).channel j := congrArg (fun v => v[j]) hc1
    _ = s1.channel j := moveSector_channel_ne s1 k h
    _ = s.channel j := congrArg (fun v => v[j]) hc

theorem takeCode_takenCode (code : BitVec 3) (s : State) :
    (takeCode code s).knot.takenCode = some code ∧ (takeCode code s).knot.candidate = none := by
  obtain ⟨k, s1, _, _, ht, hn, _, _, hs⟩ := takeCode_moves code s
  rw [moveSector_knot] at hs
  exact ⟨(congrArg (fun x => x.1) hs).trans ht, (congrArg (fun x => x.2.1) hs).trans hn⟩

/-! ### The pins that a code is read from (log entry 4) -/

section
variable (e : Instr) (code : BitVec 3) (s : State)

theorem showPhase_only : Only [.due, .pins] s (showPhase e code s) :=
  .ite ((take_only s e).grow (by decide))
    ((take_only s e).after (l := [.due, .pins]) ((withPins_only _ _).grow (by decide)) (by decide))

theorem showPhase_pins : (showPhase e code s).pins = if e ∈ s.due then s.pins else { s.pins with phase := code } := by
  unfold showPhase
  by_cases h : e ∈ s.due <;> simp [h]

theorem showPhase_knotNode (h : s.knotNode = true) : (showPhase e code s).knotNode = true := by
  unfold showPhase
  split <;> exact h

end

end Sys2Proof.Machine
end

section
/-! SUPPORT. The claims about a change of the taken code that is no forward step (R76, R77, R81), and about the phase filter, the draw
width and the notices of RUNNING (R75, R78, R91). -/

namespace Sys2Proof.Machine

/-! ### The kinds of a change (Table 5-4) -/

section
variable {before : Option Sector} {code : BitVec 3} {j k : Sector}

theorem phaseChange_of_no_sector (h : sectorOf code = none) : phaseChange before code = .fault := by
  simp [phaseChange, h]

theorem phaseChange_of_none (h : sectorOf code = some k) : phaseChange none code = .establish k := by
  simp [phaseChange, h]

theorem phaseChange_of_forward (h : sectorOf code = some k) (hd : sectorDistance j k = 1) :
    phaseChange (some j) code = .forward k := by
  simp [phaseChange, h, hd]

theorem phaseChange_of_backward (h : sectorOf code = some k) (hd : sectorDistance j k = 5) :
    phaseChange (some j) code = .backward k := by
  simp [phaseChange, h, hd]

theorem phaseChange_of_far (h : sectorOf code = some k) (h2 : 2 ≤ sectorDistance j k) (h4 : sectorDistance j k ≤ 4) :
    phaseChange (some j) code = .fault := by
  have h1 : sectorDistance j k ≠ 1 := by omega
  have h5 : sectorDistance j k ≠ 5 := by omega
  simp [phaseChange, h, h1, h5]

end

/-! ### A row abandoned (R81) -/

/-- What an abandoned row leaves of the knot monitor. -/
def RowAbandoned (s t : State) : Prop :=
  t.knot.rowValid = false ∧ t.knot.rowOutcome = .none ∧ t.knot.rowMissed = 0 ∧ t.knot.window = .idle ∧
    t.knot.mesh = (if s.knot.mesh = .opened then MeshState.waiting else s.knot.mesh) ∧
    t.knot.rowCounter = s.knot.rowCounter ∧ t.knot.stats = s.knot.stats ∧ t.knot.history = s.knot.history ∧
    (s.knot.window ≠ .idle → .channelStopRequest 1 ∈ t.due ∧ .channelStopRequest 2 ∈ t.due)

theorem abandonRow_rowAbandoned {s u : State} {a b : Option (BitVec 3)} {c f : Nat} {d : Option Sector}
    (h : u.knot = { s.knot with takenCode := a, candidate := b, filterTime := c, takenSector := d, phaseFaults := f }) :
    RowAbandoned s (abandonRow u) := by
  unfold RowAbandoned
  rw [abandonRow_due, h]
  refine ⟨rfl, rfl, rfl, rfl, ?_, ?_, ?_, ?_, fun hw => ?_⟩
  · simp [abandonRow, h]
  · simp [abandonRow, h]
  · simp [abandonRow, h]
  · simp [abandonRow, h]
  · rw [if_neg hw]
    simp

theorem RowAbandoned.emit {s t : State} (h : RowAbandoned s t) (l : List Instr) : RowAbandoned s (t.emit l) := by
  obtain ⟨h1, h2, h3, h4, h5, h6, h7, h8, hstop⟩ := h
  refine ⟨h1, h2, h3, h4, h5, h6, h7, h8, fun hw => ?_⟩
  obtain ⟨hs1, hs2⟩ := hstop hw
  exact ⟨List.mem_append_left _ hs1, List.mem_append_left _ hs2⟩

/-! ### What a change of the taken code leaves, by its kind -/

section
variable {s : State} {code : BitVec 3} {k : Sector}

theorem takeCode_of_establish (h : phaseChange s.knot.takenSector code = .establish k) : (takeCode code s).knot =
    { s.knot with takenCode := some code, candidate := none, filterTime := 0, takenSector := some k } := by
  unfold takeCode
  dsimp only
  rw [h]
  exact moveSector_knot _ _

theorem takeCode_of_forward (h : phaseChange s.knot.takenSector code = .forward k) : takeCode code s = forwardInto k
    (moveSector (some k) (s.withKnot { s.knot with takenCode := some code, candidate := none, filterTime := 0 })) := by
  unfold takeCode
  dsimp only
  rw [h]

theorem takeCode_eq_abandonRow (h : phaseChange s.knot.takenSector code = .backward k) : takeCode code s = abandonRow
    (moveSector (some k) (s.withKnot { s.knot with takenCode := some code, candidate := none, filterTime := 0 })) := by
  unfold takeCode
  dsimp only
  rw [h]

theorem takeCode_of_backward (h : phaseChange s.knot.takenSector code = .backward k) :
    (takeCode code s).knot.takenSector = some k ∧ (takeCode code s).knot.phaseFaults = s.knot.phaseFaults ∧
      RowAbandoned s (takeCode code s) := by
  let u := moveSector (some k) (s.withKnot { s.knot with takenCode := some code, candidate := none, filterTime := 0 })
  have hk : u.knot = { s.knot with takenCode := some code, candidate := none, filterTime := 0, takenSector := some k } :=
    moveSector_knot _ _
  have ht : takeCode code s = abandonRow u := takeCode_eq_abandonRow h
  rw [ht]
  refine ⟨?_, ?_, abandonRow_rowAbandoned hk⟩
  · change u.knot.takenSector = _
    rw [hk]
  · change u.knot.phaseFaults = _
    rw [hk]

theorem takeCode_eq_phaseFault (h : phaseChange s.knot.takenSector code = .fault) : takeCode code s =
    phaseFault (s.withKnot { s.knot with takenCode := some code, candidate := none, filterTime := 0 }) := by
  unfold takeCode
  dsimp only
  rw [h]

theorem takeCode_of_fault (h : phaseChange s.knot.takenSector code = .fault) :
    (takeCode code s).knot.takenSector = none ∧
      (takeCode code s).knot.phaseFaults = holdInc 65535 s.knot.phaseFaults ∧ RowAbandoned s (takeCode code s) ∧
      (s.knot.runningView = true → .raiseCause .phase ∈ (takeCode code s).due) := by
  let u := moveSector none (s.withKnot { s.knot with
    takenCode := some code, candidate := none, filterTime := 0, phaseFaults := holdInc 65535 s.knot.phaseFaults })
  have hk : u.knot = { s.knot with
      takenCode := some code, candidate := none, filterTime := 0, takenSector := none
      phaseFaults := holdInc 65535 s.knot.phaseFaults } := moveSector_knot _ none
  have ha : RowAbandoned s (abandonRow u) := abandonRow_rowAbandoned hk
  have hsector : (abandonRow u).knot.takenSector = none := by
    change u.knot.takenSector = _
    rw [hk]
  have hfaults : (abandonRow u).knot.phaseFaults = holdInc 65535 s.knot.phaseFaults := by
    change u.knot.phaseFaults = _
    rw [hk]
  have hview : u.knot.runningView = s.knot.runningView := by rw [hk]
  cases hv : s.knot.runningView with
  | true =>
    have ht : takeCode code s = (abandonRow u).emit [.raiseCause .phase] :=
      (takeCode_eq_phaseFault h).trans (if_pos (hview.trans hv))
    rw [ht]
    exact ⟨hsector, hfaults, ha.emit _, fun _ => by simp⟩
  | false =>
    have ht : takeCode code s = abandonRow u :=
      (takeCode_eq_phaseFault h).trans (if_neg (Bool.eq_false_iff.1 (hview.trans hv)))
    rw [ht]
    exact ⟨hsector, hfaults, ha, fun hr => absurd hr (by decide)⟩

end

/-! ### The change as a command (R76) -/

section
variable {s : State} {code : BitVec 3}

theorem State.knotNode_of (hb : s.begun = true) (hk : s.settings.knot = true) : s.knotNode = true := by
  simp [State.knotNode, hb, hk]

theorem exec_phaseCodeChange (hn : s.knotNode = true) (ht : s.knot.takenCode ≠ some code) :
    exec (.phaseCodeChange code) s = .next (takeCode code (showPhase (.phaseCodeChange code) code s)) := by
  have hk : (showPhase (.phaseCodeChange code) code s).knot = s.knot := (showPhase_only _ code s).knot_eq
  refine congrArg Host.Outcome.next (if_pos ⟨showPhase_knotNode _ code s hn, ?_⟩)
  rw [hk]
  exact ht

theorem showPhase_takeCode_only (e : Instr) :
    Only [.due, .pins, .channels, .meter, .knot] s (takeCode code (showPhase e code s)) :=
  (showPhase_only e code s).after ((takeCode_only _ code).grow (by decide)) (by decide)

theorem showPhase_takeCode_pins (e : Instr) : (takeCode code (showPhase e code s)).pins =
    if e ∈ s.due then s.pins else { s.pins with phase := code } :=
  (takeCode_only _ code).pins_eq.trans (showPhase_pins e code s)

theorem showPhase_takeCode_drawEdgesTaken (e : Instr) : DrawEdgesTaken s (takeCode code (showPhase e code s)) :=
  (takeCode_drawEdgesTaken code _).congr (showPhase_only e code s).channels_eq
    (congrArg Knot.takenSector (showPhase_only e code s).knot_eq) rfl rfl (List.Subset.refl _)

theorem showPhase_takeCode_channel_ne (e : Instr) {j : Fin 8} (h : j ≠ 0) :
    (takeCode code (showPhase e code s)).channel j = s.channel j :=
  (takeCode_channel_ne code _ h).trans ((showPhase_only e code s).channel_eq j)

end

/-- Settles O30: the change by its kind, with the edges that every change makes. -/
theorem phaseChangesAreJudged : Obligations.PhaseChangesAreJudged := by
  intro code s hb hknot htaken
  let s0 := showPhase (.phaseCodeChange code) code s
  have hk : s0.knot = s.knot := (showPhase_only _ code s).knot_eq
  have hfault (h : phaseChange s.knot.takenSector code = .fault) := takeCode_of_fault (s := s0) (code := code) (by rw [hk]; exact h)
  rw [RowAbandoned, hk] at hfault
  refine ⟨takeCode code s0, exec_phaseCodeChange (State.knotNode_of hb hknot) htaken, showPhase_takeCode_only _,
    showPhase_takeCode_drawEdgesTaken _, showPhase_takeCode_pins _, fun j hj => showPhase_takeCode_channel_ne _ hj,
    (takeCode_takenCode code s0).1, (takeCode_takenCode code s0).2, fun h => hfault (phaseChange_of_no_sector h), ?_, ?_, ?_⟩
  · intro k hn hs
    have h : phaseChange s0.knot.takenSector code = .establish k := by rw [hk, hn]; exact phaseChange_of_none hs
    rw [takeCode_of_establish h, hk]
  · intro j k hj hs hd
    have h : phaseChange s0.knot.takenSector code = .backward k := by rw [hk, hj]; exact phaseChange_of_backward hs hd
    have hback := takeCode_of_backward h
    rw [RowAbandoned, hk] at hback
    exact hback
  · intro j k hj hs h2 h4
    exact hfault (by rw [hj]; exact phaseChange_of_far hs h2 h4)

/-! ### The phase filter, the draw width and the notices (R75, R78, R91) -/

section
variable {s : State} {code : BitVec 3}

theorem phaseCandidate_effect (hn : s.knotNode = true) :
    Completes (.phaseCandidate code) s (fun t =>
      Only [.due, .pins, .channels, .meter, .knot] s t ∧
      t.pins = (if .phaseCandidate code ∈ s.due then s.pins else { s.pins with phase := code }) ∧
      (s.knot.takenCode = some code → t.knot = { s.knot with candidate := none, filterTime := 0 }) ∧
      (s.knot.takenCode ≠ some code → s.settings.phaseFilter = 0 → t.knot.takenCode = some code ∧ t.knot.candidate = none) ∧
      (s.knot.takenCode ≠ some code → s.settings.phaseFilter ≠ 0 → s.knot.candidate = some code → t.knot = s.knot) ∧
      (s.knot.takenCode ≠ some code → s.settings.phaseFilter ≠ 0 → s.knot.candidate ≠ some code →
        t.knot = { s.knot with candidate := some code, filterTime := 0 })) := by
  let s0 := showPhase (.phaseCandidate code) code s
  have h0 : Only [.due, .pins] s s0 := showPhase_only _ code s
  have hw (x : Knot) : Only [.due, .pins, .channels, .meter, .knot] s (s0.withKnot x) :=
      h0.after ((withKnot_only s0 x).grow (by decide)) (by decide)
  have hx : exec (.phaseCandidate code) s = .next (
      if s.knot.takenCode = some code then s0.withKnot { s.knot with candidate := none, filterTime := 0 }
      else if s.settings.phaseFilter = 0 then takeCode code s0
      else if s.knot.candidate = some code then s0
      else s0.withKnot { s.knot with candidate := some code, filterTime := 0 }) := by
    have hnode : (!s0.knotNode) = false := by rw [showPhase_knotNode _ code s hn]; rfl
    rw [← h0.knot_eq, ← h0.settings_eq]
    exact congrArg Host.Outcome.next (if_neg (by rw [hnode]; decide))
  refine ⟨_, hx, ?_, ?_, fun h => ?_, fun h hf => ?_, fun h hf hc => ?_, fun h hf hc => ?_⟩
  · exact .ite (hw _) (.ite (showPhase_takeCode_only _) (.ite (h0.grow (by decide)) (hw _)))
  · rw [← showPhase_pins]
    split
    · rfl
    split
    · exact (takeCode_only s0 code).pins_eq
    split <;> rfl
  · rw [if_pos h]
    rfl
  · rw [if_neg h, if_pos hf]
    exact takeCode_takenCode code s0
  · rw [if_neg h, if_neg hf, if_pos hc]
    exact h0.knot_eq
  · rw [if_neg h, if_neg hf, if_neg hc]
    rfl

/-- What a capture of the draw width has done at the channels before the knot monitor takes it (R15; log entry 14). -/
theorem drawWidthCapture_effect (hn : s.knotNode = true) (capture : BitVec 24) (saturated : Bool) :
    Completes (.drawWidthCapture capture saturated) s (fun t => Only [.due, .channels, .knot] s t ∧
      (∀ j : Fin 8, j ≠ 0 → t.channel j = s.channel j) ∧
      t.knot = { s.knot with drawWidth := capture, drawSaturated := saturated } ∧
      (s.due = [] → (s.channel 0).mode = some .width → (s.channel 0).state = .running → (s.channel 0).input ≠ .none →
        t.channel 0 = { s.channel 0 with
        state := .armed, count := 0, capture := capture, captureSaturated := decide (capture.toNat = 16777215) })) := by
  let isCapture := execDrawWidthCapture.isCapture
  let s0 := if s.due.contains (.drawWidthCapture capture saturated) then s.take (.drawWidthCapture capture saturated)
    else if s.due.any isCapture then execDrawWidthCapture.correct capture (s.takeLike isCapture)
    else widthExpiry 0 capture s
  have hcorrect : Only [.due, .channels] s (execDrawWidthCapture.correct capture (s.takeLike isCapture)) :=
    (takeLike_only s _).after (l := [.due, .channels]) ((setChannel_only _ _ _).grow (by decide)) (by decide)
  have h0 : Only [.due, .channels] s s0 := .ite ((take_only s _).grow (by decide)) (.ite hcorrect (widthExpiry_only s 0 capture))
  have hne (j : Fin 8) (hj : j ≠ 0) : s0.channel j = s.channel j := by
    dsimp only [s0]
    split
    · rfl
    split
    · exact State.setChannel_channel_ne _ _ hj
    · exact widthExpiry_channel_ne s hj capture
  have hnode : s0.knotNode = true := by
    unfold State.knotNode
    rw [h0.begun_eq, h0.settings_eq]
    exact hn
  refine ⟨s0.withKnot { s0.knot with drawWidth := capture, drawSaturated := saturated },
    congrArg Host.Outcome.next (if_pos hnode), ?_, hne, by rw [h0.knot_eq]; rfl, fun hd hm hs hi => ?_⟩
  · exact (h0.grow (m := [.due, .channels, .knot]) (by decide)).step (withKnot_only _ _) (by decide)
  · have hs0 : s0 = widthExpiry 0 capture s := by simp [s0, hd]
    change s0.channel 0 = _
    rw [hs0, widthExpiry_channel_self s 0 hm hs hi]
    simp only [Channel.captured, beq_maxCount]

end

/-- Settles O33: each event at the knot monitor by its own lemma. -/
theorem knotFiltersCodesAndTakesNotices : Obligations.KnotFiltersCodesAndTakesNotices := by
  intro code capture saturated s hb hknot
  have hn := State.knotNode_of hb hknot
  refine ⟨phaseCandidate_effect hn, drawWidthCapture_effect hn capture saturated, ?_, ?_⟩
  · exact ⟨_, congrArg Host.Outcome.next (if_pos hn),
      (take_only s _).after (l := [.due, .knot]) ((withKnot_only _ _).grow (by decide)) (by decide), rfl⟩
  · exact ⟨_, congrArg Host.Outcome.next (if_pos hn),
      (take_only s _).after (l := [.due, .knot]) ((withKnot_only _ _).grow (by decide)) (by decide), rfl⟩

end Sys2Proof.Machine
end

section
/-! SUPPORT. The claim about forward steps (R78 to R80, R82, R86, R88 to R90, R92 to R94): sets of heads, a sampled row entered, the
mesh window at a step into S0, and the step by the sector that it enters. -/

namespace Sys2Proof.Machine

/-! ### Sets of heads -/

theorem getLsbD_foldl_heads (p : Fin 32 → Bool) (l : List (Fin 32)) (m : BitVec 32) (x : Fin 32) :
    (l.foldl (fun m h => if p h then m ||| ((1 : BitVec 32) <<< h.val) else m) m).getLsbD x =
      (m.getLsbD x || (decide (x ∈ l) && p x)) := by
  induction l generalizing m with
  | nil => simp
  | cons h l ih =>
    have hbit : ((1 : BitVec 32) <<< h.val).getLsbD x = decide (x = h) := by
      change (BitVec.twoPow 32 h.val).getLsbD x = _
      rw [BitVec.getLsbD_twoPow]
      simp [Fin.ext_iff, eq_comm]
    have hm : (if p h then m ||| ((1 : BitVec 32) <<< h.val) else m).getLsbD x = (m.getLsbD x || (decide (x = h) && p h)) := by
      cases p h
      · simp only [Bool.false_eq_true, if_false, Bool.and_false, Bool.or_false]
      · simp only [if_true, BitVec.getLsbD_or, hbit, Bool.and_true]
    rw [List.foldl_cons, ih, hm, Bool.or_assoc]
    by_cases hx : x = h
    · subst hx
      cases p x <;> simp
    · simp [hx]

theorem headSet_getLsbD (p : Fin 32 → Bool) (x : Fin 32) : (headSet p).getLsbD x = p x := by
  rw [headSet, getLsbD_foldl_heads]
  simp

theorem headCount_eq (m : BitVec 32) : headCount m = ((List.finRange 32).filter (fun h : Fin 32 => m.getLsbD h)).length := by
  unfold headCount
  rw [List.bind_eq_flatMap]
  simp only [List.pure_def, ← List.map_eq_flatMap, List.filter_map, List.length_map]
  rfl

theorem headCount_headSet (p : Fin 32 → Bool) : headCount (headSet p) = ((List.finRange 32).filter p).length := by
  rw [headCount_eq]
  simp only [headSet_getLsbD]

theorem headCount_le (m : BitVec 32) : headCount m ≤ 32 := by
  rw [headCount_eq]
  exact (List.length_filter_le _ _).trans (by simp)

theorem exists_head_iff (m : BitVec 32) : m ≠ 0 ↔ ∃ h : Fin 32, m.getLsbD h = true := by
  constructor
  · intro hm
    by_contra hn
    refine hm (BitVec.eq_of_getLsbD_eq fun i hi => ?_)
    have hf : ¬ m.getLsbD i = true := fun hb => hn ⟨⟨i, hi⟩, hb⟩
    simpa using hf
  · rintro ⟨h, hb⟩ rfl
    simp at hb

theorem addCount_of_le {a b : Nat} (h : a + b ≤ 4294967295) : addCount a b = a + b := if_pos h

/-! ### A sampled row (R88 to R90) -/

/-- A head is missed again: in a seen row, and in the newest seen row before it (R90). -/
theorem consecutiveMisses_ne_zero (e : RowEntry) (l : List RowEntry) : consecutiveMisses e l ≠ 0 ↔
    e.unseen = false ∧ ∃ f, (l.filter (fun f => !f.unseen)).getLast? = some f ∧
      ∃ h : Fin 32, e.missed.getLsbD h = true ∧ f.missed.getLsbD h = true := by
  have hfind : l.reverse.find? (fun f => !f.unseen) = (l.filter (fun f => !f.unseen)).getLast? := by
    rw [← List.head?_filter, List.filter_reverse, List.head?_reverse]
  unfold consecutiveMisses
  rw [hfind]
  cases hu : e.unseen with
  | true => simp
  | false =>
    cases hl : (l.filter (fun f => !f.unseen)).getLast? with
    | none => simp
    | some f =>
      have hb := exists_head_iff (e.missed &&& f.missed)
      simp only [BitVec.getLsbD_and, Bool.and_eq_true] at hb
      simpa using hb

theorem countRow_of_lt {t : KnotCounts} (h : t.sampledRows < 4294967295) (e : RowEntry) (joins : Nat) :
    countRow e joins t = { t with
      sampledRows := t.sampledRows + 1
      unseenRows := if e.unseen then t.unseenRows + 1 else t.unseenRows
      missedKnots := if e.unseen then t.missedKnots else addCount t.missedKnots (headCount e.missed)
      headFaults := addCount t.headFaults joins } := if_neg (Nat.not_le.2 h)

/-! ### What a row and the mesh window hold of the knot monitor -/

/-- What a completed row enters (R80, R88, R89). -/
def Knot.rowPart (k : Knot) : Nat × List RowEntry × BitVec 32 × Nat × Nat × Nat × Nat × Nat :=
  (k.rowCounter, k.history, k.suspects, k.stats.sampledRows, k.stats.unseenRows, k.stats.inchRows, k.stats.missedKnots,
    k.stats.headFaults)

/-- What the mesh window reads and changes (R92 to R94). -/
def Knot.meshPart (k : Knot) : MeshState × Int × Nat × Option Nat × Nat × Nat × Nat × Nat × Nat × Nat :=
  (k.mesh, k.meshStart, k.meshCounted, k.lastMesh, k.meshRun, k.meshLow, k.meshHigh, k.stats.meshWindows,
    k.stats.meshOutOfBand, k.stats.meshFaults)

section
variable (s : State)

theorem completeRow_meshPart : (completeRow s).knot.meshPart = s.knot.meshPart := by
  cases h : s.knot.runningView with
  | false => rw [completeRow_of_inch s h]; rfl
  | true =>
    rw [completeRow_of_view s h, Knot.meshPart, enterRow_knot]
    dsimp only [countRow]
    split <;> rfl

theorem computeMesh_rowPart : (computeMesh s).knot.rowPart = s.knot.rowPart := by
  rw [Knot.rowPart, computeMesh_knot]
  dsimp only [countMesh]
  split <;> rfl

theorem stepMesh_rowPart (sampled : Bool) : (stepMesh sampled s).knot.rowPart = s.knot.rowPart := by
  rcases stepMesh_cases s sampled with ⟨_, h⟩ | ⟨_, h⟩ | ⟨_, _, h⟩ | ⟨_, _, _, h⟩ | ⟨_, _, _, h⟩ <;> rw [h]
  case inr.inr.inr.inl => exact computeMesh_rowPart s
  all_goals rfl

theorem stepMesh_stats_of_not_sampled : (stepMesh false s).knot.stats = s.knot.stats := by
  rcases stepMesh_cases s false with ⟨_, h⟩ | ⟨_, h⟩ | ⟨_, _, h⟩ | ⟨_, hf, _⟩ | ⟨_, hf, _⟩
  · rw [h]
  · rw [h]; rfl
  · rw [h]
  · cases hf
  · cases hf

/-- The mesh window gives no events but ARITH and MESH. -/
theorem stepMesh_mem_due {sampled : Bool} {e : Instr} (he : e ∈ (stepMesh sampled s).due) :
    e ∈ s.due ∨ e = .raiseCause .arith ∨ e = .raiseCause .mesh := by
  rcases stepMesh_cases s sampled with ⟨_, h⟩ | ⟨_, h⟩ | ⟨_, _, h⟩ | ⟨_, _, _, h⟩ | ⟨_, _, _, h⟩ <;> rw [h] at he
  case inr.inr.inr.inl =>
    rw [computeMesh_due, setFlagIf_due] at he
    simp only [List.mem_append, List.mem_ite_nil_right, List.mem_singleton] at he
    tauto
  all_goals exact .inl he

end

/-! ### The mesh window at a step into S0 (R92 to R94) -/

theorem countMesh_of_lt {t : KnotCounts} (h : t.meshWindows < 4294967295) (outOfBand fault : Bool) :
    countMesh outOfBand fault t = { t with
      meshWindows := t.meshWindows + 1
      meshOutOfBand := if outOfBand then t.meshOutOfBand + 1 else t.meshOutOfBand
      meshFaults := if fault then t.meshFaults + 1 else t.meshFaults } := if_neg (Nat.not_le.2 h)

/-- What the mesh window of a knot monitor at a line length has become in a state, in the words of the claim. -/
def MeshStepped (sampled : Prop) (g : Settings) (length : Int) (k : Knot) (t : State) : Prop :=
  let span := length - k.meshStart
  let mesh := (layOf span g.meshRows).1
  let out := mesh < k.meshLow ∨ k.meshHigh < mesh
  let fault := out ∧ g.meshRunLimit ≤ k.meshRun + 1
  let meshed := sampled ∧ k.mesh = .opened ∧ g.meshRows ≤ k.meshCounted + 1
  (k.mesh = .waiting → t.knot.mesh = .opened ∧ t.knot.meshStart = length ∧ t.knot.meshCounted = 0) ∧
  (k.mesh = .idle → t.knot.mesh = .idle) ∧
  (k.mesh = .opened → t.knot.mesh = .opened ∧ (¬ sampled → t.knot.meshCounted = k.meshCounted) ∧
    (sampled → ¬ meshed → t.knot.meshCounted = k.meshCounted + 1)) ∧
  (¬ meshed → t.knot.lastMesh = k.lastMesh ∧ t.knot.meshRun = k.meshRun ∧
    t.knot.stats.meshWindows = k.stats.meshWindows ∧ t.knot.stats.meshOutOfBand = k.stats.meshOutOfBand ∧
    t.knot.stats.meshFaults = k.stats.meshFaults) ∧
  (meshed → t.knot.lastMesh = some mesh ∧ t.knot.meshStart = length ∧ t.knot.meshCounted = 0 ∧
    (¬ out → t.knot.meshRun = 0) ∧ (out → ¬ fault → t.knot.meshRun = k.meshRun + 1) ∧
    (fault → t.knot.meshRun = 0 ∧ (g.meshEscalate = true → .raiseCause .mesh ∈ t.due)) ∧
    (k.stats.meshWindows < 4294967295 → t.knot.stats.meshWindows = k.stats.meshWindows + 1 ∧
      t.knot.stats.meshOutOfBand = (if out then k.stats.meshOutOfBand + 1 else k.stats.meshOutOfBand) ∧
      t.knot.stats.meshFaults = (if fault then k.stats.meshFaults + 1 else k.stats.meshFaults)))

theorem MeshStepped.congr {sampled : Prop} {g : Settings} {length : Int} {k k1 : Knot} {t : State}
    (h : MeshStepped sampled g length k1 t) (hk : k1.meshPart = k.meshPart) : MeshStepped sampled g length k t := by
  simp only [Knot.meshPart, Prod.mk.injEq] at hk
  obtain ⟨h1, h2, h3, h4, h5, h6, h7, h8, h9, h10⟩ := hk
  simpa only [MeshStepped, h1, h2, h3, h4, h5, h6, h7, h8, h9, h10] using h

theorem computeMesh_meshStepped (s : State) (hm : s.knot.mesh = .opened) (hr : s.settings.meshRows ≤ s.knot.meshCounted + 1) :
    MeshStepped True s.settings s.lineLength s.knot (computeMesh s) := by
  have hdue := computeMesh_due s
  rw [MeshStepped, computeMesh_knot]
  refine ⟨fun h => absurd (hm.symm.trans h) (by decide), fun h => absurd (hm.symm.trans h) (by decide),
    fun _ => ⟨hm, fun h => absurd trivial h, fun _ h => absurd ⟨trivial, hm, hr⟩ h⟩, fun h => absurd ⟨trivial, hm, hr⟩ h,
    fun _ => ⟨rfl, rfl, rfl, fun hin => ?_, fun hout hn => ?_, fun hf => ⟨?_, fun he => ?_⟩, fun hlt => ?_⟩⟩
  · exact congrArg Prod.fst (nextBandRun_of_within (mt outOfBand_classOf.1 hin))
  · exact congrArg Prod.fst (nextBandRun_of_run (outOfBand_classOf.2 hout) fun hl => hn ⟨hout, hl⟩)
  · exact congrArg Prod.fst (nextBandRun_of_fault (outOfBand_classOf.2 hf.1) hf.2)
  · rw [hdue]
    apply List.mem_append_right
    dsimp only
    rw [if_pos ⟨nextBandRun_fault_iff.2 ⟨outOfBand_classOf.2 hf.1, hf.2⟩, he⟩]
    exact List.mem_singleton_self _
  · dsimp only
    rw [countMesh_of_lt hlt]
    simp only [nextBandRun_fault_iff, outOfBand_classOf]
    exact ⟨trivial, trivial, trivial⟩

theorem stepMesh_meshStepped (s : State) (sampled : Bool) :
    MeshStepped (sampled = true) s.settings s.lineLength s.knot (stepMesh sampled s) := by
  rcases stepMesh_cases s sampled with ⟨hm, h⟩ | ⟨hm, h⟩ | ⟨hm, hs, h⟩ | ⟨hm, hs, hr, h⟩ | ⟨hm, hs, hr, h⟩ <;> rw [h]
  · simp [MeshStepped, hm]
  · simp [MeshStepped, hm]
  · simp [MeshStepped, hm, hs]
  · have ht : (sampled = true) = True := eq_true hs
    rw [ht]
    exact computeMesh_meshStepped s hm hr
  · simp [MeshStepped, hm, hs, hr]

/-! ### The arithmetic status of a mesh (R93) -/

section
variable (s : State) (sampled : Bool)

theorem stepMesh_meter_of_not (h : ¬ (sampled = true ∧ s.knot.mesh = .opened ∧ s.settings.meshRows ≤ s.knot.meshCounted + 1)) :
    (stepMesh sampled s).meter = s.meter := by
  rcases stepMesh_cases s sampled with ⟨_, hx⟩ | ⟨_, hx⟩ | ⟨_, _, hx⟩ | ⟨hm, hs, hr, _⟩ | ⟨_, _, _, hx⟩
  · rw [hx]
  · rw [hx]; rfl
  · rw [hx]
  · exact absurd ⟨hs, hm, hr⟩ h
  · rw [hx]; rfl

theorem stepMesh_of_meshed (h : sampled = true ∧ s.knot.mesh = .opened ∧ s.settings.meshRows ≤ s.knot.meshCounted + 1) :
    stepMesh sampled s = computeMesh s := by
  obtain ⟨rfl, hm, hr⟩ := h
  simp [stepMesh, hm, hr]

theorem stepMesh_meter_frame :
    { (stepMesh sampled s).meter with flags := s.meter.flags, origin := s.meter.origin } = s.meter := by
  by_cases h : sampled = true ∧ s.knot.mesh = .opened ∧ s.settings.meshRows ≤ s.knot.meshCounted + 1
  · rw [stepMesh_of_meshed s sampled h, computeMesh_meter]
    exact setFlagIf_meter_frame s _ _
  · rw [stepMesh_meter_of_not s sampled h]

end

/-! ### A step into S0 (R79) -/

/-- The node as the mesh window finds it at a step into S0: a VALID row has been completed. -/
def State.rowClosed (s : State) : State := if s.knot.rowValid then completeRow s else s

section
variable (s : State)

theorem rowClosed_only : Only [.due, .knot] s s.rowClosed := .ite (completeRow_only s) (.refl _ s)

theorem rowClosed_meshPart : s.rowClosed.knot.meshPart = s.knot.meshPart := by
  unfold State.rowClosed
  split
  · exact completeRow_meshPart s
  · rfl

theorem rowClosed_lineLength : s.rowClosed.lineLength = s.lineLength := by
  unfold State.lineLength
  rw [(rowClosed_only s).settings_eq, (rowClosed_only s).meter_eq]

theorem turnRow_eq : turnRow s = (stepMesh (s.knot.rowValid && s.knot.runningView) s.rowClosed).withKnot
    { (stepMesh (s.knot.rowValid && s.knot.runningView) s.rowClosed).knot with
      rowValid := true, rowOutcome := .none, rowMissed := 0 } := rfl

theorem turnRow_meshStepped : MeshStepped (s.knot.rowValid = true ∧ s.knot.runningView = true) s.settings s.lineLength s.knot
    (turnRow s) := by
  have h := stepMesh_meshStepped s.rowClosed (s.knot.rowValid && s.knot.runningView)
  rw [Bool.and_eq_true, (rowClosed_only s).settings_eq, rowClosed_lineLength] at h
  exact h.congr (rowClosed_meshPart s)

theorem turnRow_rowPart : (turnRow s).knot.rowPart = s.rowClosed.knot.rowPart :=
  stepMesh_rowPart s.rowClosed (s.knot.rowValid && s.knot.runningView)

/-- Whether the mesh is computed does not change with the row that has just been completed. -/
theorem rowClosed_meshed_iff : ((s.knot.rowValid && s.knot.runningView) = true ∧ s.rowClosed.knot.mesh = .opened ∧
      s.rowClosed.settings.meshRows ≤ s.rowClosed.knot.meshCounted + 1) ↔
    (s.knot.rowValid = true ∧ s.knot.runningView = true) ∧ s.knot.mesh = .opened ∧
      s.settings.meshRows ≤ s.knot.meshCounted + 1 := by
  have h := rowClosed_meshPart s
  simp only [Knot.meshPart, Prod.mk.injEq] at h
  obtain ⟨hm, _, hc, _⟩ := h
  rw [Bool.and_eq_true, hm, hc, (rowClosed_only s).settings_eq]

theorem turnRow_meter_frame :
    { (turnRow s).meter with flags := s.meter.flags, origin := s.meter.origin } = s.meter := by
  rw [← (rowClosed_only s).meter_eq]
  exact stepMesh_meter_frame s.rowClosed _

/-- The arithmetic status after a step into S0: only a mesh computed asks for a flag (R93). -/
theorem turnRow_status :
    let span := s.lineLength - s.knot.meshStart
    let tooLong := 16777215 < (2 * span + s.settings.meshRows) / (2 * s.settings.meshRows)
    let meshed := (s.knot.rowValid = true ∧ s.knot.runningView = true) ∧ s.knot.mesh = .opened ∧
      s.settings.meshRows ≤ s.knot.meshCounted + 1
    (¬ meshed ∨ (0 < span ∧ ¬ tooLong) → Unflagged s (turnRow s)) ∧
    (meshed → (span ≤ 0 → Flagged .unf .mesh s (turnRow s)) ∧ (tooLong → Flagged .ovf .mesh s (turnRow s))) := by
  intro span tooLong meshed
  have hmeter : s.rowClosed.meter = s.meter := (rowClosed_only s).meter_eq
  by_cases hm : meshed
  · have hstep := stepMesh_of_meshed _ _ ((rowClosed_meshed_iff s).2 hm)
    have hpart := rowClosed_meshPart s
    simp only [Knot.meshPart, Prod.mk.injEq] at hpart
    obtain ⟨_, hstart, _⟩ := hpart
    have hflag : (turnRow s).meter = (setFlagIf (layOf span s.settings.meshRows).2 .mesh s.rowClosed).meter := by
      rw [turnRow_eq, State.withKnot_meter, hstep, computeMesh_meter, rowClosed_lineLength, hstart,
        (rowClosed_only s).settings_eq]
    have hdue : (setFlagIf (layOf span s.settings.meshRows).2 .mesh s.rowClosed).due ⊆ (turnRow s).due := by
      rw [turnRow_eq, State.withKnot_due, hstep, computeMesh_due, rowClosed_lineLength, hstart, (rowClosed_only s).settings_eq]
      exact List.subset_append_left _ _
    refine ⟨fun h => ?_, fun _ => ⟨fun h => ?_, fun h => ?_⟩⟩
    · obtain ⟨hpos, hlong⟩ := h.resolve_left (fun hn => hn hm)
      exact setFlagIf_unflagged hmeter (layOf_flag_none hpos hlong) hflag
    · exact setFlagIf_flagged hmeter (rowClosed_only s).settings_eq (layOf_flag_unf h _) hflag hdue
    · exact setFlagIf_flagged hmeter (rowClosed_only s).settings_eq (layOf_flag_ovf h) hflag hdue
  · have hsame : (turnRow s).meter = s.meter :=
      (stepMesh_meter_of_not _ _ (mt (rowClosed_meshed_iff s).1 hm)).trans hmeter
    exact ⟨fun _ => Unflagged.of_meter hsame, fun h => absurd h hm⟩

theorem turnRow_of_no_row (h : s.knot.rowValid = false) : (turnRow s).knot.rowCounter = s.knot.rowCounter ∧
    (turnRow s).knot.history = s.knot.history ∧ (turnRow s).knot.stats = s.knot.stats := by
  have hclosed : s.rowClosed = s := if_neg (by simp [h])
  have hrow := turnRow_rowPart s
  rw [hclosed] at hrow
  simp only [Knot.rowPart, Prod.mk.injEq] at hrow
  obtain ⟨hcounter, hhistory, _⟩ := hrow
  refine ⟨hcounter, hhistory, ?_⟩
  rw [turnRow_eq, h, hclosed]
  exact stepMesh_stats_of_not_sampled s

theorem turnRow_of_inch_row (h : s.knot.rowValid = true) (hv : s.knot.runningView = false) :
    (turnRow s).knot.rowCounter = nextRow s.knot.rowCounter ∧ (turnRow s).knot.history = s.knot.history ∧
    (turnRow s).knot.suspects = s.knot.suspects ∧
    (turnRow s).knot.stats.inchRows = holdInc 4294967295 s.knot.stats.inchRows := by
  have hclosed : s.rowClosed = completeRow s := if_pos h
  have hrow := turnRow_rowPart s
  rw [hclosed, completeRow_of_inch s hv] at hrow
  simp only [Knot.rowPart, Prod.mk.injEq] at hrow
  obtain ⟨hcounter, hhistory, hsuspects, _, _, hinch, _⟩ := hrow
  exact ⟨hcounter, hhistory, hsuspects, hinch⟩

/-- A sampled row as it is entered and judged (R88 to R90), in the words of the claim. -/
theorem turnRow_of_sampled_row (h : s.knot.rowValid = true) (hv : s.knot.runningView = true) :
    let row := rowEntry (nextRow s.knot.rowCounter) s.knot
    let history := addHistory row s.knot.history
    let joins (h : Fin 32) : Bool := row.missed.getLsbD h && !s.knot.suspects.getLsbD h &&
      decide (s.settings.suspectThreshold ≤ (history.filter (fun e => e.missed.getLsbD h)).length)
    let heads (p : Fin 32 → Bool) := ((List.finRange 32).filter p).length
    let t := turnRow s
    t.knot.rowCounter = nextRow s.knot.rowCounter ∧ t.knot.history = history ∧
    (∀ h : Fin 32, t.knot.suspects.getLsbD h = (s.knot.suspects.getLsbD h || joins h)) ∧
    (s.settings.consecutiveStop = true → consecutiveMisses row history.dropLast ≠ 0 → .raiseCause .knot ∈ t.due) ∧
    (s.settings.consecutiveStop = false ∨ ¬ consecutiveMisses row history.dropLast ≠ 0 → .raiseCause .knot ∉ s.due →
      .raiseCause .knot ∉ t.due) ∧
    (s.knot.stats.sampledRows < 4294967295 → t.knot.stats.sampledRows = s.knot.stats.sampledRows + 1 ∧
      t.knot.stats.unseenRows = (if row.unseen = true then s.knot.stats.unseenRows + 1 else s.knot.stats.unseenRows) ∧
      (s.knot.stats.missedKnots + 32 ≤ 4294967295 → t.knot.stats.missedKnots = s.knot.stats.missedKnots +
        (if row.unseen = true then 0 else heads (fun h => row.missed.getLsbD h))) ∧
      (s.knot.stats.headFaults + 32 ≤ 4294967295 → t.knot.stats.headFaults = s.knot.stats.headFaults + heads joins)) := by
  intro row history joins heads t
  have hclosed : s.rowClosed = enterRow s (nextRow s.knot.rowCounter) := (if_pos h).trans (completeRow_of_view s hv)
  have hdue := enterRow_due s (nextRow s.knot.rowCounter)
  have hrow := turnRow_rowPart s
  rw [hclosed, Knot.rowPart, Knot.rowPart, enterRow_knot] at hrow
  simp only [Prod.mk.injEq] at hrow
  obtain ⟨hcounter, hhistory, hsuspects, hsampled, hunseen, _, hmissed, hfaults⟩ := hrow
  refine ⟨hcounter, hhistory, fun x => ?_, fun hstop hmiss => ?_, fun hnot hbefore hafter => ?_, fun hlt => ?_⟩
  · rw [hsuspects, BitVec.getLsbD_or, joiningHeads, headSet_getLsbD]
    rfl
  · have hin : Instr.raiseCause .knot ∈ s.rowClosed.due := by
      rw [hclosed, hdue, if_pos ⟨hstop, hmiss⟩]
      simp
    exact stepMesh_due_subset s.rowClosed _ hin
  · have hin : Instr.raiseCause .knot ∈ s.rowClosed.due := by
      rcases stepMesh_mem_due s.rowClosed hafter with hin | hin | hin
      · exact hin
      · cases hin
      · cases hin
    rw [hclosed, hdue, if_neg, List.append_nil] at hin
    · exact hbefore hin
    · rintro ⟨hstop, hmiss⟩
      rcases hnot with hnot | hnot
      · rw [hstop] at hnot
        cases hnot
      · exact hnot hmiss
  · rw [countRow_of_lt hlt] at hsampled hunseen hmissed hfaults
    refine ⟨hsampled, hunseen, fun hle => hmissed.trans ?_, fun hle => hfaults.trans ?_⟩
    · dsimp only
      have hc := headCount_le row.missed
      by_cases hu : row.unseen = true
      · rw [if_pos hu, if_pos hu, Nat.add_zero]
      · rw [if_neg hu, if_neg hu, addCount_of_le (show s.knot.stats.missedKnots + headCount row.missed ≤ 4294967295 by omega),
          headCount_eq]
    · have hc := headCount_le (headSet joins)
      have hj : joiningHeads s.settings.suspectThreshold row.missed s.knot.suspects history = headSet joins := rfl
      change addCount _ (headCount (joiningHeads s.settings.suspectThreshold row.missed s.knot.suspects history)) = _
      rw [hj, addCount_of_le (by omega), headCount_headSet]

end

end Sys2Proof.Machine
end

section
/-! SUPPORT. The claim about forward steps (R78 to R80, R82, R86, R88 to R90, R92 to R94), by the sector that the step enters. -/

namespace Sys2Proof.Machine

/-- What a forward step has made of the knot monitor before the sector that it enters is looked at. -/
def Knot.moved (k : Knot) (code : BitVec 3) (sector : Sector) : Knot :=
  { k with takenCode := some code, candidate := none, filterTime := 0, takenSector := some sector }

/-- The node with a code taken, before its sector is looked at (R75). -/
def State.withCode (s : State) (code : BitVec 3) : State :=
  s.withKnot { s.knot with takenCode := some code, candidate := none, filterTime := 0 }

/-- The node as the sector that a forward step enters finds it. -/
def State.stepped (s : State) (code : BitVec 3) (sector : Sector) : State := moveSector (some sector) (s.withCode code)

section
variable (s : State) (code : BitVec 3) (k : Sector)

theorem stepped_only : Only [.due, .channels, .knot] s (s.stepped code k) :=
  (withKnot_only s _).after (moveSector_only _ _) (by decide)

theorem stepped_knot : (s.stepped code k).knot = s.knot.moved code k := moveSector_knot _ _

theorem stepped_lineLength : (s.stepped code k).lineLength = s.lineLength := by
  unfold State.lineLength
  rw [(stepped_only s code k).settings_eq, (stepped_only s code k).meter_eq]

/-- A step into S0 comes out of S5, so that there is no edge of the in-draw signal. -/
theorem stepped_due_of_s0 {j : Sector} (hj : s.knot.takenSector = some j) (hd : sectorDistance j .s0 = 1) :
    (s.stepped code .s0).due = s.due := by
  have h3 : j ≠ .s3 := by
    rintro rfl
    exact absurd hd (by decide)
  have hsame : s.knot.takenSector = some .s3 ↔ some Sector.s0 = some .s3 := by simp [hj, h3]
  unfold State.stepped
  rw [moveSector_of_same (s.withCode code) (some .s0) hsame]
  rfl

end

/-! ### The window at the sectors of the draw (R82, R86) -/

section
variable {s : State}

theorem pendWindow_of_row (h : s.knot.rowValid = true) :
    (pendWindow s).knot = { s.knot with window := .pending, samples := 0 } ∧
    .channelStartRequest 1 (delayRequest .us1 s.settings.openDelay) ∈ (pendWindow s).due ∧
    .channelStartRequest 2 (delayRequest .us1 (s.settings.openDelay + s.settings.windowSpan)) ∈ (pendWindow s).due := by
  unfold pendWindow
  rw [if_pos h]
  exact ⟨rfl, by simp, by simp⟩

theorem pendWindow_of_no_row (h : s.knot.rowValid = false) : pendWindow s = s := if_neg (by simp [h])

theorem leaveDraw_of_idle (h : s.knot.window = .idle) : leaveDraw s = s := by
  simp [leaveDraw, h]

theorem leaveDraw_of_pending (h : s.knot.window = .pending) :
    (leaveDraw s).knot = { s.knot with window := .idle, rowOutcome := .unseen, rowMissed := 0 } ∧
    .channelStopRequest 1 ∈ (leaveDraw s).due ∧ .channelStopRequest 2 ∈ (leaveDraw s).due := by
  simp [leaveDraw, h]

theorem leaveDraw_of_opened (h : s.knot.window = .opened) :
    (leaveDraw s).knot = { s.knot with
      window := .idle, sampleLeft := none, rowOutcome := .short
      rowMissed := s.settings.fittedHeads &&& ~~~s.knot.tight } ∧ .channelStopRequest 2 ∈ (leaveDraw s).due := by
  simp [leaveDraw, h, missedMap]

theorem leaveDraw_of_closed (h : s.knot.window = .closed) : (leaveDraw s).knot = { s.knot with window := .idle } := by
  simp [leaveDraw, h]

end

/-! ### The arithmetic status of a forward step -/

section
variable (s : State) (k : Sector)

theorem forwardInto_meter_of_ne (h : k ≠ .s0) : (forwardInto k s).meter = s.meter := by
  cases k with
  | s0 => exact absurd rfl h
  | s3 => exact (pendWindow_only s).meter_eq
  | s4 => exact (leaveDraw_only s).meter_eq
  | s1 => rfl
  | s2 => rfl
  | s5 => rfl

theorem forwardInto_meter_frame :
    { (forwardInto k s).meter with flags := s.meter.flags, origin := s.meter.origin } = s.meter := by
  by_cases h : k = .s0
  · subst h
    exact turnRow_meter_frame s
  · rw [forwardInto_meter_of_ne s k h]

end

/-- The statements about a forward step read of the node only what a step leaves to the sector entered. -/
theorem Unflagged.before {s u t : State} (h : Unflagged u t) (hm : u.meter = s.meter) : Unflagged s t := by
  rw [Unflagged, hm] at h
  exact h

/-- Settles O31: the in-draw edges and the frame, then the step by the sector that it enters. -/
theorem forwardStepsRunTheRow : Obligations.ForwardStepsRunTheRow := by
  intro code j k s hb hknot htaken hj hk hd
  have h0 : Only [.due, .pins] s (showPhase (.phaseCodeChange code) code s) := showPhase_only _ code s
  have hdue0 (e : Instr) (he : e ∉ s.due) : e ∉ (showPhase (.phaseCodeChange code) code s).due := by
    unfold showPhase
    split <;> exact fun h => he (List.mem_of_mem_erase h)
  have hx := exec_phaseCodeChange (State.knotNode_of hb hknot) htaken
  have hframe := showPhase_takeCode_only (s := s) (code := code) (.phaseCodeChange code)
  have hdrawn := showPhase_takeCode_drawEdgesTaken (s := s) (code := code) (.phaseCodeChange code)
  have hchan := fun (c : Fin 8) (hc : c ≠ 0) => showPhase_takeCode_channel_ne (s := s) (code := code) (.phaseCodeChange code) hc
  generalize showPhase (.phaseCodeChange code) code s = s0 at h0 hdue0 hx hframe hdrawn hchan
  have hphase : phaseChange s0.knot.takenSector code = .forward k := by rw [h0.knot_eq, hj]; exact phaseChange_of_forward hk hd
  have ht : takeCode code s0 = forwardInto k (s0.stepped code k) := takeCode_of_forward hphase
  have h1 := stepped_only s0 code k
  have hu : (s0.stepped code k).knot = s.knot.moved code k := by rw [stepped_knot, h0.knot_eq]
  have hg : (s0.stepped code k).settings = s.settings := h1.settings_eq.trans h0.settings_eq
  have hm : (s0.stepped code k).meter = s.meter := h1.meter_eq.trans h0.meter_eq
  have hl : (s0.stepped code k).lineLength = s.lineLength := by
    rw [stepped_lineLength, State.lineLength, h0.settings_eq, h0.meter_eq]
    rfl
  have hudue : k = .s0 → .raiseCause .knot ∉ s.due → .raiseCause .knot ∉ (s0.stepped code k).due := by
    rintro rfl hn
    rw [stepped_due_of_s0 s0 code (by rw [h0.knot_eq]; exact hj) hd]
    exact hdue0 _ hn
  rw [ht] at hx hframe hdrawn hchan
  generalize s0.stepped code k = u at hx hframe hdrawn hchan hu hg hm hl hudue
  have hsector : (forwardInto k u).knot.takenSector = some k := by
    have h := congrArg (fun x => x.2.2.2) (forwardInto_shaft u k)
    exact h.trans (congrArg Knot.takenSector hu)
  refine ⟨forwardInto k u, hx, hframe, hsector, hdrawn, hchan, by rw [← hm]; exact forwardInto_meter_frame u k, fun h => ?_,
    ?_, ?_, ?_, ?_, ?_, ?_, ?_, ?_, ?_⟩
  · by_cases hk0 : k = .s0
    · subst hk0
      have hstatus := (turnRow_status u).1
      rw [hu, hg, hl] at hstatus
      exact (hstatus (h.resolve_left fun hn => hn rfl)).before hm
    · exact Unflagged.of_meter ((forwardInto_meter_of_ne u k hk0).trans hm)
  · rintro rfl hmeshed
    have hstatus := (turnRow_status u).2
    rw [hu, hg, hl] at hstatus
    obtain ⟨hunf, hovf⟩ := hstatus hmeshed
    exact ⟨fun h => (hunf h).before hm hg, fun h => (hovf h).before hm hg⟩
  · rintro (rfl | rfl | rfl) <;> exact hu
  · rintro rfl hrow
    have h := pendWindow_of_row (s := u) (by rw [hu]; exact hrow)
    rw [hu, hg] at h
    exact h
  · rintro rfl hrow
    have h : forwardInto .s3 u = u := pendWindow_of_no_row (by rw [hu]; exact hrow)
    rw [h]
    exact hu
  · rintro rfl hw
    have h : forwardInto .s4 u = u := leaveDraw_of_idle (by rw [hu]; exact hw)
    rw [h]
    exact hu
  · rintro rfl hw
    have h := leaveDraw_of_pending (s := u) (by rw [hu]; exact hw)
    rw [hu] at h
    exact h
  · rintro rfl hw
    have h := leaveDraw_of_opened (s := u) (by rw [hu]; exact hw)
    rw [hu, hg] at h
    exact h
  · rintro rfl hw
    have h := leaveDraw_of_closed (s := u) (by rw [hu]; exact hw)
    rw [hu] at h
    exact h
  · rintro rfl
    have hmesh := turnRow_meshStepped u
    have hnone := turnRow_of_no_row u
    have hinch := turnRow_of_inch_row u
    have hsampled := turnRow_of_sampled_row u
    simp only [consecutiveMisses_ne_zero] at hsampled
    rw [hu, hg, hl] at hmesh
    rw [hu] at hnone hinch
    rw [hu, hg] at hsampled
    obtain ⟨hwait, hidle, hopen, hnot, hjudged⟩ := hmesh
    refine ⟨rfl, rfl, rfl, hwait, hidle, hopen, hnot, hjudged, hnone, hinch, fun hs => ?_⟩
    obtain ⟨hcounter, hhistory, hsuspects, hraise, hquiet, hstats⟩ := hsampled hs.1 hs.2
    exact ⟨hcounter, hhistory, hsuspects, hraise, fun hn hbefore => hquiet hn (hudue rfl hbefore), hstats⟩

end Sys2Proof.Machine
end

section
/-! SUPPORT. One µs of the node (log entry 3), stage by stage: what each stage can change, that it takes back no event, and what it
leaves of the timers of its block. -/

namespace Sys2Proof.Machine

-- One proof after the other: elaborated side by side in the joined text, they wait for one another on a thread each.
set_option Elab.async false

variable {s t u : State} {l m n : List Part}

/-! ### Changes that only add events -/

/-- No part but those listed is changed, and every event that was due is still due. -/
def Extends (l : List Part) (s t : State) : Prop := Only l s t ∧ s.due ⊆ t.due

theorem Extends.refl (l : List Part) (s : State) : Extends l s s := ⟨Only.refl l s, List.Subset.refl _⟩

theorem Extends.trans (h : Extends l s t) (k : Extends l t u) : Extends l s u :=
  ⟨h.1.trans k.1, List.Subset.trans h.2 k.2⟩

theorem Extends.grow (h : Extends l s t) (hm : l.all (fun p => m.contains p) = true) : Extends m s t :=
  ⟨h.1.grow hm, h.2⟩

/-- A change followed by one of fewer parts. -/
theorem Extends.step (h : Extends l s t) (k : Extends m t u) (hm : m.all (fun p => l.contains p) = true) :
    Extends l s u := h.trans (k.grow hm)

theorem Extends.join (h : Extends l s t) (k : Extends m t u) (hn : (l ++ m).all (fun p => n.contains p) = true) :
    Extends n s u := by
  rw [List.all_append, Bool.and_eq_true] at hn
  exact (h.grow hn.1).trans (k.grow hn.2)

theorem Extends.ite {c : Prop} [Decidable c] (h : Extends l s t) (k : Extends l s u) : Extends l s (if c then t else u) := by
  split <;> assumption

theorem Extends.foldl {α : Type} {f : State → α → State} (h : ∀ s a, Extends l s (f s a)) (k : List α) (s : State) :
    Extends l s (k.foldl f s) := by
  induction k generalizing s with
  | nil => exact Extends.refl l s
  | cons a k ih => exact (h s a).trans (ih _)

/-- A change that leaves the events due alone. -/
theorem Extends.of_only (h : Only l s t) (hd : Part.due ∉ l) : Extends l s t :=
  ⟨h, by rw [h.2 .due hd]; exact List.Subset.refl _⟩

/-- Events given to a node that has changed without giving any. -/
theorem Extends.emit (h : Only l s t) (k : List Instr) (hd : Part.due ∉ l) : Extends (.due :: l) s (t.emit k) := by
  refine ⟨⟨h.1, fun p hp => ?_⟩, ?_⟩
  · obtain ⟨hp1, hp2⟩ := List.ne_and_not_mem_of_not_mem_cons hp
    exact Part.kept_trans (h.2 p hp2) ((emit_only t k).2 p (by simpa using hp1))
  · rw [State.emit_due, h.2 .due hd]
    exact List.subset_append_left _ _

theorem emit_extends (s : State) (k : List Instr) : Extends [.due] s (s.emit k) :=
  ⟨emit_only s k, List.subset_append_left _ _⟩

/-! ### Timers -/

/-- A timer of one value before and another after, whose event is due where it has run out. -/
def TimerRuns (a b : Option Nat) (e : Instr) (t : State) : Prop :=
  (a = none → b = none) ∧ ∀ n, a = some (n + 1) → b = some n ∧ (n = 0 → e ∈ t.due)

theorem timerTick_runs {a : Option Nat} {e : Instr} (h : (timerTick a).2 = true → e ∈ t.due) : TimerRuns a (timerTick a).1 e t := by
  refine ⟨?_, ?_⟩
  · rintro rfl
    rfl
  · rintro n rfl
    exact ⟨rfl, fun hn => h (by simp [timerTick, hn])⟩

theorem onExpiry_extends (expired : Bool) (e : Instr) (s : State) : Extends [.due] s (onExpiry expired e s) :=
  .ite (emit_extends s _) (.refl _ s)

/-- A timer that has been set, and its event where it has run out. -/
theorem Only.onExpiry_extends (h : Only l s t) (hd : Part.due ∉ l) (expired : Bool) (e : Instr) :
    Extends (.due :: l) s (onExpiry expired e t) := by
  refine .ite (.emit h _ hd) ⟨h.grow (by simp [List.all_eq_true]; tauto), ?_⟩
  rw [h.2 .due hd]
  exact List.Subset.refl _

theorem mem_onExpiry {expired : Bool} {e : Instr} (h : expired = true) (s : State) : e ∈ (onExpiry expired e s).due := by
  rw [onExpiry, if_pos h]
  simp

/-! ### The timers of the blocks -/

section
variable (s : State)

theorem tickMeter_extends : Extends [.due, .meter] s (tickMeter s) :=
  (withMeter_only s _).onExpiry_extends (by decide) _ _

theorem onExpiry_meter (b : Bool) (e : Instr) : (onExpiry b e s).meter = s.meter := (onExpiry_extends b e s).1.meter_eq

theorem tickMeter_meter : (tickMeter s).meter = { s.meter with evaluationLeft := (timerTick s.meter.evaluationLeft).1 } :=
  onExpiry_meter _ _ _

theorem tickTwist_extends : Extends [.due, .twist] s (tickTwist s) :=
  (withTwist_only s _).onExpiry_extends (by decide) _ _

theorem tickTwist_twist : (tickTwist s).twist = { s.twist with holdLeft := (timerTick s.twist.holdLeft).1 } :=
  (onExpiry_extends _ _ _).1.2 .twist (by decide)

theorem tickSampler_extends : Extends [.due, .sampler] s (tickSampler s) :=
  (withSampler_only s _).onExpiry_extends (by decide) _ _

theorem tickSampler_sampler :
    (tickSampler s).sampler = { s.sampler with conversionLeft := (timerTick s.sampler.conversionLeft).1 } :=
  (onExpiry_extends _ _ _).1.2 .sampler (by decide)

theorem tickPhase_extends : Extends [.due, .knot] s (tickPhase s) := by
  unfold tickPhase
  dsimp only
  have hemit (k : List Instr) : Extends [.due, .knot] s (s.emit k) := (emit_extends s k).grow (by decide)
  refine .ite (.refl _ s) (.ite (.ite (hemit _) (.refl _ s)) (.ite ?_ (hemit _)))
  exact (withKnot_only s _).onExpiry_extends (by decide) _ _

theorem tickKnot_extends : Extends [.due, .knot] s (tickKnot s) :=
  (withKnot_only s _).onExpiry_extends (by decide) _ _

theorem tickKnot_knot : (tickKnot s).knot = { s.knot with sampleLeft := (timerTick s.knot.sampleLeft).1 } :=
  (onExpiry_extends _ _ _).1.knot_eq

theorem tickPresence_extends : Extends [.due, .line] s (tickPresence s) :=
  (withLine_only s _).onExpiry_extends (by decide) _ _

theorem tickPresence_line : (tickPresence s).line = { s.line with presenceLeft := (timerTick s.line.presenceLeft).1 } :=
  (onExpiry_extends _ _ _).1.2 .line (by decide)

theorem tickPeers_extends : Extends [.due, .peers] s (tickPeers s) := .emit (withPeers_only s _) _ (by decide)

theorem tickProtection_extends : Extends [.due, .prot] s (tickProtection s) :=
  (((withProt_only s _).onExpiry_extends (by decide) _ _).step (onExpiry_extends _ _ _) (by decide)).step
    (onExpiry_extends _ _ _) (by decide)

theorem onExpiry_prot (b : Bool) (e : Instr) : (onExpiry b e s).prot = s.prot := (onExpiry_extends b e s).1.prot_eq

theorem tickProtection_prot : (tickProtection s).prot = { s.prot with
    haltLeft := (timerTick s.prot.haltLeft).1, blinkLeft := (timerTick s.prot.blinkLeft).1
    lamp := { s.prot.lamp with flashLeft := (timerTick s.prot.lamp.flashLeft).1 } } := by
  unfold tickProtection
  simp only [onExpiry_prot, State.withProt_prot]

/-- The three timers of the protection unit; the end of a blink takes the place of a change of the lamp (log entry 23). -/
theorem tickProtection_due : ((timerTick s.prot.haltLeft).2 = true → .haltTimerExpiry ∈ (tickProtection s).due) ∧
    ((timerTick s.prot.blinkLeft).2 = true → .refusalBlinkEnd ∈ (tickProtection s).due) ∧
    ((timerTick s.prot.lamp.flashLeft).2 = true → (timerTick s.prot.blinkLeft).2 = false → .alarmFlash ∈ (tickProtection s).due) := by
  refine ⟨fun h => ?_, fun h => ?_, fun h hb => ?_⟩
  · exact (onExpiry_extends _ _ _).2 ((onExpiry_extends _ _ _).2 (mem_onExpiry h _))
  · exact (onExpiry_extends _ _ _).2 (mem_onExpiry h _)
  · exact mem_onExpiry (by rw [h, hb]; rfl) _

theorem tickSupply_extends : Extends [.due, .pins] s (tickSupply s) := .emit (withPins_only s _) _ (by decide)

theorem tickCoil_extends : Extends [.due, .coil] s (tickCoil s) :=
  ((withCoil_only s _).onExpiry_extends (by decide) _ _).step
    (onExpiry_extends _ _ _) (by decide)

theorem tickCoil_coil : (tickCoil s).coil = { s.coil with
    restLeft := (timerTick s.coil.restLeft).1, cutLeft := (timerTick s.coil.cutLeft).1 } :=
  ((onExpiry_extends _ _ _).1.2 .coil (by decide)).trans ((onExpiry_extends _ _ _).1.2 .coil (by decide))

theorem tickCoil_due : ((timerTick s.coil.restLeft).2 = true → .restTimerExpiry ∈ (tickCoil s).due) ∧
    ((timerTick s.coil.cutLeft).2 = true → .cutTimerExpiry ∈ (tickCoil s).due) :=
  ⟨fun h => (onExpiry_extends _ _ _).2 (mem_onExpiry h _), fun h => mem_onExpiry h _⟩

end

/-! ### The peers (R110) -/

theorem ageingDue_agedPeer {p : Peer} (h : 10000000 ≤ p.age + 1 ∨ (p.heard = true ∧ 3000000 ≤ p.age + 1)) :
    ageingDue (agedPeer p) = true := by
  unfold ageingDue agedPeer silentAge removalAge holdInc
  dsimp only
  rw [decide_eq_true_iff]
  split <;> split <;> rename_i h1 h2
  · omega
  · omega
  · rcases h with h | ⟨hh, _⟩
    · omega
    · exact absurd hh h1
  · omega

theorem mem_tickPeers {p : Peer} (hp : p ∈ s.peers)
    (h : 10000000 ≤ p.age + 1 ∨ (p.heard = true ∧ 3000000 ≤ p.age + 1)) : .peerAgeing p.station ∈ (tickPeers s).due := by
  refine List.mem_append_right _ (List.mem_map.2 ⟨agedPeer p, List.mem_filter.2 ⟨?_, ageingDue_agedPeer h⟩, rfl⟩)
  exact List.mem_map_of_mem hp

/-! ### The floor line keeps its queue and its presence timer (R102, R103) -/

/-- What the owners of the queue and of the presence timer hold of the line. -/
def FloorLine.held (l : FloorLine) : List QueuedFrame × Option Nat := (l.queue, l.presenceLeft)

theorem rxByte_held (l : FloorLine) (b : Byte) (low : Bool) : (l.rxByte b low).1.held = l.held := by
  have hin : (l.inFrame b).1.held = l.held := by
    unfold FloorLine.inFrame
    dsimp only
    split
    · rfl
    split
    · rfl
    split <;> rfl
  unfold FloorLine.rxByte
  split
  · split <;> rfl
  · split
    · rfl
    · exact hin
  · split
    · rfl
    · exact hin
  · rfl

section
variable (s : State)

theorem withWorld_only (w : Surroundings) : Only [.world] s { s with world := w } :=
  ⟨rfl, fun p hp => by cases p <;> first | rfl | exact absurd (by decide) hp⟩

theorem tickIdle_extends : Extends [.due, .line] s (tickIdle s) := .emit (withLine_only s _) _ (by decide)

theorem tickIdle_held : (tickIdle s).line.held = s.line.held := by
  change (if s.line.idleSub < 3 then { s.line with idleSub := s.line.idleSub + 1 }
    else { s.line with idleSub := 0, idle := s.line.idle + 1 }).held = _
  split <;> rfl

theorem tickByte_extends (left : Nat) (b : LineByte) (rest : List LineByte) :
    Extends [.due, .line, .world] s (tickByte left b rest s) :=
  .ite ((Extends.of_only (withLine_only s _) (by decide)).grow (by decide))
    (.emit (l := [.line, .world]) ((withWorld_only s _).after ((withLine_only _ _).grow (by decide)) (by decide)) _ (by decide))

theorem tickByte_held (left : Nat) (b : LineByte) (rest : List LineByte) : (tickByte left b rest s).line.held = s.line.held := by
  unfold tickByte
  split
  · rfl
  · exact rxByte_held _ _ _

theorem tickListening_extends : Extends [.due, .line, .world] s (tickListening s) := by
  unfold tickListening
  split
  · exact tickByte_extends s _ _ _
  · exact (Extends.of_only (withLine_only s _) (by decide)).grow (by decide)
  · refine .ite ((Extends.of_only (withLine_only s _) (by decide)).grow (by decide)) ?_
    exact ((Extends.of_only (withWorld_only s _) (by decide)).grow (m := [.due, .line, .world]) (by decide)).step
      (tickIdle_extends _) (by decide)
  · exact (tickIdle_extends s).grow (by decide)

theorem tickListening_held : (tickListening s).line.held = s.line.held := by
  unfold tickListening
  split
  · exact tickByte_held s _ _ _
  · rfl
  · split
    · rfl
    · exact tickIdle_held _
  · exact tickIdle_held s

theorem tickSending_extends : Extends [.due, .line] s (tickSending s) := by
  have h (x : FloorLine) : Extends [.due, .line] s (s.withLine x) :=
    (Extends.of_only (withLine_only s x) (by decide)).grow (by decide)
  unfold tickSending
  dsimp only
  split
  · split
    · refine .ite ((h _).step (emit_extends _ _) (by decide)) ?_
      have h2 (x : FloorLine) (left : Nat) :=
        (h { s.line with sendLeft := some left }).step (Extends.of_only (withLine_only _ x) (by decide)) (by decide)
      exact ((h2 _ _).step (emit_extends _ _) (by decide)).step (onExpiry_extends _ _ _) (by decide)
    · exact h _
  · exact (emit_extends s _).grow (by decide)
  · exact .refl _ s

theorem onExpiry_line (b : Bool) (e : Instr) : (onExpiry b e s).line = s.line := (onExpiry_extends b e s).1.2 .line (by decide)

theorem tickSending_held : (tickSending s).line.held = s.line.held := by
  unfold tickSending
  dsimp only
  split
  · split
    · split
      · rfl
      · rw [onExpiry_line]
        exact rxByte_held _ _ _
    · rfl
  · rfl
  · rfl

theorem tickLine_extends : Extends [.due, .line, .world] s (tickLine s) :=
  .ite (.refl _ s) (.ite ((tickSending_extends s).grow (by decide)) (tickListening_extends s))

theorem tickLine_held : (tickLine s).line.held = s.line.held := by
  unfold tickLine
  split
  · rfl
  split
  · exact tickSending_held s
  · exact tickListening_held s

end

/-! ### The store's operation (R159, R163): the timers of the coil builder are none of its business -/

/-- The coil builder's timers. -/
def CoilBuilder.timers (c : CoilBuilder) : Option Nat × Option Nat := (c.restLeft, c.cutLeft)

section
variable (s : State)

theorem entered_timers (op : StoreOp) (p : Nat) : (entered op p s).coil.timers = s.coil.timers := by
  unfold entered
  split
  · rfl
  · split <;> rfl
  · rfl
  · rfl

theorem endProgram_timers (w : Wear) (f : InFlight) (p : Nat) : (endProgram w f p s).1.coil.timers = s.coil.timers := by
  unfold endProgram
  dsimp only
  have h := (programNow_only s w (programmed f.op p s).1 (programmed f.op p s).2).2 .coil (by decide)
  generalize programNow w (programmed f.op p s).1 (programmed f.op p s).2 s = x at h ⊢
  obtain ⟨s1, r⟩ := x
  have h1 : s1.coil.timers = s.coil.timers := congrArg CoilBuilder.timers h
  cases r with
  | good => exact (entered_timers s1 _ _).trans h1
  | addressError => cases f.op <;> exact h1
  | dataError => cases f.op <;> exact h1

theorem voidMark_timers (w : Wear) (p : Nat) : (voidMark w p s).coil.timers = s.coil.timers := by
  unfold voidMark CoilBuilder.timers
  dsimp only
  rw [State.setEntry_coil]
  split <;> rfl

theorem endVoid_timers (w : Wear) (f : InFlight) (p : Nat) : (endVoid w f p s).1.coil.timers = s.coil.timers := by
  have hv := voidMark_timers s w p
  unfold endVoid
  dsimp only
  split
  · exact (congrArg CoilBuilder.timers ((searchSector_only _).2 .coil (by decide))).trans hv
  · exact hv
  · exact hv

theorem endStep_timers (w : Wear) (f : InFlight) : (endStep w f s).1.coil.timers = s.coil.timers := by
  unfold endStep
  split
  · rfl
  · rfl
  · split
    · exact congrArg CoilBuilder.timers ((eraseBankNow_only s w 0).2 .coil (by decide))
    · exact congrArg CoilBuilder.timers ((searchOn_only s w _ _).2 .coil (by decide))
  · exact endProgram_timers s w f _
  · exact endVoid_timers s w f _

theorem endStepByTime_extends (f : InFlight) : Extends [.due, .coil, .store, .memory] s (endStepByTime f s) := by
  have h := endStep_only s s.world.wear f
  unfold endStepByTime
  generalize endStep s.world.wear f s = x at h ⊢
  obtain ⟨s1, o⟩ := x
  cases o with
  | next step retry => exact (Extends.of_only (h.step (withStore_only _ _) (by decide)) (by decide)).grow (by decide)
  | done good =>
    exact ((Extends.of_only (withStore_only s _) (by decide)).grow (m := [.due, .coil, .store, .memory]) (by decide)).step
      (emit_extends _ _) (by decide)

theorem endStepByTime_timers (f : InFlight) : (endStepByTime f s).coil.timers = s.coil.timers := by
  have h := endStep_timers s s.world.wear f
  unfold endStepByTime
  generalize endStep s.world.wear f s = x at h ⊢
  obtain ⟨s1, o⟩ := x
  cases o with
  | next step retry => exact h
  | done good => rfl

theorem tickStore_extends : Extends [.due, .coil, .store, .memory] s (tickStore s) := by
  unfold tickStore
  split
  · exact .ite (endStepByTime_extends s _) ((Extends.of_only (withStore_only s _) (by decide)).grow (by decide))
  · exact .refl _ s

theorem tickStore_timers : (tickStore s).coil.timers = s.coil.timers := by
  unfold tickStore
  split
  · split
    · exact endStepByTime_timers s _
    · rfl
  · rfl

theorem tickStore_of_none (h : s.store.inFlight = none) : tickStore s = s := by
  simp [tickStore, h]

theorem tickStore_store {f : InFlight} (h : s.store.inFlight = some f) (hl : 1 < f.left) :
    (tickStore s).store = { s.store with inFlight := some { f with left := f.left - 1 } } := by
  simp [tickStore, h, Nat.not_le.2 hl]

end

end Sys2Proof.Machine
end

section
/-! SUPPORT. The channels and the sampled inputs for one µs (R3, R4, R10 to R16, R21): a channel's own tick, the edges at a channel that
counts them, and the pairs that an encoder takes. -/

namespace Sys2Proof.Machine

-- One proof after the other: elaborated side by side in the joined text, they wait for one another on a thread each.
set_option Elab.async false

variable (s : State) (i : Fin 8)

/-! ### A channel's own tick -/

theorem giveExpiry_extends (m : RunMode) : Extends [.due, .channels] s (giveExpiry i m s) :=
  ⟨giveExpiry_only s i m, by rw [giveExpiry_due]; exact List.subset_append_left _ _⟩

theorem giveDrive_extends : Extends [.due, .channels] s (giveDrive i s) :=
  ⟨giveDrive_only s i, by rw [giveDrive_due]; exact List.subset_append_left _ _⟩

theorem runChannel_extends : Extends [.due, .channels] s (runChannel i s) :=
  ⟨runChannel_only s i, by rw [runChannel_due]; exact List.subset_append_left _ _⟩

theorem setChannel_extends (c : Channel) : Extends [.due, .channels] s (s.setChannel i c) :=
  (Extends.of_only (setChannel_only s i c) (by decide)).grow (by decide)

theorem stepChannel_extends : Extends [.due, .channels] s (stepChannel i s) := by
  have h := setChannel_extends s i
  unfold stepChannel
  dsimp only
  split
  · exact .refl _ s
  · refine .ite (h _) (.ite ?_ (h _))
    exact .ite ((h _).trans (giveDrive_extends _ i)) ((h _).trans (giveExpiry_extends _ i _))
  · exact .ite ((h _).trans (giveExpiry_extends _ i _)) (h _)
  · exact .refl _ s

theorem tickChannel_extends : Extends [.due, .channels] s (tickChannel s i) := by
  unfold tickChannel
  dsimp only
  refine .ite ?_ (.refl _ s)
  split
  · exact .ite (setChannel_extends s i _) ((setChannel_extends s i _).trans (stepChannel_extends _ i))
  · exact .refl _ s

theorem stepChannel_channel_ne {j : Fin 8} (h : j ≠ i) : (stepChannel i s).channel j = s.channel j := by
  have hset (c : Channel) := State.setChannel_channel_ne s c h
  unfold stepChannel
  dsimp only
  split
  · rfl
  · split
    · exact hset _
    split
    · split
      · exact (giveDrive_channel_ne _ h).trans (hset _)
      · exact (giveExpiry_channel_ne _ _ h).trans (hset _)
    · exact hset _
  · split
    · exact (giveExpiry_channel_ne _ _ h).trans (hset _)
    · exact hset _
  · rfl

theorem tickChannel_channel_ne {j : Fin 8} (h : j ≠ i) : (tickChannel s i).channel j = s.channel j := by
  have hset (c : Channel) := State.setChannel_channel_ne s c h
  unfold tickChannel
  dsimp only
  split
  · split
    · split
      · exact hset _
      · exact (stepChannel_channel_ne _ i h).trans (hset _)
    · rfl
  · rfl

/-! ### The input of a channel stays -/

theorem Channel.expired_input (c : Channel) : c.expired.input = c.input := by
  unfold Channel.expired
  split
  · rfl
  · rfl
  · unfold Channel.finished
    split <;> rfl
  · dsimp only [Channel.finished]
    split <;> rfl
  · rfl

theorem Channel.driveStarted_input (c : Channel) : c.driveStarted.input = c.input := by
  unfold Channel.driveStarted
  split <;> rfl

theorem giveExpiry_input (m : RunMode) : ((giveExpiry i m s).channel i).input = (s.channel i).input := by
  rw [giveExpiry_channel_self]
  split
  · exact Channel.expired_input _
  · rfl

theorem giveDrive_input : ((giveDrive i s).channel i).input = (s.channel i).input := by
  rw [giveDrive_channel_self]
  exact Channel.driveStarted_input _

theorem stepChannel_input : ((stepChannel i s).channel i).input = (s.channel i).input := by
  have hset (c : Channel) (h : c.input = (s.channel i).input) : ((s.setChannel i c).channel i).input = (s.channel i).input := by
    rw [State.setChannel_channel_self, h]
  unfold stepChannel
  dsimp only
  split
  · rfl
  · split
    · exact hset _ rfl
    split
    · split
      · exact (giveDrive_input _ i).trans (hset _ rfl)
      · exact (giveExpiry_input _ i _).trans (hset _ rfl)
    · exact hset _ rfl
  · split
    · exact (giveExpiry_input _ i _).trans (hset _ rfl)
    · exact hset _ rfl
  · rfl

theorem tickChannel_input : ((tickChannel s i).channel i).input = (s.channel i).input := by
  unfold tickChannel
  dsimp only
  split
  · split
    · split
      · rw [State.setChannel_channel_self]
      · rw [stepChannel_input, State.setChannel_channel_self]
    · rfl
  · rfl

/-! ### What a tick does, by the state of the channel -/

section
variable {s i} {m : Nat}

theorem tickChannel_of_still (hr : (s.channel i).state ≠ .running) (hd : (s.channel i).state ≠ .driving) : tickChannel s i = s :=
  if_neg (not_or.2 ⟨hr, hd⟩)

theorem tickChannel_of_edges (h : (s.channel i).unit = .edges) : tickChannel s i = s := by
  simp [tickChannel, h, TickUnit.micros]

theorem tickChannel_within (hs : (s.channel i).state = .running ∨ (s.channel i).state = .driving)
    (hm : (s.channel i).unit.micros = some m) (hd : (s.channel i).divider + 1 < m) :
    tickChannel s i = s.setChannel i { s.channel i with divider := (s.channel i).divider + 1 } := by
  simp [tickChannel, hs, hm, hd]

theorem tickChannel_at_end (hs : (s.channel i).state = .running ∨ (s.channel i).state = .driving)
    (hm : (s.channel i).unit.micros = some m) (hd : m ≤ (s.channel i).divider + 1) :
    tickChannel s i = stepChannel i (s.setChannel i { s.channel i with divider := 0 }) := by
  simp [tickChannel, hs, hm, Nat.not_lt.2 hd]

theorem stepChannel_measuring (hs : (s.channel i).state = .running)
    (hm : (s.channel i).mode = some .period ∨ (s.channel i).mode = some .width) :
    stepChannel i s = s.setChannel i { s.channel i with
      count := if (s.channel i).count.toNat = 16777215 then (s.channel i).count else (s.channel i).count + 1 } := by
  have hmax : (if (s.channel i).count = maxCount then maxCount else (s.channel i).count + 1) =
      if (s.channel i).count.toNat = 16777215 then (s.channel i).count else (s.channel i).count + 1 := by
    have hb : (s.channel i).count = maxCount ↔ (s.channel i).count.toNat = 16777215 := by
      have h := beq_maxCount (s.channel i).count
      rw [Bool.eq_iff_iff] at h
      simpa using h
    by_cases h : (s.channel i).count = maxCount
    · rw [if_pos h, if_pos (hb.1 h), h]
    · rw [if_neg h, if_neg (mt hb.2 h)]
  rw [← hmax]
  rcases hm with hm | hm <;> simp [stepChannel, hs, hm, isMeasuring]

theorem stepChannel_counting (hc : 2 ≤ (s.channel i).count.toNat)
    (h : (s.channel i).state = .driving ∧ (s.channel i).mode = some .pulse ∨ (s.channel i).state = .running ∧
      ((s.channel i).mode = some .interval ∨ (s.channel i).mode = some .delay ∨ (s.channel i).mode = some .pulse)) :
    stepChannel i s = s.setChannel i { s.channel i with count := (s.channel i).count - 1 } := by
  have hn : ¬ (s.channel i).count.toNat ≤ 1 := by omega
  rcases h with ⟨hs, hm⟩ | ⟨hs, hm | hm | hm⟩ <;> simp [stepChannel, hs, hm, hn, isMeasuring]

theorem stepChannel_expiring {k : RunMode} (hc : (s.channel i).count = 1)
    (h : (s.channel i).state = .driving ∧ (s.channel i).mode = some k ∨ (s.channel i).state = .running ∧
      (s.channel i).mode = some k ∧ isMeasuring k = false ∧ k ≠ .pulse) :
    stepChannel i s = giveExpiry i k (s.setChannel i { s.channel i with count := 0 }) := by
  have h1 : (1 : BitVec 24).toNat ≤ 1 := by decide
  rcases h with ⟨hs, hm⟩ | ⟨hs, hm, hk, hp⟩
  · simp [stepChannel, hs, hm, hc]
  · simp [stepChannel, hs, hm, hc, hk, hp]

theorem stepChannel_driving (hc : (s.channel i).count = 1) (hs : (s.channel i).state = .running)
    (hm : (s.channel i).mode = some .pulse) :
    stepChannel i s = giveDrive i (s.setChannel i { s.channel i with count := 0 }) := by
  simp [stepChannel, hs, hm, hc, isMeasuring]

end

/-! ### An expiry that time gives -/

/-- The row of the owner of an expiry, where it has one, is due, and so is a trigger for every channel that was ARMED with CHAIN
on the channel (R7, R17). -/
def ExpiryGiven (s : State) (i : Fin 8) (m : RunMode) (t : State) : Prop :=
  (∀ e, (s.withPins t.pins).expiryRow i m = some e → e ∈ t.due) ∧
    ∀ j : Fin 8, (s.channel j).state = .armed → (s.channel j).trigger = .chain i → .channelTrigger j (.chain i) ∈ t.due

theorem giveExpiry_given {s v t : State} {i : Fin 8} {m : RunMode} (he : (v.channel i).expiresIn m = true)
    (hs : v.settings = s.settings) (hk : t.pins.ks = v.pins.ks)
    (hc : ∀ j, (s.channel j).state = .armed → (s.channel j).trigger = .chain i → v.channel j = s.channel j)
    (hd : (giveExpiry i m v).due ⊆ t.due) : ExpiryGiven s i m t := by
  refine ⟨fun e hrow => hd (expiryRow_mem_giveExpiry v i m he ?_), fun j hj ht => hd (chained_subset_giveExpiry v i m he ?_)⟩
  · rw [← hrow]
    exact expiryRow_congr (s.withPins t.pins) i m hs hk.symm
  · exact mem_chained_of_armed v i (by rw [hc j hj ht]; exact hj) (by rw [hc j hj ht]; exact ht)

/-! ### A channel within a pass over the channels -/

/-- A channel ARMED with another trigger than INPUT: time and edges leave it alone. -/
def Channel.awaitsOther (c : Channel) : Prop := c.state = .armed ∧ c.trigger ≠ .input

/-- An operation over one channel at a time: it changes that channel's record alone, and none that waits for another trigger
than INPUT. -/
def ChannelWise (f : State → Fin 8 → State) : Prop :=
  ∀ s i, Extends [.due, .channels] s (f s i) ∧ (∀ j, j ≠ i → (f s i).channel j = s.channel j) ∧
    ((s.channel i).awaitsOther → (f s i).channel i = s.channel i)

section
variable {f : State → Fin 8 → State} (hf : ChannelWise f)
include hf

theorem ChannelWise.keeps_awaiting (s : State) (a j : Fin 8) (h : (s.channel j).awaitsOther) :
    (f s a).channel j = s.channel j := by
  obtain ⟨_, hne, hself⟩ := hf s a
  by_cases hj : j = a
  · subst hj
    exact hself h
  · exact hne j hj

theorem ChannelWise.foldl_keeps_awaiting (l : List (Fin 8)) (s : State) (j : Fin 8) (h : (s.channel j).awaitsOther) :
    (l.foldl f s).channel j = s.channel j := by
  induction l generalizing s with
  | nil => rfl
  | cons a l ih =>
    have ha := hf.keeps_awaiting s a j h
    exact (ih _ (by rw [ha]; exact h)).trans ha

theorem ChannelWise.foldl_extends (l : List (Fin 8)) (s : State) : Extends [.due, .channels] s (l.foldl f s) :=
  Extends.foldl (fun s a => (hf s a).1) l s

theorem ChannelWise.foldl_channel_of_notMem (l : List (Fin 8)) (s : State) {i : Fin 8} (h : i ∉ l) :
    (l.foldl f s).channel i = s.channel i := by
  induction l generalizing s with
  | nil => rfl
  | cons a l ih =>
    obtain ⟨hne, hl⟩ := List.ne_and_not_mem_of_not_mem_cons h
    exact (ih _ hl).trans ((hf s a).2.1 i hne)

/-- A pass over the channels comes to each channel once, as it stood, and leaves it afterwards. -/
theorem ChannelWise.foldl_at (l : List (Fin 8)) (hl : l.Nodup) (s : State) {i : Fin 8} (hi : i ∈ l) : ∃ u : State,
    Extends [.due, .channels] s u ∧ u.channel i = s.channel i ∧
    (∀ j, (s.channel j).awaitsOther → u.channel j = s.channel j) ∧
    Extends [.due, .channels] (f u i) (l.foldl f s) ∧ (l.foldl f s).channel i = (f u i).channel i := by
  induction l generalizing s with
  | nil => cases hi
  | cons a l ih =>
    obtain ⟨ha, hl⟩ := List.nodup_cons.1 hl
    by_cases h : i = a
    · subst h
      exact ⟨s, .refl _ s, rfl, fun _ _ => rfl, hf.foldl_extends l _, hf.foldl_channel_of_notMem l _ ha⟩
    · obtain ⟨u, h1, h2, h3, h4, h5⟩ := ih hl (f s a) ((List.mem_cons.1 hi).resolve_left h)
      obtain ⟨hx, hne, _⟩ := hf s a
      refine ⟨u, hx.trans h1, h2.trans (hne i h), fun j hj => ?_, h4, h5⟩
      have hk := hf.keeps_awaiting s a j hj
      exact (h3 j (by rw [hk]; exact hj)).trans hk

end

theorem tickChannel_channelWise : ChannelWise tickChannel := by
  refine fun s i => ⟨tickChannel_extends s i, fun j hj => tickChannel_channel_ne s i hj, fun h => ?_⟩
  rw [tickChannel_of_still (by rw [h.1]; decide) (by rw [h.1]; decide)]

/-! ### Edges of an input (R4, R11) -/

theorem setChannel_emit_extends (c : Channel) (k : List Instr) : Extends [.due, .channels] s ((s.setChannel i c).emit k) :=
  (setChannel_extends s i c).step (emit_extends _ k) (by decide)

theorem countEdge_extends : Extends [.due, .channels] s (countEdge i s) :=
  .ite (giveExpiry_extends s i .count) (setChannel_extends s i _)

theorem periodExpiry_extends : Extends [.due, .channels] s (periodExpiry i s) := .ite (setChannel_emit_extends s i _ _) (.refl _ s)

theorem widthExpiry_extends (v : BitVec 24) : Extends [.due, .channels] s (widthExpiry i v s) :=
  .ite (setChannel_emit_extends s i _ _) (.refl _ s)

theorem inputEdge_extends (b : Bool) : Extends [.due, .channels] s (inputEdge i b s) := by
  unfold inputEdge activeEdge inactiveEdge
  refine .ite (.ite (runChannel_extends s i) (.ite ?_ (.refl _ s)))
    (.ite ((widthExpiry_extends s i _).step (emit_extends _ _) (by decide)) (.refl _ s))
  split
  · exact countEdge_extends s i
  · exact periodExpiry_extends s i
  · exact .refl _ s

theorem inputEdge_of_awaiting (b : Bool) (h : (s.channel i).awaitsOther) : inputEdge i b s = s := by
  obtain ⟨hs, ht⟩ := h
  have hx : ¬ (s.channel i).takesTrigger .input = true := by
    rw [Channel.takesTrigger_iff]
    rintro ⟨-, ⟨-, h, -⟩ | ⟨_, h, -⟩ | ⟨_, h, -⟩⟩
    · exact ht h
    · cases h
    · cases h
  cases b
  · simp [inputEdge, inactiveEdge, hs]
  · simp [inputEdge, activeEdge, hx, hs]

theorem inputEdge_channelWise (b : Bool) : ChannelWise (fun s i => inputEdge i b s) := fun s i =>
  ⟨inputEdge_extends s i b, fun _ hj => inputEdge_channel_ne s hj b,
    fun h => congrArg (fun t : State => t.channel i) (inputEdge_of_awaiting s i b h)⟩

theorem Channel.run_input (c : Channel) : c.run.input = c.input := by
  have h := congrArg Channel.input (Channel.run_frame c)
  exact h

theorem inputEdge_input (b : Bool) : ((inputEdge i b s).channel i).input = (s.channel i).input := by
  have hwidth (v : BitVec 24) : ((widthExpiry i v s).channel i).input = (s.channel i).input := by
    unfold widthExpiry
    dsimp only
    split <;> simp [Channel.captured]
  cases b with
  | false =>
    change ((inactiveEdge i s).channel i).input = _
    unfold inactiveEdge
    dsimp only
    split
    · exact hwidth _
    · rfl
  | true =>
    change ((activeEdge i s).channel i).input = _
    unfold activeEdge
    dsimp only
    split
    · rw [runChannel_channel_self]
      exact Channel.run_input _
    split
    · split
      · unfold countEdge
        dsimp only
        split
        · exact giveExpiry_input s i .count
        · simp
      · unfold periodExpiry
        dsimp only
        split <;> simp [Channel.captured]
      · rfl
    · rfl

/-- The edges at a COUNT channel that runs (R11). -/
theorem inputEdge_of_count {s : State} {i : Fin 8} (hm : (s.channel i).mode = some .count) (hs : (s.channel i).state = .running)
    (hi : (s.channel i).input ≠ .none) :
    inputEdge i false s = s ∧ inputEdge i true s = countEdge i s := by
  have hx : ¬ (s.channel i).takesTrigger .input = true := fun h => by
    have ha := (Channel.takesTrigger_iff.1 h).1
    rw [hs] at ha
    cases ha
  exact ⟨by simp [inputEdge, inactiveEdge, hm], by simp [inputEdge, activeEdge, hx, hs, hi, hm]⟩

/-! ### The spindle inputs (R4) -/

section
variable (was : BitVec 4) (n : Fin 4)

theorem spindleEdge_extends : Extends [.due, .channels] s (spindleEdge was s n) :=
  .ite (.refl _ s) ((inputEdge_channelWise _).foldl_extends _ s)

theorem spindleEdge_keeps_awaiting (j : Fin 8) (h : (s.channel j).awaitsOther) :
    (spindleEdge was s n).channel j = s.channel j := by
  unfold spindleEdge
  dsimp only
  split
  · rfl
  · exact (inputEdge_channelWise _).foldl_keeps_awaiting _ s j h

theorem spindleEdge_channel_of_unwired (h : (s.channel i).input ≠ .spindle n) :
    (spindleEdge was s n).channel i = s.channel i := by
  unfold spindleEdge
  dsimp only
  split
  · rfl
  · exact (inputEdge_channelWise _).foldl_channel_of_notMem _ s (by simp [h])

/-- An edge of a spindle's input reaches each channel that has it once, as it stood. -/
theorem spindleEdge_at (h : (s.channel i).input = .spindle n)
    (hb : was.getLsbD n.val ≠ s.pins.spTaken.getLsbD n.val) : ∃ u : State,
    Extends [.due, .channels] s u ∧ u.channel i = s.channel i ∧
    (∀ j, (s.channel j).awaitsOther → u.channel j = s.channel j) ∧
    Extends [.due, .channels] (inputEdge i (s.pins.spTaken.getLsbD n.val) u) (spindleEdge was s n) ∧
    (spindleEdge was s n).channel i = (inputEdge i (s.pins.spTaken.getLsbD n.val) u).channel i := by
  unfold spindleEdge
  dsimp only
  rw [if_neg hb]
  exact (inputEdge_channelWise _).foldl_at _ ((List.nodup_finRange 8).filter _) s (by simp [h])

theorem spindleEdge_input : ((spindleEdge was s n).channel i).input = (s.channel i).input := by
  by_cases h : (s.channel i).input = .spindle n
  · by_cases hb : was.getLsbD n.val = s.pins.spTaken.getLsbD n.val
    · rw [spindleEdge, if_pos hb]
    · obtain ⟨u, _, h2, _, _, h5⟩ := spindleEdge_at s i was n h hb
      rw [h5, inputEdge_input, h2]
  · rw [spindleEdge_channel_of_unwired s i was n h]

theorem foldl_spindleEdge_extends (l : List (Fin 4)) : Extends [.due, .channels] s (l.foldl (spindleEdge was) s) :=
  Extends.foldl (fun s n => spindleEdge_extends s was n) l s

theorem foldl_spindleEdge_of_unwired (l : List (Fin 4)) (h : ∀ n ∈ l, (s.channel i).input ≠ .spindle n) :
    (l.foldl (spindleEdge was) s).channel i = s.channel i := by
  induction l generalizing s with
  | nil => rfl
  | cons a l ih =>
    have ha := spindleEdge_channel_of_unwired s i was a (h a (by simp))
    exact (ih _ (fun n hn => by rw [ha]; exact h n (by simp [hn]))).trans ha

/-- A channel takes the edges of its own spindle's input alone, as the channel stood before the sample. -/
theorem foldl_spindleEdge_at (l : List (Fin 4)) (hl : l.Nodup) (hn : n ∈ l) (h : (s.channel i).input = .spindle n) : ∃ u : State,
    Extends [.due, .channels] s u ∧ u.channel i = s.channel i ∧
    (∀ j, (s.channel j).awaitsOther → u.channel j = s.channel j) ∧
    Extends [.due, .channels] (spindleEdge was u n) (l.foldl (spindleEdge was) s) ∧
    (l.foldl (spindleEdge was) s).channel i = (spindleEdge was u n).channel i := by
  induction l generalizing s with
  | nil => cases hn
  | cons a l ih =>
    obtain ⟨ha, hl⟩ := List.nodup_cons.1 hl
    by_cases hna : n = a
    · subst hna
      refine ⟨s, .refl _ s, rfl, fun _ _ => rfl, foldl_spindleEdge_extends _ was l, foldl_spindleEdge_of_unwired _ i was l ?_⟩
      intro n' hn' heq
      rw [spindleEdge_input, h] at heq
      exact ha (by cases heq; exact hn')
    · have hc := spindleEdge_channel_of_unwired s i was a (by rw [h]; simpa using hna)
      obtain ⟨u, h1, h2, h3, h4, h5⟩ := ih (spindleEdge was s a) hl ((List.mem_cons.1 hn).resolve_left hna) (by rw [hc]; exact h)
      refine ⟨u, (spindleEdge_extends s was a).trans h1, h2.trans hc, fun j hj => ?_, h4, h5⟩
      have hk := spindleEdge_keeps_awaiting s was a j hj
      exact (h3 j (by rw [hk]; exact hj)).trans hk

end

theorem takenLevel_getLsbD (before now taken : BitVec 4) (n : Nat) : (takenLevel before now taken).getLsbD n =
    if now.getLsbD n = before.getLsbD n then now.getLsbD n else taken.getLsbD n := by
  unfold takenLevel
  simp only [BitVec.getLsbD_or, BitVec.getLsbD_and]
  cases before.getLsbD n <;> cases now.getLsbD n <;> cases taken.getLsbD n <;> rfl

/-- The level that a µs brings to SP1–SP4, or the one they keep (log entries 4 and 39). -/
def State.nextSp : BitVec 4 := (s.world.levels.head?.map Levels.sp).getD s.pins.sp

/-- The node as the edges of SP1–SP4 find it. -/
def State.spSampled : State :=
  { tickLevels s with pins := { s.pins with sp := s.nextSp, spTaken := takenLevel s.pins.sp s.nextSp s.pins.spTaken } }

theorem tickLevels_pins : (tickLevels s).pins = { s.pins with sp := s.nextSp } := by
  unfold tickLevels State.nextSp
  cases s.world.levels <;> rfl

theorem tickSpindles_eq : tickSpindles s = (List.finRange 4).foldl (spindleEdge s.pins.spTaken) s.spSampled := by
  unfold tickSpindles State.spSampled
  dsimp only
  rw [tickLevels_pins]

theorem spSampled_only : Only [.pins, .world] s s.spSampled := by
  unfold State.spSampled tickLevels
  split <;> exact ⟨rfl, fun p hp => by cases p <;> first | rfl | exact absurd (by decide) hp⟩

theorem tickSpindles_extends : Extends [.due, .pins, .channels, .world] s (tickSpindles s) := by
  rw [tickSpindles_eq]
  exact ((Extends.of_only (spSampled_only s) (by decide)).grow (m := [.due, .pins, .channels, .world]) (by decide)).step
    (foldl_spindleEdge_extends _ _ _) (by decide)

theorem tickSpindles_pins : (tickSpindles s).pins =
    { s.pins with sp := s.nextSp, spTaken := takenLevel s.pins.sp s.nextSp s.pins.spTaken } := by
  rw [tickSpindles_eq]
  exact (foldl_spindleEdge_extends _ _ _).1.pins_eq

theorem tickSpindles_channel_of_unwired (h : ∀ n, (s.channel i).input ≠ .spindle n) :
    (tickSpindles s).channel i = s.channel i := by
  have hc := (spSampled_only s).channel_eq i
  rw [tickSpindles_eq]
  exact (foldl_spindleEdge_of_unwired _ i _ _ (fun n _ => by rw [hc]; exact h n)).trans hc

/-! ### The encoders (R21) -/

section
variable (e : EncoderId) (x : Bool × Bool)

/-- The pins but for what an encoder has read and taken. -/
def Pins.aside (p : Pins) : EncoderId → Pins
  | .a => { p with encA := (false, false), readA := (false, false) }
  | .b => { p with encB := (false, false), readB := (false, false) }

theorem samplePair_extends : Extends [.due, .pins] s (samplePair e s x) := by
  have h (p : Pins) : Extends [.due, .pins] s (s.withPins p) := (Extends.of_only (withPins_only s p) (by decide)).grow (by decide)
  unfold samplePair
  exact .ite (h _) (.ite (.refl _ s) (.ite ((h _).step (emit_extends _ _) (by decide)) (h _)))

theorem samplePair_aside : (samplePair e s x).pins.aside e = s.pins.aside e := by
  unfold samplePair
  dsimp only
  split
  · cases e <;> rfl
  split
  · rfl
  split <;> cases e <;> rfl

theorem samplePair_read : (samplePair e s x).pins.read e = x := by
  unfold samplePair
  dsimp only
  split
  · cases e <;> rfl
  case isFalse h =>
    split
    · exact not_not.1 h
    split <;> cases e <;> rfl

/-- A pair read twice is taken, and makes its transition due where it was not the pair taken (R21). -/
theorem samplePair_takes (hr : s.pins.read e = x) : (samplePair e s x).pins.taken e = x ∧
    (s.pins.taken e ≠ x → s.begun = true → (s.settings.encoder e).enabled = true →
      .encoderTransition e x.1 x.2 ∈ (samplePair e s x).due) := by
  unfold samplePair
  dsimp only
  rw [if_neg (not_not.2 hr)]
  split
  case isTrue ht => exact ⟨ht, fun h => absurd ht h⟩
  case isFalse ht =>
    split
    · exact ⟨by cases e <;> rfl, fun _ _ _ => by simp⟩
    case isFalse hn =>
      refine ⟨by cases e <;> rfl, fun _ hb he => absurd ?_ hn⟩
      rw [hb, he]
      rfl

theorem samplePair_of_taken (hr : s.pins.read e = x) (ht : s.pins.taken e = x) : samplePair e s x = s :=
  (if_neg (not_not.2 hr)).trans (if_pos ht)

/-- Four samples of one pair (R21). -/
theorem tickEncoder_steady (h : s.samples e = List.replicate 4 x) : (tickEncoder s e).pins.read e = x ∧
    (tickEncoder s e).pins.taken e = x ∧
    (s.pins.taken e ≠ x → s.begun = true → (s.settings.encoder e).enabled = true →
      .encoderTransition e x.1 x.2 ∈ (tickEncoder s e).due) := by
  let s1 := samplePair e s x
  let s2 := samplePair e s1 x
  have hr1 : s1.pins.read e = x := samplePair_read s e x
  have hr2 : s2.pins.read e = x := samplePair_read s1 e x
  obtain ⟨ht2, hev2⟩ := samplePair_takes s1 e x hr1
  have hs2 : samplePair e s2 x = s2 := samplePair_of_taken s2 e x hr2 ht2
  have hx : tickEncoder s e = s2 := by
    unfold tickEncoder
    rw [h]
    change samplePair e (samplePair e s2 x) x = s2
    rw [hs2, hs2]
  rw [hx]
  refine ⟨hr2, ht2, fun hn hb he => ?_⟩
  have h1 := samplePair_extends s e x
  by_cases hr : s.pins.read e = x
  · exact (samplePair_extends s1 e x).2 ((samplePair_takes s e x hr).2 hn hb he)
  · have ht1 : s1.pins.taken e = s.pins.taken e := by
      have hx1 : s1 = { s with pins := s.pins.setRead e x } := if_pos hr
      rw [hx1]
      cases e <;> rfl
    exact hev2 (by rw [ht1]; exact hn) (h1.1.begun_eq.trans hb) (by rw [h1.1.settings_eq]; exact he)

theorem tickEncoder_extends : Extends [.due, .pins] s (tickEncoder s e) :=
  Extends.foldl (f := samplePair e) (fun s x => samplePair_extends s e x) _ s

theorem tickEncoder_aside : (tickEncoder s e).pins.aside e = s.pins.aside e := by
  unfold tickEncoder
  generalize s.samples e = l
  induction l generalizing s with
  | nil => rfl
  | cons x l ih => exact (ih _).trans (samplePair_aside s e x)

end

end Sys2Proof.Machine
end

section
/-! SUPPORT. One µs as a whole (log entry 3): the stages in their order, what reaches each of them and what follows it. -/

namespace Sys2Proof.Machine

-- One proof after the other: elaborated side by side in the joined text, they wait for one another on a thread each.
set_option Elab.async false

section
variable (s : State)

/-! ### The stages of a µs -/

def State.channelsTicked : State := (List.finRange 8).foldl tickChannel (showLevels s)

def State.encodersTicked : State := tickEncoder (tickEncoder s.channelsTicked .a) .b

def State.inputsTicked : State := tickSpindles s.encodersTicked

def State.meterTicked : State := tickMeter s.inputsTicked

def State.twistTicked : State := tickTwist s.meterTicked

def State.samplerTicked : State := tickSampler s.twistTicked

def State.phaseTicked : State := tickPhase s.samplerTicked

def State.knotTicked : State := tickKnot s.phaseTicked

def State.lineTicked : State := tickLine s.knotTicked

def State.presenceTicked : State := tickPresence s.lineTicked

def State.peersTicked : State := tickPeers s.presenceTicked

def State.protTicked : State := tickProtection s.peersTicked

def State.supplyTicked : State := tickSupply s.protTicked

def State.coilTicked : State := tickCoil s.supplyTicked

/-! Each stage by an equation of its own, for `rw`. -/

theorem channelsTicked_eq : s.channelsTicked = (List.finRange 8).foldl tickChannel (showLevels s) := rfl

theorem encodersTicked_eq : s.encodersTicked = tickEncoder (tickEncoder s.channelsTicked .a) .b := rfl

theorem inputsTicked_eq : s.inputsTicked = tickSpindles s.encodersTicked := rfl

theorem meterTicked_eq : s.meterTicked = tickMeter s.inputsTicked := rfl

theorem twistTicked_eq : s.twistTicked = tickTwist s.meterTicked := rfl

theorem samplerTicked_eq : s.samplerTicked = tickSampler s.twistTicked := rfl

theorem phaseTicked_eq : s.phaseTicked = tickPhase s.samplerTicked := rfl

theorem knotTicked_eq : s.knotTicked = tickKnot s.phaseTicked := rfl

theorem lineTicked_eq : s.lineTicked = tickLine s.knotTicked := rfl

theorem presenceTicked_eq : s.presenceTicked = tickPresence s.lineTicked := rfl

theorem peersTicked_eq : s.peersTicked = tickPeers s.presenceTicked := rfl

theorem protTicked_eq : s.protTicked = tickProtection s.peersTicked := rfl

theorem supplyTicked_eq : s.supplyTicked = tickSupply s.protTicked := rfl

theorem coilTicked_eq : s.coilTicked = tickCoil s.supplyTicked := rfl

theorem tick_eq : tick s = tickStore s.coilTicked := by
  rw [coilTicked_eq, supplyTicked_eq, protTicked_eq, peersTicked_eq, presenceTicked_eq, lineTicked_eq, knotTicked_eq,
    phaseTicked_eq, samplerTicked_eq, twistTicked_eq, meterTicked_eq, inputsTicked_eq, encodersTicked_eq, channelsTicked_eq]
  unfold tick
  simp only [List.foldl_cons, List.foldl_nil]

/-! ### What has changed before a stage -/

theorem channelsTicked_extends : Extends [.due, .pins, .channels] s s.channelsTicked :=
  ((Extends.of_only (showLevels_only s) (by decide)).grow (m := [.due, .pins, .channels]) (by decide)).step
    (tickChannel_channelWise.foldl_extends _ _) (by decide)

theorem encodersTicked_extends : Extends [.due, .pins, .channels] s s.encodersTicked :=
  ((channelsTicked_extends s).step (tickEncoder_extends _ _) (by decide)).step (tickEncoder_extends _ _) (by decide)

theorem inputsTicked_extends : Extends [.due, .pins, .channels, .world] s s.inputsTicked :=
  (encodersTicked_extends s).join (tickSpindles_extends _) (by decide)

theorem meterTicked_extends : Extends [.due, .pins, .channels, .world, .meter] s s.meterTicked :=
  (inputsTicked_extends s).join (tickMeter_extends _) (by decide)

theorem twistTicked_extends : Extends [.due, .pins, .channels, .world, .meter, .twist] s s.twistTicked :=
  (meterTicked_extends s).join (tickTwist_extends _) (by decide)

theorem samplerTicked_extends : Extends [.due, .pins, .channels, .world, .meter, .twist, .sampler] s s.samplerTicked :=
  (twistTicked_extends s).join (tickSampler_extends _) (by decide)

theorem phaseTicked_extends : Extends [.due, .pins, .channels, .world, .meter, .twist, .sampler, .knot] s s.phaseTicked :=
  (samplerTicked_extends s).join (tickPhase_extends _) (by decide)

theorem knotTicked_extends : Extends [.due, .pins, .channels, .world, .meter, .twist, .sampler, .knot] s s.knotTicked :=
  (phaseTicked_extends s).step (tickKnot_extends _) (by decide)

theorem lineTicked_extends : Extends [.due, .pins, .channels, .world, .meter, .twist, .sampler, .knot, .line] s s.lineTicked :=
  (knotTicked_extends s).join (tickLine_extends _) (by decide)

theorem presenceTicked_extends :
    Extends [.due, .pins, .channels, .world, .meter, .twist, .sampler, .knot, .line] s s.presenceTicked :=
  (lineTicked_extends s).step (tickPresence_extends _) (by decide)

theorem peersTicked_extends :
    Extends [.due, .pins, .channels, .world, .meter, .twist, .sampler, .knot, .line, .peers] s s.peersTicked :=
  (presenceTicked_extends s).join (tickPeers_extends _) (by decide)

theorem protTicked_extends :
    Extends [.due, .pins, .channels, .world, .meter, .twist, .sampler, .knot, .line, .peers, .prot] s s.protTicked :=
  (peersTicked_extends s).join (tickProtection_extends _) (by decide)

theorem supplyTicked_extends :
    Extends [.due, .pins, .channels, .world, .meter, .twist, .sampler, .knot, .line, .peers, .prot] s s.supplyTicked :=
  (protTicked_extends s).step (tickSupply_extends _) (by decide)

theorem coilTicked_extends :
    Extends [.due, .pins, .channels, .world, .meter, .twist, .sampler, .knot, .line, .peers, .prot, .coil] s s.coilTicked :=
  (supplyTicked_extends s).join (tickCoil_extends _) (by decide)

theorem tick_extends : Extends
    [.due, .pins, .channels, .world, .meter, .twist, .sampler, .knot, .line, .peers, .prot, .coil, .store, .memory] s (tick s) := by
  rw [tick_eq]
  exact (coilTicked_extends s).join (tickStore_extends _) (by decide)

/-! ### What changes after a stage -/

theorem coilTicked_tick : Extends [.due, .coil, .store, .memory] s.coilTicked (tick s) := by
  rw [tick_eq]
  exact tickStore_extends _

theorem supplyTicked_tick : Extends [.due, .coil, .store, .memory] s.supplyTicked (tick s) :=
  (tickCoil_extends _).join (coilTicked_tick s) (by decide)

theorem protTicked_tick : Extends [.due, .coil, .store, .memory, .pins] s.protTicked (tick s) :=
  (tickSupply_extends _).join (supplyTicked_tick s) (by decide)

theorem peersTicked_tick : Extends [.due, .coil, .store, .memory, .pins, .prot] s.peersTicked (tick s) :=
  (tickProtection_extends _).join (protTicked_tick s) (by decide)

theorem presenceTicked_tick : Extends [.due, .coil, .store, .memory, .pins, .prot, .peers] s.presenceTicked (tick s) :=
  (tickPeers_extends _).join (peersTicked_tick s) (by decide)

theorem lineTicked_tick : Extends [.due, .coil, .store, .memory, .pins, .prot, .peers, .line] s.lineTicked (tick s) :=
  (tickPresence_extends _).join (presenceTicked_tick s) (by decide)

theorem knotTicked_tick : Extends [.due, .coil, .store, .memory, .pins, .prot, .peers, .line, .world] s.knotTicked (tick s) :=
  (tickLine_extends _).join (lineTicked_tick s) (by decide)

theorem phaseTicked_tick :
    Extends [.due, .coil, .store, .memory, .pins, .prot, .peers, .line, .world, .knot] s.phaseTicked (tick s) :=
  (tickKnot_extends _).join (knotTicked_tick s) (by decide)

theorem samplerTicked_tick :
    Extends [.due, .coil, .store, .memory, .pins, .prot, .peers, .line, .world, .knot] s.samplerTicked (tick s) :=
  (tickPhase_extends _).join (phaseTicked_tick s) (by decide)

theorem twistTicked_tick :
    Extends [.due, .coil, .store, .memory, .pins, .prot, .peers, .line, .world, .knot, .sampler] s.twistTicked (tick s) :=
  (tickSampler_extends _).join (samplerTicked_tick s) (by decide)

theorem meterTicked_tick :
    Extends [.due, .coil, .store, .memory, .pins, .prot, .peers, .line, .world, .knot, .sampler, .twist] s.meterTicked (tick s) :=
  (tickTwist_extends _).join (twistTicked_tick s) (by decide)

theorem inputsTicked_tick : Extends
    [.due, .coil, .store, .memory, .pins, .prot, .peers, .line, .world, .knot, .sampler, .twist, .meter] s.inputsTicked (tick s) :=
  (tickMeter_extends _).join (meterTicked_tick s) (by decide)

theorem encodersTicked_tick : s.encodersTicked.due ⊆ (tick s).due := by
  have h : s.encodersTicked.due ⊆ s.inputsTicked.due := by
    rw [inputsTicked_eq]
    exact (tickSpindles_extends s.encodersTicked).2
  exact fun _ he => (inputsTicked_tick s).2 (h he)

theorem encoderTicked_tick (e : EncoderId) :
    (tickEncoder (if e = .a then s.channelsTicked else tickEncoder s.channelsTicked .a) e).due ⊆ (tick s).due := by
  have h := encodersTicked_tick s
  rw [encodersTicked_eq] at h
  cases e with
  | a => exact fun _ he => h ((tickEncoder_extends (tickEncoder s.channelsTicked .a) .b).2 he)
  | b => exact h

theorem phaseTicked_pins : s.samplerTicked.pins = s.inputsTicked.pins ∧ s.phaseTicked.pins = s.inputsTicked.pins := by
  have hsampler : s.samplerTicked.pins = s.inputsTicked.pins := by
    rw [samplerTicked_eq, (tickSampler_extends _).1.pins_eq, twistTicked_eq, (tickTwist_extends _).1.pins_eq,
      meterTicked_eq, (tickMeter_extends _).1.pins_eq]
  refine ⟨hsampler, ?_⟩
  rw [phaseTicked_eq, (tickPhase_extends _).1.pins_eq, hsampler]

theorem inputsTicked_pins_protTicked : s.protTicked.pins = s.inputsTicked.pins := by
  rw [protTicked_eq, (tickProtection_extends _).1.pins_eq, peersTicked_eq, (tickPeers_extends _).1.pins_eq,
    presenceTicked_eq, (tickPresence_extends _).1.pins_eq, lineTicked_eq, (tickLine_extends _).1.pins_eq, knotTicked_eq,
    (tickKnot_extends _).1.pins_eq, (phaseTicked_pins s).2]

/-! ### The timers of a µs -/

theorem tick_meter : (tick s).meter = { s.meter with evaluationLeft := (timerTick s.meter.evaluationLeft).1 } := by
  rw [(meterTicked_tick s).1.meter_eq, meterTicked_eq, tickMeter_meter, (inputsTicked_extends s).1.meter_eq]

theorem tick_evaluation : TimerRuns s.meter.evaluationLeft (tick s).meter.evaluationLeft .speedEvaluation (tick s) := by
  rw [tick_meter]
  refine timerTick_runs fun h => (meterTicked_tick s).2 (mem_onExpiry ?_ _)
  rw [(inputsTicked_extends s).1.meter_eq]
  exact h

theorem tick_twist : (tick s).twist = { s.twist with holdLeft := (timerTick s.twist.holdLeft).1 } := by
  rw [(twistTicked_tick s).1.2 .twist (by decide), twistTicked_eq, tickTwist_twist,
    (meterTicked_extends s).1.2 .twist (by decide)]

theorem tick_hold : TimerRuns s.twist.holdLeft (tick s).twist.holdLeft .paceHoldExpiry (tick s) := by
  rw [tick_twist]
  refine timerTick_runs fun h => (twistTicked_tick s).2 (mem_onExpiry ?_ _)
  rw [(meterTicked_extends s).1.2 .twist (by decide)]
  exact h

theorem tick_sampler :
    (tick s).sampler = { s.sampler with conversionLeft := (timerTick s.sampler.conversionLeft).1 } := by
  rw [(samplerTicked_tick s).1.2 .sampler (by decide), samplerTicked_eq, tickSampler_sampler,
    (twistTicked_extends s).1.2 .sampler (by decide)]

theorem tick_conversion : TimerRuns s.sampler.conversionLeft (tick s).sampler.conversionLeft
    (.conversionComplete s.sampler.sampled) (tick s) := by
  have hs : s.twistTicked.sampler = s.sampler := (twistTicked_extends s).1.2 .sampler (by decide)
  rw [tick_sampler]
  refine timerTick_runs fun h => (samplerTicked_tick s).2 ?_
  rw [← hs] at h ⊢
  exact mem_onExpiry h _

theorem tick_line_held : (tick s).line.queue = s.line.queue ∧
    (tick s).line.presenceLeft = (timerTick s.line.presenceLeft).1 := by
  have hl : (tick s).line = { s.lineTicked.line with presenceLeft := (timerTick s.lineTicked.line.presenceLeft).1 } := by
    rw [(presenceTicked_tick s).1.2 .line (by decide), presenceTicked_eq, tickPresence_line]
  have hk : s.knotTicked.line = s.line := (knotTicked_extends s).1.2 .line (by decide)
  have hh : s.lineTicked.line.held = s.line.held := (tickLine_held s.knotTicked).trans (congrArg FloorLine.held hk)
  obtain ⟨hq, hp⟩ := Prod.mk.inj hh
  rw [hl]
  exact ⟨hq, congrArg (fun x => (timerTick x).1) hp⟩

theorem tick_presence : TimerRuns s.line.presenceLeft (tick s).line.presenceLeft .presenceTimerExpiry (tick s) := by
  have hk : s.knotTicked.line = s.line := (knotTicked_extends s).1.2 .line (by decide)
  have hh : s.lineTicked.line.held = s.line.held := (tickLine_held s.knotTicked).trans (congrArg FloorLine.held hk)
  obtain ⟨_, hp⟩ := Prod.mk.inj hh
  rw [(tick_line_held s).2]
  refine timerTick_runs fun h => (presenceTicked_tick s).2 (mem_onExpiry ?_ _)
  rw [hp]
  exact h

theorem tick_peers : (tick s).peers = s.peers.map agedPeer := by
  rw [(peersTicked_tick s).1.2 .peers (by decide)]
  exact congrArg (List.map agedPeer) ((presenceTicked_extends s).1.2 .peers (by decide))

theorem tick_ageing {p : Peer} (hp : p ∈ s.peers)
    (h : 10000000 ≤ p.age + 1 ∨ (p.heard = true ∧ 3000000 ≤ p.age + 1)) : .peerAgeing p.station ∈ (tick s).due := by
  refine (peersTicked_tick s).2 (mem_tickPeers ?_ h)
  rw [(presenceTicked_extends s).1.2 .peers (by decide)]
  exact hp

theorem tick_prot : (tick s).prot = { s.prot with
    haltLeft := (timerTick s.prot.haltLeft).1, blinkLeft := (timerTick s.prot.blinkLeft).1
    lamp := { s.prot.lamp with flashLeft := (timerTick s.prot.lamp.flashLeft).1 } } := by
  rw [(protTicked_tick s).1.prot_eq, protTicked_eq, tickProtection_prot, (peersTicked_extends s).1.prot_eq]

theorem tick_protection_due : ((timerTick s.prot.haltLeft).2 = true → .haltTimerExpiry ∈ (tick s).due) ∧
    ((timerTick s.prot.blinkLeft).2 = true → .refusalBlinkEnd ∈ (tick s).due) ∧
    ((timerTick s.prot.lamp.flashLeft).2 = true → (timerTick s.prot.blinkLeft).2 = false → .alarmFlash ∈ (tick s).due) := by
  have h := tickProtection_due s.peersTicked
  rw [(peersTicked_extends s).1.prot_eq] at h
  obtain ⟨hhalt, hblink, hflash⟩ := h
  have hd := (protTicked_tick s).2
  exact ⟨fun h => hd (hhalt h), fun h => hd (hblink h), fun h hb => hd (hflash h hb)⟩

theorem tick_halt : TimerRuns s.prot.haltLeft (tick s).prot.haltLeft .haltTimerExpiry (tick s) := by
  rw [tick_prot]
  exact timerTick_runs (tick_protection_due s).1

theorem tick_blink : TimerRuns s.prot.blinkLeft (tick s).prot.blinkLeft .refusalBlinkEnd (tick s) := by
  rw [tick_prot]
  exact timerTick_runs (tick_protection_due s).2.1

/-- A blink that has more than a µs left does not end. -/
theorem timerTick_not_expired {a : Option Nat} (h : ∀ b, a = some b → 1 < b) : (timerTick a).2 = false := by
  match a with
  | none => rfl
  | some 0 => exact absurd (h 0 rfl) (by decide)
  | some (n + 1) =>
    have := h (n + 1) rfl
    simp [timerTick]
    omega

theorem tick_flash : (s.prot.lamp.flashLeft = none → (tick s).prot.lamp.flashLeft = none) ∧
    ∀ n, s.prot.lamp.flashLeft = some (n + 1) → (tick s).prot.lamp.flashLeft = some n ∧
      (n = 0 → (∀ b, s.prot.blinkLeft = some b → 1 < b) → .alarmFlash ∈ (tick s).due) := by
  rw [tick_prot]
  refine ⟨fun h => by simp only [h, timerTick], fun n h => ⟨by simp only [h, timerTick], fun hn hb => ?_⟩⟩
  exact (tick_protection_due s).2.2 (by simp [h, hn, timerTick]) (timerTick_not_expired hb)

theorem tick_coil_timers : TimerRuns s.coil.restLeft (tick s).coil.restLeft .restTimerExpiry (tick s) ∧
    TimerRuns s.coil.cutLeft (tick s).coil.cutLeft .cutTimerExpiry (tick s) := by
  have hc : s.supplyTicked.coil = s.coil := (supplyTicked_extends s).1.2 .coil (by decide)
  have ht : (tick s).coil.timers = ((timerTick s.coil.restLeft).1, (timerTick s.coil.cutLeft).1) := by
    rw [tick_eq, tickStore_timers, coilTicked_eq, tickCoil_coil, hc]
    rfl
  obtain ⟨hr, hcut⟩ := Prod.mk.inj ht
  have hdue := tickCoil_due s.supplyTicked
  rw [hc] at hdue
  rw [hr, hcut]
  exact ⟨timerTick_runs fun h => (coilTicked_tick s).2 (hdue.1 h), timerTick_runs fun h => (coilTicked_tick s).2 (hdue.2 h)⟩

theorem tick_store_of_none (h : s.store.inFlight = none) :
    (tick s).memory = s.memory ∧ (tick s).records = s.records ∧ (tick s).store = s.store := by
  have hs : s.coilTicked.store = s.store := (coilTicked_extends s).1.2 .store (by decide)
  have hm : s.coilTicked.memory = s.memory := (coilTicked_extends s).1.2 .memory (by decide)
  have hc : s.supplyTicked.coil = s.coil := (supplyTicked_extends s).1.2 .coil (by decide)
  rw [tick_eq, tickStore_of_none _ (by rw [hs]; exact h)]
  refine ⟨hm, ?_, hs⟩
  unfold State.records
  rw [coilTicked_eq, tickCoil_coil, hc]

theorem tick_store {f : InFlight} (h : s.store.inFlight = some f) (hl : 1 < f.left) :
    (tick s).store = { s.store with inFlight := some { f with left := f.left - 1 } } := by
  have hs : s.coilTicked.store = s.store := (coilTicked_extends s).1.2 .store (by decide)
  rw [tick_eq, tickStore_store _ (by rw [hs]; exact h) hl, hs]

/-! ### The pins after a µs -/

theorem Pins.aside_comm (p : Pins) : (p.aside .a).aside .b = (p.aside .b).aside .a := rfl

/-- Another field than those of the two encoders. -/
theorem encodersTicked_pins : (s.encodersTicked.pins.aside .a).aside .b = ((showLevels s).pins.aside .a).aside .b := by
  have ha := tickEncoder_aside s.channelsTicked .a
  have hb := tickEncoder_aside (tickEncoder s.channelsTicked .a) .b
  have hc : s.channelsTicked.pins = (showLevels s).pins := (tickChannel_channelWise.foldl_extends _ _).1.pins_eq
  calc (s.encodersTicked.pins.aside .a).aside .b
      = (s.encodersTicked.pins.aside .b).aside .a := Pins.aside_comm _
    _ = ((tickEncoder s.channelsTicked .a).pins.aside .b).aside .a := by rw [encodersTicked_eq, hb]
    _ = ((tickEncoder s.channelsTicked .a).pins.aside .a).aside .b := (Pins.aside_comm _).symm
    _ = (s.channelsTicked.pins.aside .a).aside .b := by rw [ha]
    _ = ((showLevels s).pins.aside .a).aside .b := by rw [hc]

theorem showLevels_pins : (showLevels s).pins = { s.pins with
    phase := (s.world.levels.head?.map Levels.phase).getD s.pins.phase
    ks := (s.world.levels.head?.map Levels.ks).getD s.pins.ks
    ai := (s.world.levels.head?.map Levels.ai).getD s.pins.ai
    supply := (s.world.levels.head?.map Levels.supply).getD s.pins.supply } := by
  unfold showLevels
  cases s.world.levels <;> rfl

/-- The pins but for the encoders', as one reads them after the encoders' samples. -/
theorem encodersTicked_levels : ∃ a b c d, s.encodersTicked.pins =
    { (showLevels s).pins with encA := a, readA := b, encB := c, readB := d } := by
  have h := encodersTicked_pins s
  generalize s.encodersTicked.pins = p at h ⊢
  generalize (showLevels s).pins = q at h ⊢
  refine ⟨p.encA, p.readA, p.encB, p.readB, ?_⟩
  cases p
  cases q
  injection h
  subst_vars
  rfl

theorem encodersTicked_nextSp : s.encodersTicked.nextSp = s.nextSp := by
  have hw : s.encodersTicked.world = s.world := (encodersTicked_extends s).1.2 .world (by decide)
  obtain ⟨a, b, c, d, h⟩ := encodersTicked_levels s
  unfold State.nextSp
  rw [hw, h, showLevels_pins]

theorem protTicked_pins : s.protTicked.pins = { s.encodersTicked.pins with
    sp := s.nextSp, spTaken := takenLevel s.pins.sp s.nextSp s.pins.spTaken } := by
  obtain ⟨a, b, c, d, h⟩ := encodersTicked_levels s
  have hsp : s.encodersTicked.pins.sp = s.pins.sp := by rw [h, showLevels_pins]
  have htaken : s.encodersTicked.pins.spTaken = s.pins.spTaken := by rw [h, showLevels_pins]
  rw [inputsTicked_pins_protTicked, inputsTicked_eq, tickSpindles_pins, encodersTicked_nextSp, hsp, htaken]

theorem tickSupply_pins : (tickSupply s).pins = s.pins.supplyRead := rfl

theorem tick_pins : (tick s).pins = s.protTicked.pins.supplyRead := by
  rw [(supplyTicked_tick s).1.pins_eq, supplyTicked_eq, tickSupply_pins]

/-- The levels at the pins after a µs (log entries 4 and 39), the readings of the supply (R133) and the levels taken at SP1–SP4 (R4). -/
theorem tick_levels :
    (tick s).pins.breakOpen = s.pins.breakOpen ∧ (tick s).pins.sp = s.nextSp ∧
    (tick s).pins.ai = (s.world.levels.head?.map Levels.ai).getD s.pins.ai ∧
    (tick s).pins.supply = (s.world.levels.head?.map Levels.supply).getD s.pins.supply ∧
    (tick s).pins.phase = (s.world.levels.head?.map Levels.phase).getD s.pins.phase ∧
    (tick s).pins.ks = (s.world.levels.head?.map Levels.ks).getD s.pins.ks ∧
    (tick s).pins.spTaken = takenLevel s.pins.sp s.nextSp s.pins.spTaken ∧
    (tick s).pins.supplyLow = (if (s.world.levels.head?.map Levels.supply).getD s.pins.supply < 17000
      then holdInc 1000 s.pins.supplyLow else 0) ∧
    (tick s).pins.supplyHigh = (if 18000 < (s.world.levels.head?.map Levels.supply).getD s.pins.supply
      then holdInc 100000 s.pins.supplyHigh else 0) := by
  obtain ⟨a, b, c, d, h⟩ := encodersTicked_levels s
  rw [tick_pins, protTicked_pins, h, showLevels_pins]
  exact ⟨rfl, rfl, rfl, rfl, rfl, rfl, rfl, rfl, rfl⟩

/-- The stages from the sampler to the coil builder read the head lines and the phase inputs as the µs leaves them. -/
theorem Pins.supplyRead_levels (p : Pins) : p.ks = p.supplyRead.ks ∧ p.phase = p.supplyRead.phase := ⟨rfl, rfl⟩

theorem inputsTicked_levels : s.inputsTicked.pins.ks = (tick s).pins.ks ∧ s.inputsTicked.pins.phase = (tick s).pins.phase := by
  rw [tick_pins, inputsTicked_pins_protTicked]
  exact Pins.supplyRead_levels _

theorem tick_supply (hb : s.begun = true) :
    (s.prot.supplyWarning = false → 1000 ≤ (tick s).pins.supplyLow → .supplyWarning ∈ (tick s).due) ∧
    (s.prot.supplyWarning = true → 100000 ≤ (tick s).pins.supplyHigh → .supplyRecovery ∈ (tick s).due) := by
  have hp : s.protTicked.prot = (tick s).prot := ((protTicked_tick s).1.prot_eq).symm
  rw [tick_prot] at hp
  have hbegun : (s.protTicked.withPins s.protTicked.pins.supplyRead).begun = true := by
    change (s.protTicked.prot.permit != .unset) = true
    rw [hp]
    exact hb
  have hwarn : (s.protTicked.withPins s.protTicked.pins.supplyRead).prot.supplyWarning = s.prot.supplyWarning := by
    change s.protTicked.prot.supplyWarning = _
    rw [hp]
  rw [tick_pins]
  have hin (e : Instr) (he : e ∈ supplyEvents (s.protTicked.withPins s.protTicked.pins.supplyRead)) : e ∈ (tick s).due :=
    (supplyTicked_tick s).2 (List.mem_append_right _ he)
  refine ⟨fun hw hlow => hin _ ?_, fun hw hhigh => hin _ ?_⟩
  · unfold supplyEvents
    rw [hbegun, hwarn, hw]
    exact (if_pos hlow).symm ▸ List.mem_singleton_self _
  · unfold supplyEvents
    rw [hbegun, hwarn, hw]
    exact (if_pos hhigh).symm ▸ List.mem_singleton_self _

/-! ### The encoders and the phase inputs over a µs -/

theorem samples_a {x : Bool × Bool} (h : (s.world.levels.head?.map Levels.encA).getD (Vector.replicate 4 s.pins.readA) =
    Vector.replicate 4 x) : s.samples .a = List.replicate 4 x := by
  have ht := congrArg Vector.toList h
  rw [Vector.toList_replicate] at ht
  rw [← ht]
  unfold State.samples
  cases s.world.levels with
  | nil => exact Vector.toList_replicate.symm
  | cons l rest => rfl

theorem samples_b {x : Bool × Bool} (h : (s.world.levels.head?.map Levels.encB).getD (Vector.replicate 4 s.pins.readB) =
    Vector.replicate 4 x) : s.samples .b = List.replicate 4 x := by
  have ht := congrArg Vector.toList h
  rw [Vector.toList_replicate] at ht
  rw [← ht]
  unfold State.samples
  cases s.world.levels with
  | nil => exact Vector.toList_replicate.symm
  | cons l rest => rfl

/-- What follows the encoders' samples leaves their pairs. -/
theorem tick_pairs : (tick s).pins.readA = s.encodersTicked.pins.readA ∧ (tick s).pins.encA = s.encodersTicked.pins.encA ∧
    (tick s).pins.readB = s.encodersTicked.pins.readB ∧ (tick s).pins.encB = s.encodersTicked.pins.encB := by
  rw [tick_pins, protTicked_pins]
  generalize s.encodersTicked.pins = p
  exact ⟨rfl, rfl, rfl, rfl⟩

theorem Pins.aside_b_eq {p q : Pins} (h : p.aside .b = q.aside .b) : p.readA = q.readA ∧ p.encA = q.encA :=
  ⟨congrArg (f := Pins.readA) (a₁ := p.aside .b) (a₂ := q.aside .b) h,
    congrArg (f := Pins.encA) (a₁ := p.aside .b) (a₂ := q.aside .b) h⟩

theorem Pins.aside_a_eq {p q : Pins} (h : p.aside .a = q.aside .a) : p.readB = q.readB ∧ p.encB = q.encB :=
  ⟨congrArg (f := Pins.readB) (a₁ := p.aside .a) (a₂ := q.aside .a) h,
    congrArg (f := Pins.encB) (a₁ := p.aside .a) (a₂ := q.aside .a) h⟩

/-- What four samples of one pair leave of an encoder after the whole µs. -/
theorem tick_encoder_a {x : Bool × Bool} (h : (s.world.levels.head?.map Levels.encA).getD (Vector.replicate 4 s.pins.readA) =
    Vector.replicate 4 x) : (tick s).pins.readA = x ∧ (tick s).pins.encA = x ∧
      (s.pins.encA ≠ x → s.begun = true → s.settings.encA.enabled = true → .encoderTransition .a x.1 x.2 ∈ (tick s).due) := by
  have hc := (channelsTicked_extends s).1
  have hpins : s.channelsTicked.pins = (showLevels s).pins := (tickChannel_channelWise.foldl_extends _ _).1.pins_eq
  rw [showLevels_pins] at hpins
  have hsamples : s.channelsTicked.samples .a = List.replicate 4 x := by
    refine samples_a _ ?_
    rw [hc.2 .world (by decide), hpins]
    exact h
  obtain ⟨hread, htaken, hdue⟩ := tickEncoder_steady _ .a x hsamples
  obtain ⟨hra, hea, _, _⟩ := tick_pairs s
  rw [encodersTicked_eq] at hra hea
  obtain ⟨hreadB, hencB⟩ := Pins.aside_b_eq (tickEncoder_aside (tickEncoder s.channelsTicked .a) .b)
  refine ⟨hra.trans (hreadB.trans hread), hea.trans (hencB.trans htaken), fun hn hb' he => ?_⟩
  have hev := hdue (by rw [hpins]; exact hn) (hc.begun_eq.trans hb') (by rw [hc.settings_eq]; exact he)
  exact encoderTicked_tick s .a hev

theorem tick_encoder_b {x : Bool × Bool} (h : (s.world.levels.head?.map Levels.encB).getD (Vector.replicate 4 s.pins.readB) =
    Vector.replicate 4 x) : (tick s).pins.readB = x ∧ (tick s).pins.encB = x ∧
      (s.pins.encB ≠ x → s.begun = true → s.settings.encB.enabled = true → .encoderTransition .b x.1 x.2 ∈ (tick s).due) := by
  have hc := ((channelsTicked_extends s).step (tickEncoder_extends _ .a) (by decide)).1
  have hpins : s.channelsTicked.pins = (showLevels s).pins := (tickChannel_channelWise.foldl_extends _ _).1.pins_eq
  rw [showLevels_pins] at hpins
  obtain ⟨hreadA, hencA⟩ := Pins.aside_a_eq (tickEncoder_aside s.channelsTicked .a)
  rw [hpins] at hreadA hencA
  have hsamples : (tickEncoder s.channelsTicked .a).samples .b = List.replicate 4 x := by
    refine samples_b _ ?_
    rw [hc.2 .world (by decide), hreadA]
    exact h
  obtain ⟨hread, htaken, hdue⟩ := tickEncoder_steady _ .b x hsamples
  obtain ⟨_, _, hrb, heb⟩ := tick_pairs s
  rw [encodersTicked_eq] at hrb heb
  refine ⟨hrb.trans hread, heb.trans htaken, fun hn hb' he => ?_⟩
  have hev := hdue (by rw [Pins.taken, hencA]; exact hn) (hc.begun_eq.trans hb') (by rw [hc.settings_eq]; exact he)
  exact encoderTicked_tick s .b hev

theorem tick_knot : (tick s).knot = { s.phaseTicked.knot with sampleLeft := (timerTick s.phaseTicked.knot.sampleLeft).1 } := by
  rw [(knotTicked_tick s).1.knot_eq, knotTicked_eq, tickKnot_knot]

theorem tickPhase_sampleLeft : (tickPhase s).knot.sampleLeft = s.knot.sampleLeft := by
  unfold tickPhase
  dsimp only
  split
  · rfl
  split
  · split <;> rfl
  split
  · rw [(onExpiry_extends _ _ _).1.knot_eq]
    rfl
  · rfl

theorem tick_sample : TimerRuns s.knot.sampleLeft (tick s).knot.sampleLeft (.knotSample (tick s).pins.ks) (tick s) := by
  have hk : s.phaseTicked.knot.sampleLeft = s.knot.sampleLeft := by
    rw [phaseTicked_eq, tickPhase_sampleLeft, (samplerTicked_extends s).1.knot_eq]
  rw [tick_knot, ← (inputsTicked_levels s).1, ← (phaseTicked_pins s).2]
  dsimp only
  rw [hk]
  refine timerTick_runs fun h => (knotTicked_tick s).2 (mem_onExpiry ?_ _)
  rw [hk]
  exact h

/-- The phase filter over a µs (R75). -/
theorem tick_phase (hb : s.begun = true) (hn : s.settings.knot = true) :
    let code := (tick s).pins.phase
    (tick s).knot.takenCode = s.knot.takenCode ∧ (tick s).knot.candidate = s.knot.candidate ∧
    (s.knot.takenCode = some code → (tick s).knot.filterTime = s.knot.filterTime ∧
      (s.knot.candidate ≠ none → .phaseCandidate code ∈ (tick s).due)) ∧
    (s.knot.takenCode ≠ some code → s.knot.candidate = some code → (tick s).knot.filterTime = s.knot.filterTime + 1 ∧
      (s.settings.phaseFilter ≤ s.knot.filterTime + 1 → .phaseCodeChange code ∈ (tick s).due)) ∧
    (s.knot.takenCode ≠ some code → s.knot.candidate ≠ some code → (tick s).knot.filterTime = s.knot.filterTime ∧
      .phaseCandidate code ∈ (tick s).due) := by
  have h0 := (samplerTicked_extends s).1
  have hknot := h0.knot_eq
  have hcode : s.samplerTicked.pins.phase = (tick s).pins.phase := by rw [(phaseTicked_pins s).1, (inputsTicked_levels s).2]
  have hnode : (!s.samplerTicked.knotNode) = false := by
    rw [State.knotNode, h0.begun_eq, h0.settings_eq, hb, hn]
    rfl
  have hdue := (phaseTicked_tick s).2
  have hx : s.phaseTicked = tickPhase s.samplerTicked := rfl
  intro code
  rw [tick_knot]
  dsimp only
  unfold tickPhase at hx
  simp only [hnode, hknot, hcode, h0.settings_eq, Bool.false_eq_true, if_false] at hx
  by_cases ht : s.knot.takenCode = some code
  · rw [if_pos ht] at hx
    have hk : s.phaseTicked.knot = s.knot := by
      rw [hx]
      split <;> exact hknot
    rw [hk]
    refine ⟨rfl, rfl, fun _ => ⟨rfl, fun hc => hdue ?_⟩, fun h => absurd ht h, fun h => absurd ht h⟩
    rw [hx, if_pos (Option.isSome_iff_ne_none.2 hc)]
    simp [code]
  · rw [if_neg ht] at hx
    by_cases hc : s.knot.candidate = some code
    · rw [if_pos hc] at hx
      have hk : s.phaseTicked.knot = { s.knot with filterTime := s.knot.filterTime + 1 } := by
        rw [hx, (onExpiry_extends _ _ _).1.knot_eq]
        rfl
      rw [hk]
      refine ⟨rfl, rfl, fun h => absurd h ht, fun _ _ => ⟨rfl, fun hf => hdue ?_⟩, fun _ h => absurd hc h⟩
      rw [hx]
      exact mem_onExpiry (decide_eq_true hf) _
    · rw [if_neg hc] at hx
      have hk : s.phaseTicked.knot = s.knot := by
        rw [hx]
        exact hknot
      rw [hk]
      refine ⟨rfl, rfl, fun h => absurd h ht, fun _ h => absurd h hc, fun _ _ => ⟨rfl, hdue ?_⟩⟩
      rw [hx]
      simp [code]

end

end Sys2Proof.Machine
end

section
/-! SUPPORT. A channel over one µs: as the pass over the channels finds it, and the edges of its own spindle's input. -/

namespace Sys2Proof.Machine

-- One proof after the other: elaborated side by side in the joined text, they wait for one another on a thread each.
set_option Elab.async false

variable {s : State} {i : Fin 8}

/-! ### A channel as its turn finds it -/

/-- A state u between s and t in which channel i stands as c, and in which the settings, the head lines that t reads and every
other channel that awaits another trigger than INPUT are those of s. -/
structure Comes (s : State) (i : Fin 8) (c : Channel) (u t : State) : Prop where
  settings : u.settings = s.settings
  ks : t.pins.ks = u.pins.ks
  self : u.channel i = c
  awaiting : ∀ j, j ≠ i → (s.channel j).awaitsOther → u.channel j = s.channel j

theorem Comes.set {c : Channel} {u t : State} (h : Comes s i c u t) (c' : Channel) : Comes s i c' (u.setChannel i c') t where
  settings := h.settings
  ks := h.ks
  self := State.setChannel_channel_self _ _ _
  awaiting j hj ha := (State.setChannel_channel_ne _ _ hj).trans (h.awaiting j hj ha)

/-- The expiry of a channel as its turn finds it. -/
theorem Comes.expires {c : Channel} {u t : State} (h : Comes s i c u t) {m : RunMode} (hc : c.expiresIn m = true)
    (hn : (s.channel i).state ≠ .armed) (hd : (giveExpiry i m u).due ⊆ t.due) (ht : t.channel i = (giveExpiry i m u).channel i) :
    ExpiryGiven s i m t ∧ t.channel i = c.expired := by
  refine ⟨giveExpiry_given (by rw [h.self]; exact hc) h.settings h.ks (fun j hj htrig => ?_) hd, ?_⟩
  · refine h.awaiting j (fun hji => hn (by rw [← hji]; exact hj)) ⟨hj, ?_⟩
    rw [htrig]
    exact fun hx => nomatch hx
  · rw [ht, giveExpiry_channel_self, h.self, if_pos hc]

/-! ### A channel that no spindle's input reaches -/

theorem encodersTicked_channel (s : State) (j : Fin 8) : s.encodersTicked.channel j = s.channelsTicked.channel j :=
  ((tickEncoder_extends s.channelsTicked .a).trans (tickEncoder_extends _ .b)).1.channel_eq j

theorem inputsTicked_channel (s : State) (j : Fin 8) : (tick s).channel j = s.inputsTicked.channel j :=
  (inputsTicked_tick s).1.channel_eq j

theorem tick_ks (s : State) : (tick s).pins.ks = (showLevels s).pins.ks := by
  rw [(tick_levels s).2.2.2.2.2.1, showLevels_pins]

/-- The pass over the channels comes to each of them as it stood before the µs. -/
theorem channelsTicked_at (s : State) (i : Fin 8) : ∃ u, Comes s i (s.channel i) u (tick s) ∧
    (tickChannel u i).due ⊆ (tick s).due ∧ s.channelsTicked.channel i = (tickChannel u i).channel i := by
  have hshow := showLevels_only s
  obtain ⟨u, hu, hself, hothers, hafter, hchannel⟩ :=
    tickChannel_channelWise.foldl_at _ (List.nodup_finRange 8) (showLevels s) (List.mem_finRange i)
  refine ⟨u, ⟨hu.1.settings_eq.trans hshow.settings_eq, ?_, hself.trans (hshow.channel_eq i), fun j _ hj => ?_⟩,
    fun e he => encodersTicked_tick s ?_, hchannel⟩
  · rw [tick_ks, hu.1.pins_eq]
  · have hc := hshow.channel_eq j
    exact (hothers j (by rw [hc]; exact hj)).trans hc
  · exact ((tickEncoder_extends s.channelsTicked .a).trans (tickEncoder_extends _ .b)).2 (hafter.2 he)

theorem tick_channel_of_unwired (h : ¬ ∃ n, (s.channel i).input = .spindle n) : ∃ u, Comes s i (s.channel i) u (tick s) ∧
    (tickChannel u i).due ⊆ (tick s).due ∧ (tick s).channel i = (tickChannel u i).channel i := by
  obtain ⟨u, hu, hdue, hchannel⟩ := channelsTicked_at s i
  refine ⟨u, hu, hdue, ?_⟩
  rw [inputsTicked_channel, inputsTicked_eq, tickSpindles_channel_of_unwired, encodersTicked_channel, hchannel]
  intro n hn
  rw [encodersTicked_channel, hchannel, tickChannel_input, hu.self] at hn
  exact h ⟨n, hn⟩

theorem tick_channel_within (h : ¬ ∃ n, (s.channel i).input = .spindle n)
    (hs : (s.channel i).state = .running ∨ (s.channel i).state = .driving) {m : Nat} (hm : (s.channel i).unit.micros = some m)
    (hd : (s.channel i).divider + 1 < m) :
    (tick s).channel i = { s.channel i with divider := (s.channel i).divider + 1 } := by
  obtain ⟨u, hu, -, hchannel⟩ := tick_channel_of_unwired h
  have hself := hu.self
  rw [← hself] at hs hm hd ⊢
  rw [hchannel, tickChannel_within hs hm hd, State.setChannel_channel_self]

/-- At the end of its tick unit a channel takes a count step (R3). -/
theorem tick_channel_at_end (h : ¬ ∃ n, (s.channel i).input = .spindle n)
    (hs : (s.channel i).state = .running ∨ (s.channel i).state = .driving)
    (he : ∃ m, (s.channel i).unit.micros = some m ∧ m ≤ (s.channel i).divider + 1) :
    ∃ v, Comes s i { s.channel i with divider := 0 } v (tick s) ∧ (stepChannel i v).due ⊆ (tick s).due ∧
      (tick s).channel i = (stepChannel i v).channel i := by
  obtain ⟨u, hu, hdue, hchannel⟩ := tick_channel_of_unwired h
  obtain ⟨m, hm, hd⟩ := he
  have hself := hu.self
  have htick := tickChannel_at_end (by rw [hself]; exact hs) (by rw [hself]; exact hm) (by rw [hself]; exact hd)
  rw [htick] at hdue hchannel
  rw [hself] at hdue hchannel
  exact ⟨_, hu.set _, hdue, hchannel⟩

section
variable (h : ¬ ∃ n, (s.channel i).input = .spindle n)
  (he : ∃ m, (s.channel i).unit.micros = some m ∧ m ≤ (s.channel i).divider + 1)
include h he

theorem tick_channel_counting (hc : 2 ≤ (s.channel i).count.toNat)
    (hm : (s.channel i).state = .driving ∧ (s.channel i).mode = some .pulse ∨ (s.channel i).state = .running ∧
      ((s.channel i).mode = some .interval ∨ (s.channel i).mode = some .delay ∨ (s.channel i).mode = some .pulse)) :
    (tick s).channel i = { s.channel i with divider := 0, count := (s.channel i).count - 1 } := by
  obtain ⟨v, hv, -, hchannel⟩ := tick_channel_at_end h (hm.symm.imp And.left And.left) he
  have hstep := stepChannel_counting (s := v) (i := i) (by rw [hv.self]; exact hc) (by rw [hv.self]; exact hm)
  rw [hchannel, hstep, State.setChannel_channel_self, hv.self]

theorem tick_channel_measuring (hs : (s.channel i).state = .running)
    (hm : (s.channel i).mode = some .period ∨ (s.channel i).mode = some .width) :
    (tick s).channel i = { s.channel i with
      divider := 0
      count := if (s.channel i).count.toNat = 16777215 then (s.channel i).count else (s.channel i).count + 1 } := by
  obtain ⟨v, hv, -, hchannel⟩ := tick_channel_at_end h (.inl hs) he
  have hstep := stepChannel_measuring (s := v) (i := i) (by rw [hv.self]; exact hs) (by rw [hv.self]; exact hm)
  rw [hchannel, hstep, State.setChannel_channel_self, hv.self]

/-- The expiry of a counting-down channel at the end of its count (R10, R12, R13). -/
theorem tick_channel_expiring (hc : (s.channel i).count = 1) {k : RunMode}
    (hm : (s.channel i).state = .driving ∧ (s.channel i).mode = some k ∧ k = .pulse ∨ (s.channel i).state = .running ∧
      (s.channel i).mode = some k ∧ (k = .interval ∨ k = .delay)) :
    ExpiryGiven s i k (tick s) ∧ (tick s).channel i = Channel.expired { s.channel i with divider := 0, count := 0 } := by
  obtain ⟨v, hv, hdue, hchannel⟩ := tick_channel_at_end h (hm.symm.imp And.left And.left) he
  have hstep := stepChannel_expiring (s := v) (i := i) (k := k) (by rw [hv.self]; exact hc) (by
    rw [hv.self]
    rcases hm with ⟨hs, hk, -⟩ | ⟨hs, hk, rfl | rfl⟩
    · exact .inl ⟨hs, hk⟩
    · exact .inr ⟨hs, hk, rfl, by decide⟩
    · exact .inr ⟨hs, hk, rfl, by decide⟩)
  rw [hstep] at hdue hchannel
  rw [hv.self] at hdue hchannel
  refine (hv.set { s.channel i with divider := 0, count := 0 }).expires ?_ ?_ hdue hchannel
  · rcases hm with ⟨hs, hk, rfl⟩ | ⟨hs, hk, rfl | rfl⟩ <;> simp [Channel.expiresIn, hs, hk]
  · rcases hm with ⟨hs, -⟩ | ⟨hs, -⟩ <;> rw [hs] <;> decide

theorem tick_channel_driving (hs : (s.channel i).state = .running) (hc : (s.channel i).count = 1)
    (hm : (s.channel i).mode = some .pulse) :
    (tick s).channel i = { s.channel i with
      divider := 0
      state := .driving
      count := (s.channel i).drive.getD 1
      level := (s.channel i).action == .drive } ∧ (i = 7 → .cutDriveStart ∈ (tick s).due) := by
  obtain ⟨v, hv, hdue, hchannel⟩ := tick_channel_at_end h (.inl hs) he
  have hstep := stepChannel_driving (s := v) (i := i) (by rw [hv.self]; exact hc) (by rw [hv.self]; exact hs)
    (by rw [hv.self]; exact hm)
  rw [hstep] at hdue hchannel
  refine ⟨?_, fun hi => hdue ?_⟩
  · rw [hchannel, giveDrive_channel_self, State.setChannel_channel_self, hv.self]
    exact if_pos ⟨hm, hs⟩
  · rw [giveDrive_due, if_pos hi]
    exact List.mem_append_right _ (List.mem_singleton_self _)

end

/-! ### A COUNT channel on a spindle's input (R4, R11) -/

/-- A sample of SP1–SP4 reaches a channel in EDGES as it stood before the µs. -/
theorem encodersTicked_of_edges (h : (s.channel i).unit = .edges) : s.encodersTicked.channel i = s.channel i := by
  obtain ⟨u, hu, -, hchannel⟩ := channelsTicked_at s i
  have hself := hu.self
  rw [encodersTicked_channel, hchannel, tickChannel_of_edges (by rw [hself]; exact h), hself]

theorem encodersTicked_sp (s : State) : s.encodersTicked.pins.sp = s.pins.sp ∧ s.encodersTicked.pins.spTaken = s.pins.spTaken ∧
    s.encodersTicked.pins.ks = (tick s).pins.ks := by
  obtain ⟨a, b, c, d, h⟩ := encodersTicked_levels s
  rw [tick_ks, h, showLevels_pins]
  exact ⟨rfl, rfl, rfl⟩

theorem encodersTicked_keeps_awaiting {j : Fin 8} (h : (s.channel j).awaitsOther) : s.encodersTicked.channel j = s.channel j := by
  have hc := (showLevels_only s).channel_eq j
  rw [encodersTicked_channel]
  exact (tickChannel_channelWise.foldl_keeps_awaiting _ _ j (by rw [hc]; exact h)).trans hc

theorem spSampled_pins (s : State) : s.encodersTicked.spSampled.pins =
    { s.encodersTicked.pins with sp := s.nextSp, spTaken := takenLevel s.pins.sp s.nextSp s.pins.spTaken } := by
  obtain ⟨hsp, htaken, -⟩ := encodersTicked_sp s
  unfold State.spSampled
  rw [encodersTicked_nextSp, hsp, htaken]

/-- The sample comes to a channel that counts a spindle's edges as the channel stood, and what it does there stays. -/
theorem tick_channel_of_wired {n : Fin 4} (hn : (s.channel i).input = .spindle n) (he : (s.channel i).unit = .edges) :
    ∃ u, Comes s i (s.channel i) u (tick s) ∧
      u.pins.spTaken = takenLevel s.pins.sp s.nextSp s.pins.spTaken ∧
      (spindleEdge s.pins.spTaken u n).due ⊆ (tick s).due ∧
      (tick s).channel i = (spindleEdge s.pins.spTaken u n).channel i := by
  have hw := spSampled_only s.encodersTicked
  have hci (j : Fin 8) : s.encodersTicked.spSampled.channel j = s.encodersTicked.channel j := hw.channel_eq j
  have hpins := spSampled_pins s
  obtain ⟨u, hu, hself, hothers, hafter, hchannel⟩ := foldl_spindleEdge_at s.encodersTicked.spSampled i s.pins.spTaken n
    (List.finRange 4) (List.nodup_finRange 4) (List.mem_finRange n) (by rw [hci, encodersTicked_of_edges he]; exact hn)
  have hticked : s.inputsTicked = (List.finRange 4).foldl (spindleEdge s.pins.spTaken) s.encodersTicked.spSampled := by
    rw [inputsTicked_eq, tickSpindles_eq, (encodersTicked_sp s).2.1]
  rw [← hticked] at hafter hchannel
  refine ⟨u, ⟨?_, ?_, ?_, fun j _ hj => ?_⟩, ?_, fun e h => (inputsTicked_tick s).2 (hafter.2 h), ?_⟩
  · rw [hu.1.settings_eq, hw.settings_eq, (encodersTicked_extends s).1.settings_eq]
  · rw [hu.1.pins_eq, hpins, ← (encodersTicked_sp s).2.2]
  · rw [hself, hci, encodersTicked_of_edges he]
  · have hk := encodersTicked_keeps_awaiting hj
    rw [hothers j (by rw [hci, hk]; exact hj), hci, hk]
  · rw [hu.1.pins_eq, hpins]
  · rw [inputsTicked_channel, hchannel]

/-- What a µs does to a COUNT channel on a spindle's input, by the edge that its sample takes. -/
theorem tick_channel_counts {n : Fin 4} (hn : (s.channel i).input = .spindle n) (hm : (s.channel i).mode = some .count)
    (he : (s.channel i).unit = .edges) (hs : (s.channel i).state = .running) :
    let rises := s.pins.spTaken.getLsbD n = false ∧ s.pins.sp.getLsbD n = true ∧ s.nextSp.getLsbD n = true
    (¬ rises → (tick s).channel i = s.channel i) ∧
    (rises → ∃ u, Comes s i (s.channel i) u (tick s) ∧ (countEdge i u).due ⊆ (tick s).due ∧
      (tick s).channel i = (countEdge i u).channel i) := by
  intro rises
  obtain ⟨u, hu, htaken, hdue, hchannel⟩ := tick_channel_of_wired hn he
  have hself := hu.self
  have hlevel := takenLevel_getLsbD s.pins.sp s.nextSp s.pins.spTaken n.val
  rw [← htaken] at hlevel
  by_cases hb : s.pins.spTaken.getLsbD n.val = u.pins.spTaken.getLsbD n.val
  · have hnot : ¬ rises := fun ⟨ht, hsp, hnow⟩ => by
      rw [if_pos (hnow.trans hsp.symm), hnow, ← hb, ht] at hlevel
      cases hlevel
    refine ⟨fun _ => ?_, fun h => absurd h hnot⟩
    rw [hchannel, spindleEdge, if_pos hb, hself]
  · obtain ⟨v, hv, hvself, hothers, hafter, hvchannel⟩ := spindleEdge_at u i s.pins.spTaken n (by rw [hself]; exact hn) hb
    obtain ⟨hfalls, hcounts⟩ := inputEdge_of_count (s := v) (i := i) (by rw [hvself, hself]; exact hm)
      (by rw [hvself, hself]; exact hs) (by rw [hvself, hself, hn]; exact fun hx => nomatch hx)
    have hvin : Comes s i (s.channel i) v (tick s) :=
      ⟨hv.1.settings_eq.trans hu.settings, hu.ks.trans (by rw [hv.1.pins_eq]), hvself.trans hself, fun j hj ha => by
        have hk := hu.awaiting j hj ha
        rw [hothers j (by rw [hk]; exact ha), hk]⟩
    have hnow : s.nextSp.getLsbD n.val = s.pins.sp.getLsbD n.val := by
      by_contra h
      rw [if_neg h] at hlevel
      exact hb hlevel.symm
    rw [if_pos hnow] at hlevel
    cases hx : u.pins.spTaken.getLsbD n.val with
    | false =>
      rw [hx] at hvchannel hlevel
      have hnot : ¬ rises := fun ⟨_, _, h⟩ => by
        rw [h] at hlevel
        cases hlevel
      refine ⟨fun _ => ?_, fun h => absurd h hnot⟩
      rw [hchannel, hvchannel, hfalls, hvin.self]
    | true =>
      rw [hx] at hvchannel hlevel hb hafter
      rw [hcounts] at hvchannel hafter
      have hrises : rises := ⟨Bool.eq_false_iff.2 hb, hnow.symm.trans hlevel.symm, hlevel.symm⟩
      exact ⟨fun h => absurd hrises h, fun _ => ⟨v, hvin, fun e h => hdue (hafter.2 h), hchannel.trans hvchannel⟩⟩

theorem Comes.counts {u t : State} (hu : Comes s i (s.channel i) u t) (ht : t.channel i = (countEdge i u).channel i)
    (hc : 2 ≤ (s.channel i).count.toNat) : t.channel i = { s.channel i with count := (s.channel i).count - 1 } := by
  rw [ht, countEdge, hu.self, if_neg (by omega), State.setChannel_channel_self]

theorem Comes.expires_count {u t : State} (hu : Comes s i (s.channel i) u t) (hd : (countEdge i u).due ⊆ t.due)
    (ht : t.channel i = (countEdge i u).channel i) (hm : (s.channel i).mode = some .count) (hs : (s.channel i).state = .running)
    (hi : (s.channel i).input ≠ .none) (hc : (s.channel i).count = 1) :
    ExpiryGiven s i .count t ∧ t.channel i = { s.channel i with
      count := (s.channel i).pendingReload.getD (s.channel i).reload
      reload := (s.channel i).pendingReload.getD (s.channel i).reload
      pendingReload := none } := by
  have hedge : countEdge i u = giveExpiry i .count u := by
    rw [countEdge, hu.self, hc]
    exact if_pos (by decide)
  rw [hedge] at hd ht
  rw [← Channel.expired_count hm]
  exact hu.expires (by simp [Channel.expiresIn, hm, hs, hi]) (by rw [hs]; decide) hd ht

end Sys2Proof.Machine
end

section
/-! SUPPORT. What a step does when no command waits (log entries 1 and 3). -/

namespace Sys2Proof.Machine

-- One proof after the other: elaborated side by side in the joined text, they wait for one another on a thread each.
set_option Elab.async false

variable {s : State}

/-! ### An expiry that waits (R12) -/

/-- A DELAY channel in RUNNING whose count is 0: its expiry is an event of its own (R12). -/
def Channel.waits (c : Channel) : Prop := c.mode = some .delay ∧ c.state = .running ∧ c.count = 0

theorem Channel.expiryWaits_iff (c : Channel) : c.expiryWaits = true ↔ c.waits := by
  simp [Channel.expiryWaits, Channel.waits, and_assoc]

theorem waitingExpiry_none (h : ∀ i, ¬ (s.channel i).waits) : s.waitingExpiry = none :=
  List.find?_eq_none.2 fun i _ hi => h i ((Channel.expiryWaits_iff _).1 hi)

/-- The expiry that waits is that of the lowest channel whose expiry waits. -/
theorem waitingExpiry_some {i k : Fin 8} (hi : (s.channel i).waits) (hfirst : ∀ j, j < i → ¬ (s.channel j).waits)
    (hk : s.waitingExpiry = some k) : k = i := by
  obtain ⟨hp, before, after, hsplit, hbefore⟩ := List.find?_eq_some_iff_append.1 hk
  have hsorted := List.pairwise_lt_finRange 8
  have hmem := List.mem_finRange i
  rw [hsplit] at hsorted hmem
  rcases List.mem_append.1 hmem with h | h
  · have := hbefore i h
    simp [(Channel.expiryWaits_iff _).2 hi] at this
  rcases List.mem_cons.1 h with h | h
  · exact h.symm
  · have hlt := List.rel_of_pairwise_cons (List.pairwise_append.1 hsorted).2.1 h
    exact absurd ((Channel.expiryWaits_iff _).1 hp) (hfirst k hlt)

theorem idle_of_waits {i : Fin 8} (hi : (s.channel i).waits) (hfirst : ∀ j, j < i → ¬ (s.channel j).waits) :
    idle s = giveExpiry i .delay s := by
  unfold idle
  cases hk : s.waitingExpiry with
  | some k => rw [waitingExpiry_some hi hfirst hk]
  | none => exact absurd ((Channel.expiryWaits_iff _).2 hi) (List.find?_eq_none.1 hk i (List.mem_finRange i))

theorem idle_of_none (h : ∀ i, ¬ (s.channel i).waits) : idle s = tick s := by
  rw [idle, waitingExpiry_none h]

theorem Channel.expired_delay {c : Channel} (h : c.mode = some .delay) : c.expired = c.finished := by
  simp [Channel.expired, h]

theorem Channel.expired_pulse {c : Channel} (h : c.mode = some .pulse) : c.expired = { c.finished with level := false } := by
  simp [Channel.expired, h]

theorem Channel.finished_of_owner {c : Channel} (h : c.trigger = .owner) : c.finished = { c with state := .idle, count := 0 } :=
  if_pos h

theorem giveExpiry_of_waits {i : Fin 8} (h : (s.channel i).waits) :
    Only [.due, .channels] s (giveExpiry i .delay s) ∧ ExpiryGiven s i .delay (giveExpiry i .delay s) ∧
    (∀ j, j ≠ i → (giveExpiry i .delay s).channel j = s.channel j) ∧
    (giveExpiry i .delay s).channel i = if (s.channel i).trigger = .owner then { s.channel i with state := .idle }
      else { s.channel i with state := .armed, count := (s.channel i).reload } := by
  obtain ⟨hm, hs, hc⟩ := h
  have hx : (s.channel i).expiresIn .delay = true := by simp [Channel.expiresIn, hm, hs]
  have hks : (giveExpiry i .delay s).pins.ks = s.pins.ks := by rw [(giveExpiry_only s i .delay).pins_eq]
  refine ⟨giveExpiry_only s i .delay, giveExpiry_given hx rfl hks (fun _ _ _ => rfl) (List.Subset.refl _),
    fun j hj => giveExpiry_channel_ne s .delay hj, ?_⟩
  rw [giveExpiry_channel_self, if_pos hx, Channel.expired_delay hm, Channel.finished, ← hc]

/-! ### What time never changes -/

/-- What no step without a command changes: the rest of the node, the permit and its causes, the flags and counts, the queue
and the spindles, and the memory where no operation is in flight. -/
def IdleKeeps (s t : State) : Prop :=
  Only [.due, .pins, .channels, .meter, .twist, .sampler, .knot, .line, .peers, .prot, .coil, .store, .memory, .world] s t ∧
  t.prot.permit = s.prot.permit ∧ t.prot.causes = s.prot.causes ∧ t.prot.table = s.prot.table ∧
  t.meter.encA = s.meter.encA ∧ t.meter.encB = s.meter.encB ∧ t.meter.flags = s.meter.flags ∧
  t.line.queue = s.line.queue ∧ t.twist.spindles = s.twist.spindles ∧ t.pins.breakOpen = s.pins.breakOpen ∧
  (s.store.inFlight = none → t.memory = s.memory ∧ t.records = s.records ∧ t.store = s.store)

theorem idleKeeps_of_only {t : State} (h : Only [.due, .channels] s t) : IdleKeeps s t := by
  have hprot : t.prot = s.prot := h.prot_eq
  have hmeter : t.meter = s.meter := h.meter_eq
  have hline : t.line = s.line := h.2 .line (by decide)
  have htwist : t.twist = s.twist := h.2 .twist (by decide)
  have hcoil : t.coil = s.coil := h.2 .coil (by decide)
  refine ⟨h.grow (by decide), ?_, ?_, ?_, ?_, ?_, ?_, ?_, ?_, ?_, fun _ => ⟨h.2 .memory (by decide), ?_, h.2 .store (by decide)⟩⟩
  · rw [hprot]
  · rw [hprot]
  · rw [hprot]
  · rw [hmeter]
  · rw [hmeter]
  · rw [hmeter]
  · rw [hline]
  · rw [htwist]
  · rw [h.pins_eq]
  · unfold State.records
    rw [hcoil]

theorem tick_idleKeeps (s : State) : IdleKeeps s (tick s) := by
  refine ⟨((tick_extends s).grow (by decide)).1, ?_, ?_, ?_, ?_, ?_, ?_, (tick_line_held s).1, ?_, (tick_levels s).1,
    tick_store_of_none s⟩
  · rw [tick_prot]
  · rw [tick_prot]
  · rw [tick_prot]
  · rw [tick_meter]
  · rw [tick_meter]
  · rw [tick_meter]
  · rw [tick_twist]

theorem idle_idleKeeps (s : State) : IdleKeeps s (idle s) := by
  unfold idle
  split
  · exact idleKeeps_of_only (giveExpiry_only s _ _)
  · exact tick_idleKeeps s

/-! ### A step with no command waiting -/

theorem step_of_due {e : Instr} {rest : List Instr} (hp : s.pending = []) (hd : s.due = e :: rest) : step s = exec e s := by
  simp only [step, hp, hd]

theorem step_of_idle (hp : s.pending = []) (hd : s.due = []) : step s = .next (idle s) := by
  simp only [step, hp, hd]

/-- Settles O2, from what each stage of a µs does and what reaches it. -/
theorem stepWithoutCommands : Obligations.StepWithoutCommands := by
  intro s hp
  refine ⟨fun e rest hd => step_of_due hp hd, fun hd => ⟨idle s, step_of_idle hp hd, ?_⟩⟩
  intro waits timer chains ends wired row now level supply
  obtain ⟨honly, hpermit, hcauses, htable, hencA, hencB, hflags, hqueue, hspindles, hbreak, hnone⟩ := idle_idleKeeps s
  refine ⟨honly, hpermit, hcauses, htable, hencA, hencB, hflags, hqueue, hspindles, hbreak, hnone, fun i hi hfirst => ?_,
    fun hwaits => ?_⟩
  · have hidle : idle s = giveExpiry i .delay s := idle_of_waits hi hfirst
    obtain ⟨hfew, ⟨hrow, hchains⟩, hothers, hself⟩ := giveExpiry_of_waits hi
    rw [← hidle] at hfew hrow hchains hothers hself
    exact ⟨hfew, hrow, hchains, hothers, hself⟩
  have hidle : idle s = tick s := idle_of_none hwaits
  simp only [timer, row, chains]
  rw [hidle]
  obtain ⟨hflash, hflashes⟩ := tick_flash s
  obtain ⟨hrest, hcut⟩ := tick_coil_timers s
  obtain ⟨-, hsp, hai, hsupply, hphase, hks, htaken, hlow, hhigh⟩ := tick_levels s
  refine ⟨tick_evaluation s, tick_hold s, tick_conversion s, tick_sample s, tick_presence s, tick_halt s, tick_blink s, hflash,
    hflashes, tick_peers s, fun p hp => tick_ageing s hp, tick_phase s, hrest, hcut, fun f hf => tick_store s hf,
    fun i hw hs m hm => tick_channel_within hw hs hm, fun i hw he hc hm => tick_channel_counting hw he hc hm,
    fun i hw he hs hm => tick_channel_measuring hw he hs hm, ?_, ?_, fun i hw he hs hc hm => tick_channel_driving hw he hs hc hm,
    ?_, hsp, hai, hsupply, hphase, hks, fun x hx => tick_encoder_a s hx, fun x hx => tick_encoder_b s hx, hlow, hhigh,
    fun hb => (tick_supply s hb).1, fun hb => (tick_supply s hb).2, fun n => ?_, fun i n hn hm he hs => ?_⟩
  · intro i hw he hs hc hm
    obtain ⟨⟨hrow, hchains⟩, hself⟩ := tick_channel_expiring hw he hc (k := .interval) (.inr ⟨hs, hm, .inl rfl⟩)
    exact ⟨hrow, hchains, hself.trans (Channel.expired_interval hm)⟩
  · intro i hw he hs hc hm
    obtain ⟨⟨hrow, hchains⟩, hself⟩ := tick_channel_expiring hw he hc (k := .delay) (.inr ⟨hs, hm, .inr rfl⟩)
    refine ⟨hrow, hchains, fun ht => hself.trans ?_⟩
    rw [Channel.expired_delay (by exact hm), Channel.finished_of_owner (by exact ht)]
  · intro i hw he hs hc hm
    obtain ⟨⟨hrow, hchains⟩, hself⟩ := tick_channel_expiring hw he hc (k := .pulse) (.inl ⟨hs, hm, rfl⟩)
    refine ⟨hrow, hchains, fun ht => hself.trans ?_⟩
    rw [Channel.expired_pulse (by exact hm), Channel.finished_of_owner (by exact ht)]
  · rw [htaken]
    exact takenLevel_getLsbD _ _ _ _
  · obtain ⟨hstill, hrises⟩ := tick_channel_counts hn hm he hs
    refine ⟨hstill, fun hr hc => ?_, fun hr hc => ?_⟩
    · obtain ⟨u, hu, -, hself⟩ := hrises hr
      exact hu.counts hself hc
    · obtain ⟨u, hu, hdue, hself⟩ := hrises hr
      obtain ⟨⟨hrow, hchains⟩, hx⟩ := hu.expires_count hdue hself hm hs (by rw [hn]; exact fun hx => nomatch hx) hc
      exact ⟨hrow, hchains, hx⟩

end Sys2Proof.Machine
end

section
/-! SUPPORT. The settings image (Table 10-10) and its validity (R182, Tables 11-1 and 11-2). -/

namespace Sys2Proof.Machine

-- One proof after the other: elaborated side by side in the joined text, they wait for one another on a thread each.
set_option Elab.async false

/-! ### Fields of bytes -/

theorem foldl_natBE_lt (l : List Byte) (n : Nat) :
    l.foldl (fun n b => n * 256 + b.toNat) n < (n + 1) * 256 ^ l.length := by
  induction l generalizing n with
  | nil => simp
  | cons b l ih =>
    have hb : b.toNat < 256 := b.isLt
    calc (b :: l).foldl (fun n b => n * 256 + b.toNat) n
        < (n * 256 + b.toNat + 1) * 256 ^ l.length := ih _
      _ ≤ (n + 1) * 256 * 256 ^ l.length := Nat.mul_le_mul_right _ (by omega)
      _ = (n + 1) * 256 ^ (b :: l).length := by rw [List.length_cons, Nat.pow_succ, Nat.mul_assoc, Nat.mul_comm 256]

theorem natBE_lt (l : List Byte) : natBE l < 256 ^ l.length := by
  have h := foldl_natBE_lt l 0
  rwa [Nat.zero_add, Nat.one_mul] at h

theorem fieldAt_lt (img : List Byte) (i k : Nat) : fieldAt img i k < 256 ^ k :=
  (natBE_lt _).trans_le (Nat.pow_le_pow_right (by decide) (List.length_take_le _ _))

theorem fieldAt_one (img : List Byte) (i : Nat) : fieldAt img i 1 = (byteAt img i).toNat := by
  unfold fieldAt byteAt
  by_cases h : i < img.length
  · rw [List.drop_eq_getElem_cons h, List.getD_eq_getElem _ _ h, List.take_succ_cons, List.take_zero]
    exact (congrArg (· + img[i].toNat) (Nat.zero_mul 256)).trans (Nat.zero_add _)
  · rw [List.drop_eq_nil_of_le (by omega), List.getD_eq_default _ _ (by omega)]
    rfl

theorem take_two_drop {img : List Byte} {i : Nat} (h : i + 1 < img.length) :
    (img.drop i).take 2 = [byteAt img i, byteAt img (i + 1)] := by
  have hi : i < img.length := Nat.lt_of_succ_lt h
  rw [List.drop_eq_getElem_cons hi, List.drop_eq_getElem_cons h, List.take_succ_cons, List.take_succ_cons, List.take_zero,
    byteAt, byteAt, List.getD_eq_getElem _ _ hi, List.getD_eq_getElem _ _ h]

theorem halfAt_eq_append {img : List Byte} {i : Nat} (h : i + 1 < img.length) :
    halfAt img i = byteAt img i ++ byteAt img (i + 1) := by
  refine BitVec.eq_of_toNat_eq ?_
  have h0 := (byteAt img i).isLt
  have h1 := (byteAt img (i + 1)).isLt
  rw [BitVec.toNat_append, ← Nat.shiftLeft_add_eq_or_of_lt h1, Nat.shiftLeft_eq]
  simp only [halfAt, take_two_drop h, natBE, List.foldl_cons, List.foldl_nil, BitVec.toNat_ofNat]
  omega

theorem halfAt_high {img : List Byte} {i : Nat} (h : i + 1 < img.length) {k : Nat} (hk : 8 ≤ k) :
    (halfAt img i).getLsbD k = (byteAt img i).getLsbD (k - 8) := by
  rw [halfAt_eq_append h, BitVec.getLsbD_append, if_neg (by omega)]

theorem halfAt_low {img : List Byte} {i : Nat} (h : i + 1 < img.length) {k : Nat} (hk : k < 8) :
    (halfAt img i).getLsbD k = (byteAt img (i + 1)).getLsbD k := by
  rw [halfAt_eq_append h, BitVec.getLsbD_append, if_pos hk]

theorem wordAt_toNat (img : List Byte) (i : Nat) : (wordAt img i).toNat = fieldAt img i 4 :=
  Nat.mod_eq_of_lt (fieldAt_lt img i 4)

theorem crcBytes_eq_iff (c : BitVec 16) (img : List Byte) {i : Nat} (h : i + 1 < img.length) :
    crcBytes c = (img.drop i).take 2 ↔ c.toNat = fieldAt img i 2 := by
  have hc := c.isLt
  have h0 := (byteAt img i).isLt
  have h1 := (byteAt img (i + 1)).isLt
  unfold fieldAt
  rw [take_two_drop h]
  simp only [crcBytes, bytesBE, natBE, List.foldl_cons, List.foldl_nil, List.cons.injEq, and_true]
  rw [← BitVec.toNat_inj, ← BitVec.toNat_inj]
  simp only [BitVec.toNat_ofNat]
  omega

/-! ### The layout -/

theorem scanModeOf_code : ∀ b : Byte, (scanModeOf b).code = b.toNat / 64 := by decide

theorem settingsOf_spindles (img : List Byte) (i : Fin 4) : (settingsOf img).spindles[i] = spindleOf img i.val := by
  fin_cases i <;> rfl

theorem settingsOf_scan (img : List Byte) (i : Fin 8) : (settingsOf img).scan[i] = scanSettingsOf img i.val := by
  fin_cases i <;> rfl

/-- The entry of the scan list at its 6 bytes of Table 10-10. -/
theorem settingsOf_scan_fields (img : List Byte) (i : Fin 8) :
    (settingsOf img).scan[i].input = fieldAt img (81 + 6 * i.val) 1 ∧
    (settingsOf img).scan[i].mode.code = fieldAt img (82 + 6 * i.val) 1 / 64 ∧
    (settingsOf img).scan[i].protect = (byteAt img (82 + 6 * i.val)).getLsbD 5 ∧
    (settingsOf img).scan[i].blankInTie = (byteAt img (82 + 6 * i.val)).getLsbD 4 ∧
    (settingsOf img).scan[i].filterCount = fieldAt img (82 + 6 * i.val) 1 % 16 ∧
    (settingsOf img).scan[i].lowLimit = fieldAt img (83 + 6 * i.val) 2 ∧
    (settingsOf img).scan[i].highLimit = fieldAt img (85 + 6 * i.val) 2 := by
  have hb : 81 + 6 * i.val + 1 = 82 + 6 * i.val := by omega
  have hlow : 81 + 6 * i.val + 2 = 83 + 6 * i.val := by omega
  have hhigh : 81 + 6 * i.val + 4 = 85 + 6 * i.val := by omega
  rw [settingsOf_scan, scanSettingsOf, fieldAt_one img (82 + 6 * i.val)]
  dsimp only
  rw [hb, hlow, hhigh]
  exact ⟨rfl, scanModeOf_code _, rfl, rfl, rfl, rfl, rfl⟩

theorem settingsOf_spindle_fields (img : List Byte) (i : Fin 4) : (settingsOf img).spindles[i] = {
    fitted := (byteAt img 23).getLsbD i.val, pulses := fieldAt img (24 + 8 * i.val) 2
    turnsPerWindow := fieldAt img (26 + 8 * i.val) 1, target := fieldAt img (27 + 8 * i.val) 3
    tolerance := fieldAt img (30 + 8 * i.val) 1, runLimit := fieldAt img (31 + 8 * i.val) 1 } := by
  fin_cases i <;> rfl

/-- The option bits of bytes 4 and 5. -/
theorem settingsOf_options {img : List Byte} (h : 6 ≤ img.length) :
    (settingsOf img).pacePublish = (byteAt img 4).getLsbD 7 ∧ (settingsOf img).driftCheck = (byteAt img 4).getLsbD 6 ∧
    (settingsOf img).follow = (byteAt img 4).getLsbD 5 ∧ (settingsOf img).autoResume = (byteAt img 4).getLsbD 4 ∧
    (settingsOf img).layEscalate = (byteAt img 4).getLsbD 3 ∧ (settingsOf img).meshEscalate = (byteAt img 4).getLsbD 2 ∧
    (settingsOf img).arithEscalate = (byteAt img 4).getLsbD 1 ∧ (settingsOf img).consecutiveStop = (byteAt img 4).getLsbD 0 ∧
    (settingsOf img).wrap = (byteAt img 5).getLsbD 7 := by
  have hh {k : Nat} (hk : 8 ≤ k) : (halfAt img 4).getLsbD k = (byteAt img 4).getLsbD (k - 8) := halfAt_high (by omega) hk
  exact ⟨hh (by decide), hh (by decide), hh (by decide), hh (by decide), hh (by decide), hh (by decide), hh (by decide),
    hh (by decide), halfAt_low (by omega) (by decide)⟩

/-! ### Validity -/

theorem within_iff {lo hi n : Nat} : within lo hi n = true ↔ lo ≤ n ∧ n ≤ hi := by simp [within]

/-- What the widths of the fields of Table 10-10 give. -/
structure Settings.Fits (g : Settings) : Prop where
  slipStep : g.slipStep ≤ 65535
  openDelay : g.openDelay ≤ 65535
  windowSpan : g.windowSpan ≤ 65535
  meshTarget : g.meshTarget ≤ 16777215
  coilTarget : g.coilTarget ≤ 4294967295
  turns : ∀ i : Fin 4, g.spindles[i].turnsPerWindow ≤ 255
  target : ∀ i : Fin 4, g.spindles[i].target ≤ 16777215
  filterCount : ∀ i : Fin 8, g.scan[i].filterCount ≤ 15

theorem settingsOf_fits (img : List Byte) : (settingsOf img).Fits where
  slipStep := Nat.le_of_lt_succ (fieldAt_lt img 17 2)
  openDelay := Nat.le_of_lt_succ (fieldAt_lt img 67 2)
  windowSpan := Nat.le_of_lt_succ (fieldAt_lt img 69 2)
  meshTarget := Nat.le_of_lt_succ (fieldAt_lt img 74 3)
  coilTarget := Nat.le_of_lt_succ (fieldAt_lt img 130 4)
  turns i := by rw [settingsOf_spindles]; exact Nat.le_of_lt_succ (fieldAt_lt img _ 1)
  target i := by rw [settingsOf_spindles]; exact Nat.le_of_lt_succ (fieldAt_lt img _ 3)
  filterCount i := by rw [settingsOf_scan]; exact Nat.le_of_lt_succ (Nat.mod_lt _ (by decide))

theorem not_or_iff_imp {b c : Bool} {p : Prop} (h : c = true ↔ p) : (!b || c) = true ↔ (b = true → p) := by
  cases b <;> simp [h]

theorem toList_all_iff {α : Type} {k : Nat} (v : Vector α k) (f : α → Bool) :
    v.toList.all f = true ↔ ∀ i : Fin k, f v[i] = true := by
  rw [List.all_eq_true]
  refine ⟨fun h i => h _ (by simp), fun h x hx => ?_⟩
  obtain ⟨i, hi, rfl⟩ := Vector.mem_iff_getElem.1 (Vector.mem_toList_iff.1 hx)
  exact h ⟨i, hi⟩

theorem toList_any_iff {α : Type} {k : Nat} (v : Vector α k) (f : α → Bool) :
    v.toList.any f = true ↔ ∃ i : Fin k, f v[i] = true := by
  rw [List.any_eq_true]
  refine ⟨fun ⟨x, hx, hf⟩ => ?_, fun ⟨i, hi⟩ => ⟨_, by simp, hi⟩⟩
  obtain ⟨i, hi, rfl⟩ := Vector.mem_iff_getElem.1 (Vector.mem_toList_iff.1 hx)
  exact ⟨⟨i, hi⟩, hf⟩

theorem encoderValid_iff (e : EncoderSettings) : encoderValid e = true ↔
    (e.enabled = true → (1 ≤ e.n ∧ e.n ≤ 16777215) ∧ 1 ≤ e.d ∧ e.d ≤ 65535) :=
  not_or_iff_imp (by rw [Bool.and_eq_true, within_iff, within_iff])

theorem slipValid_iff {g : Settings} (h : g.Fits) :
    (!(g.encA.enabled && g.encB.enabled) || (within 1 65535 g.slipStep && within 1 250 g.slipLimit)) = true ↔
    (g.encA.enabled = true → g.encB.enabled = true → 1 ≤ g.slipStep ∧ 1 ≤ g.slipLimit ∧ g.slipLimit ≤ 250) := by
  have := h.slipStep
  rw [not_or_iff_imp (p := 1 ≤ g.slipStep ∧ 1 ≤ g.slipLimit ∧ g.slipLimit ≤ 250)
    (by rw [Bool.and_eq_true, within_iff, within_iff]; omega), Bool.and_eq_true, and_imp]

theorem driftValid_iff (g : Settings) :
    (!g.driftCheck || (within 1 250 g.driftLimit && within 500 2000 g.takeUpRatio)) = true ↔
    (g.driftCheck = true → (1 ≤ g.driftLimit ∧ g.driftLimit ≤ 250) ∧ 500 ≤ g.takeUpRatio ∧ g.takeUpRatio ≤ 2000) :=
  not_or_iff_imp (by rw [Bool.and_eq_true, within_iff, within_iff])

theorem spindleValid_iff {p : SpindleSettings} (ht : p.turnsPerWindow ≤ 255) (hg : p.target ≤ 16777215) :
    spindleValid p = true ↔ (p.fitted = true → (1 ≤ p.pulses ∧ p.pulses ≤ 4095) ∧ 1 ≤ p.turnsPerWindow ∧ 1 ≤ p.target ∧
      (1 ≤ p.tolerance ∧ p.tolerance ≤ 250) ∧ 1 ≤ p.runLimit ∧ p.runLimit ≤ 15) := by
  refine not_or_iff_imp ?_
  simp only [Bool.and_eq_true, within_iff]
  omega

theorem twistValid_iff {g : Settings} (h : g.Fits) : twistValid g = true ↔
    (g.twist = true → (100 ≤ g.stallPeriod ∧ g.stallPeriod ≤ 10000) ∧ (∃ i : Fin 4, g.spindles[i].fitted = true) ∧
      ∀ i : Fin 4, g.spindles[i].fitted = true → (1 ≤ g.spindles[i].pulses ∧ g.spindles[i].pulses ≤ 4095) ∧
        1 ≤ g.spindles[i].turnsPerWindow ∧ 1 ≤ g.spindles[i].target ∧
        (1 ≤ g.spindles[i].tolerance ∧ g.spindles[i].tolerance ≤ 250) ∧
        1 ≤ g.spindles[i].runLimit ∧ g.spindles[i].runLimit ≤ 15) := by
  refine not_or_iff_imp ?_
  rw [Bool.and_eq_true, Bool.and_eq_true, toList_all_iff, toList_any_iff, within_iff]
  simp only [fun i => spindleValid_iff (h.turns i) (h.target i)]
  tauto

theorem followValid_iff {g : Settings} (h : g.Fits) (hp : g.paceSource ≤ 31) : followValid g = true ↔
    (g.follow = true → g.twist = true ∧ 1 ≤ g.paceSource ∧ (1 ≤ g.pref ∧ g.pref ≤ 4095) ∧ g.paceHold ≤ 5000 ∧
      1 ≤ g.spindles[(0 : Fin 4)].target) := by
  have ht := h.target 0
  refine not_or_iff_imp ?_
  simp only [Bool.and_eq_true, within_iff]
  constructor
  · rintro ⟨⟨⟨⟨htwist, hsource⟩, hpref⟩, hhold⟩, htarget⟩
    exact ⟨htwist, hsource.1, hpref, hhold.2, htarget.1⟩
  · rintro ⟨htwist, hsource, hpref, hhold, htarget⟩
    exact ⟨⟨⟨⟨htwist, hsource, hp⟩, hpref⟩, by omega, hhold⟩, htarget, ht⟩

theorem knotValid_iff {g : Settings} (h : g.Fits) : knotValid g = true ↔
    (g.knot = true → 25 ≤ g.windowSpan ∧ (1 ≤ g.headFilter ∧ g.headFilter ≤ 8) ∧
      (2 ≤ g.suspectThreshold ∧ g.suspectThreshold ≤ 16) ∧ (1 ≤ g.meshRows ∧ g.meshRows ≤ 16) ∧ 1 ≤ g.meshTarget ∧
      (1 ≤ g.meshTolerance ∧ g.meshTolerance ≤ 250) ∧ (1 ≤ g.meshRunLimit ∧ g.meshRunLimit ≤ 15) ∧ g.fittedHeads ≠ 0 ∧
      25 * g.headFilter ≤ g.windowSpan ∧ 1 ≤ g.meshTarget - g.meshTarget * g.meshTolerance / 1000) := by
  have hd := h.openDelay
  have hw := h.windowSpan
  have hm := h.meshTarget
  have hroom : meshTol g + 1 ≤ g.meshTarget ↔ 1 ≤ g.meshTarget - g.meshTarget * g.meshTolerance / 1000 := by
    unfold meshTol
    omega
  refine not_or_iff_imp ?_
  simp only [Bool.and_eq_true, within_iff, bne_iff_ne, decide_eq_true_eq, hroom]
  constructor
  · rintro ⟨⟨⟨⟨⟨⟨⟨⟨⟨⟨_, hspan⟩, hfilter⟩, hsuspect⟩, hrows⟩, htarget⟩, htolerance⟩, hrun⟩, hheads⟩, hwide⟩, hmesh⟩
    exact ⟨hspan.1, hfilter, hsuspect, hrows, htarget.1, htolerance, hrun, hheads, hwide, hmesh⟩
  · rintro ⟨hspan, hfilter, hsuspect, hrows, htarget, htolerance, hrun, hheads, hwide, hmesh⟩
    exact ⟨⟨⟨⟨⟨⟨⟨⟨⟨⟨⟨by omega, hd⟩, hspan, hw⟩, hfilter⟩, hsuspect⟩, hrows⟩, htarget, hm⟩, htolerance⟩, hrun⟩, hheads⟩,
      hwide⟩, hmesh⟩

theorem scanValid_iff {e : ScanSettings} (h : e.filterCount ≤ 15) : scanValid e = true ↔
    (e.mode ≠ .off → e.input ≤ 7 ∧ 1 ≤ e.filterCount ∧ e.lowLimit ≤ 4095 ∧ e.highLimit ≤ 4095 ∧
      (e.mode = .band → e.lowLimit ≤ e.highLimit)) := by
  unfold scanValid
  cases hm : e.mode <;> simp [within, h, and_assoc]

theorem coilValid_iff {g : Settings} (h : g.Fits) : coilValid g = true ↔
    (g.coil = true → 1 ≤ g.coilTarget ∧ g.cutDelay ≤ 10000 ∧ (50 ≤ g.cutPulse ∧ g.cutPulse ≤ 5000) ∧
      (1000 ≤ g.cutDoneTimeout ∧ g.cutDoneTimeout ≤ 60000) ∧ 200 ≤ g.tallyWait ∧ g.tallyWait ≤ 10000) := by
  have hc := h.coilTarget
  refine not_or_iff_imp ?_
  simp only [Bool.and_eq_true, within_iff]
  omega

/-- The roles with the ranges and combined conditions of Tables 11-1 and 11-2. -/
theorem settings_valid_iff {g : Settings} (h : g.Fits) : g.valid = true ↔
    (g.twist = false ∨ g.knot = false) ∧ (1 ≤ g.group ∧ g.group ≤ 7) ∧ g.paceSource ≤ 31 ∧
    (g.encA.enabled = true → (1 ≤ g.encA.n ∧ g.encA.n ≤ 16777215) ∧ 1 ≤ g.encA.d ∧ g.encA.d ≤ 65535) ∧
    (g.encB.enabled = true → (1 ≤ g.encB.n ∧ g.encB.n ≤ 16777215) ∧ 1 ≤ g.encB.d ∧ g.encB.d ≤ 65535) ∧
    (g.encA.enabled = true ∨ g.encB.enabled = true) ∧
    (g.encA.enabled = true → g.encB.enabled = true → 1 ≤ g.slipStep ∧ 1 ≤ g.slipLimit ∧ g.slipLimit ≤ 250) ∧
    (g.driftCheck = true → (1 ≤ g.driftLimit ∧ g.driftLimit ≤ 250) ∧ 500 ≤ g.takeUpRatio ∧ g.takeUpRatio ≤ 2000) ∧
    (g.twist = true → (100 ≤ g.stallPeriod ∧ g.stallPeriod ≤ 10000) ∧ (∃ i : Fin 4, g.spindles[i].fitted = true) ∧
      ∀ i : Fin 4, g.spindles[i].fitted = true → (1 ≤ g.spindles[i].pulses ∧ g.spindles[i].pulses ≤ 4095) ∧
        1 ≤ g.spindles[i].turnsPerWindow ∧ 1 ≤ g.spindles[i].target ∧
        (1 ≤ g.spindles[i].tolerance ∧ g.spindles[i].tolerance ≤ 250) ∧
        1 ≤ g.spindles[i].runLimit ∧ g.spindles[i].runLimit ≤ 15) ∧
    (g.follow = true → g.twist = true ∧ 1 ≤ g.paceSource ∧ (1 ≤ g.pref ∧ g.pref ≤ 4095) ∧ g.paceHold ≤ 5000 ∧
      1 ≤ g.spindles[(0 : Fin 4)].target) ∧
    (g.knot = true → 25 ≤ g.windowSpan ∧ (1 ≤ g.headFilter ∧ g.headFilter ≤ 8) ∧
      (2 ≤ g.suspectThreshold ∧ g.suspectThreshold ≤ 16) ∧ (1 ≤ g.meshRows ∧ g.meshRows ≤ 16) ∧ 1 ≤ g.meshTarget ∧
      (1 ≤ g.meshTolerance ∧ g.meshTolerance ≤ 250) ∧ (1 ≤ g.meshRunLimit ∧ g.meshRunLimit ≤ 15) ∧ g.fittedHeads ≠ 0 ∧
      25 * g.headFilter ≤ g.windowSpan ∧ 1 ≤ g.meshTarget - g.meshTarget * g.meshTolerance / 1000) ∧
    (1 ≤ g.scanPeriod ∧ g.scanPeriod ≤ 1000) ∧
    (∀ i : Fin 8, g.scan[i].mode ≠ .off → g.scan[i].input ≤ 7 ∧ 1 ≤ g.scan[i].filterCount ∧ g.scan[i].lowLimit ≤ 4095 ∧
      g.scan[i].highLimit ≤ 4095 ∧ (g.scan[i].mode = .band → g.scan[i].lowLimit ≤ g.scan[i].highLimit)) ∧
    (1 ≤ g.haltTimeout ∧ g.haltTimeout ≤ 60) ∧
    (g.coil = true → 1 ≤ g.coilTarget ∧ g.cutDelay ≤ 10000 ∧ (50 ≤ g.cutPulse ∧ g.cutPulse ≤ 5000) ∧
      (1000 ≤ g.cutDoneTimeout ∧ g.cutDoneTimeout ≤ 60000) ∧ 200 ≤ g.tallyWait ∧ g.tallyWait ≤ 10000) := by
  have hroles : (!(g.twist && g.knot)) = true ↔ g.twist = false ∨ g.knot = false := by
    cases g.twist <;> cases g.knot <;> decide
  have hpace : within 0 31 g.paceSource = true ↔ g.paceSource ≤ 31 := within_iff.trans (by omega)
  have hscan : g.scan.toList.all scanValid = true ↔ ∀ i : Fin 8, g.scan[i].mode ≠ .off → g.scan[i].input ≤ 7 ∧
      1 ≤ g.scan[i].filterCount ∧ g.scan[i].lowLimit ≤ 4095 ∧ g.scan[i].highLimit ≤ 4095 ∧
      (g.scan[i].mode = .band → g.scan[i].lowLimit ≤ g.scan[i].highLimit) := by
    rw [toList_all_iff]
    exact forall_congr' fun i => scanValid_iff (h.filterCount i)
  unfold Settings.valid
  rw [Bool.and_eq_true, Bool.and_eq_true, Bool.and_eq_true, Bool.and_eq_true, Bool.and_eq_true, Bool.and_eq_true,
    Bool.and_eq_true, Bool.and_eq_true, Bool.and_eq_true, Bool.and_eq_true, Bool.and_eq_true, Bool.and_eq_true,
    Bool.and_eq_true, Bool.and_eq_true, hroles, hpace, within_iff, within_iff, within_iff, encoderValid_iff, encoderValid_iff,
    Bool.or_eq_true, slipValid_iff h, driftValid_iff, twistValid_iff h, knotValid_iff h, hscan, coilValid_iff h]
  simp only [and_assoc]
  refine and_congr_right fun _ => and_congr_right fun _ => and_congr_right fun _ => and_congr_right fun hp => ?_
  simp only [followValid_iff h hp, and_assoc]

/-- The bits that Table 10-10 does not name. -/
theorem unnamedBitsZero_iff (img : List Byte) : unnamedBitsZero img = true ↔
    fieldAt img 2 1 % 32 = 0 ∧ fieldAt img 5 1 % 128 = 0 ∧ fieldAt img 6 1 % 16 = 0 ∧ fieldAt img 23 1 < 16 := by
  have low5 : ∀ b : Byte, (b &&& 0x1F == 0) = true ↔ b.toNat % 32 = 0 := by decide
  have low7 : ∀ b : Byte, (b &&& 0x7F == 0) = true ↔ b.toNat % 128 = 0 := by decide
  have low4 : ∀ b : Byte, (b &&& 0x0F == 0) = true ↔ b.toNat % 16 = 0 := by decide
  have high4 : ∀ b : Byte, (b &&& 0xF0 == 0) = true ↔ b.toNat < 16 := by decide
  unfold unnamedBitsZero
  simp only [Bool.and_eq_true, low5, low7, low4, high4, fieldAt_one, and_assoc]

/-- An image holds each setting at its place in Table 10-10, and is valid exactly where Tables 10-10, 11-1 and 11-2 say. -/
theorem imageValid_iff (img : List Byte) (hlen : img.length = 256) : imageValid img = true ↔
    (crc (img.take 254)).toNat = fieldAt img 254 2 ∧ fieldAt img 0 1 = 0x31 ∧
    (∀ i, 142 ≤ i → i < 254 → byteAt img i = 0xFF) ∧
    fieldAt img 2 1 % 32 = 0 ∧ fieldAt img 5 1 % 128 = 0 ∧ fieldAt img 6 1 % 16 = 0 ∧ fieldAt img 23 1 < 16 ∧
    (settingsOf img).valid = true := by
  have hcrc := crcBytes_eq_iff (crc (img.take 254)) img (i := 254) (by omega)
  have hcode : byteAt img 0 = 0x31 ↔ fieldAt img 0 1 = 0x31 := by
    rw [fieldAt_one, ← BitVec.toNat_inj]
    rfl
  have hunused : ((img.drop 142).take 112).all (· == 0xFF) = true ↔ ∀ i, 142 ≤ i → i < 254 → byteAt img i = 0xFF := by
    have hat {k : Nat} (hk : k < ((img.drop 142).take 112).length) : ((img.drop 142).take 112)[k] = byteAt img (142 + k) := by
      rw [List.length_take, List.length_drop] at hk
      rw [List.getElem_take, List.getElem_drop, byteAt, List.getD_eq_getElem _ _ (by omega)]
    have hl : ((img.drop 142).take 112).length = 112 := by
      rw [List.length_take, List.length_drop]
      omega
    rw [List.all_eq_true]
    constructor
    · intro h i hlo hhi
      have hk : i - 142 < ((img.drop 142).take 112).length := by omega
      have hx := beq_iff_eq.1 (h _ (List.getElem_mem hk))
      rwa [hat hk, Nat.add_sub_cancel' hlo] at hx
    · intro h x hx
      obtain ⟨k, hk, rfl⟩ := List.getElem_of_mem hx
      exact beq_iff_eq.2 ((hat hk).trans (h _ (by omega) (by omega)))
  unfold imageValid
  rw [Bool.and_eq_true, Bool.and_eq_true, Bool.and_eq_true, Bool.and_eq_true, beq_iff_eq, beq_iff_eq, hcrc, hcode, hunused,
    unnamedBitsZero_iff]
  simp only [and_assoc]

end Sys2Proof.Machine
end

section
/-! SUPPORT. What a reset leaves in the memory (R158, R163, R165, R171; log entry 5): the bytes that each step abandoned can change, and
what a scan finds in the sectors that it leaves. -/

namespace Sys2Proof.Machine

-- One proof after the other: elaborated side by side in the joined text, they wait for one another on a thread each.
set_option Elab.async false

/-! ### Reading, by the bytes listed -/

theorem Memory.read_of_notMem {m : Memory} {x : Nat} (h : ∀ c ∈ m, c.1 ≠ x) : m.read x = erasedByte := by
  induction m with
  | nil => rfl
  | cons c m ih =>
    obtain ⟨a, b⟩ := c
    have ha : a ≠ x := h (a, b) List.mem_cons_self
    rw [Memory.read, if_neg ha]
    exact ih fun d hd => h d (List.mem_cons_of_mem _ hd)

theorem Memory.read_of_mem {m : Memory} (h : m.wf) {c : Host.Cell} (hc : c ∈ m) : m.read c.1 = c.2 := by
  induction m with
  | nil => cases hc
  | cons d m ih =>
    obtain ⟨a, b⟩ := d
    obtain ⟨hlt, _, hm⟩ := Memory.wf_cons.1 h
    rcases List.mem_cons.1 hc with rfl | hc
    · exact if_pos rfl
    · rw [Memory.read, if_neg (hlt c hc).ne]
      exact ih hm hc

theorem Memory.readRange_congr {m n : Memory} {a k : Nat} (h : ∀ x, a ≤ x → x < a + k → m.read x = n.read x) :
    m.readRange a k = n.readRange a k := by
  rw [Memory.readRange_eq_map, Memory.readRange_eq_map]
  refine List.map_congr_left fun i hi => h _ (by omega) ?_
  have := List.mem_range.1 hi
  omega

theorem Memory.readRange_erased_iff {m : Memory} {a k : Nat} :
    (m.readRange a k).all (· == erasedByte) = true ↔ ∀ i, i < k → m.read (a + i) = erasedByte := by
  simp [Memory.readRange_eq_map]

theorem byteAt_readRange (m : Memory) (a : Nat) {i k : Nat} (h : i < k) : byteAt (m.readRange a k) i = m.read (a + i) := by
  simp [byteAt, Memory.readRange_eq_map, h]

theorem Memory.sectorErased_iff {m : Memory} (h : m.wf) (p : Nat) :
    m.sectorErased p = true ↔ ∀ x, sectorBase p ≤ x → x < sectorBase p + 256 → m.read x = erasedByte := by
  unfold Memory.sectorErased
  rw [List.all_eq_true]
  constructor
  · intro hall x hlo hhi
    refine Memory.read_of_notMem fun c hc hx => ?_
    have hout := hall c hc
    simp only [Bool.or_eq_true, decide_eq_true_eq, beq_iff_eq] at hout
    rcases hout with (hlt | hge) | hv
    · omega
    · omega
    · exact h.2 c hc hv
  · intro hread c hc
    have hv := Memory.read_of_mem h hc
    by_cases hin : sectorBase p ≤ c.1 ∧ c.1 < sectorBase p + 256
    · exact absurd (hv.symm.trans (hread c.1 hin.1 hin.2)) (h.2 c hc)
    · simp only [Bool.or_eq_true, decide_eq_true_eq, beq_iff_eq]
      exact .inl (by omega)

/-! ### What a scan finds in a sector -/

section
variable {m n : Memory} {p : Nat}

theorem headerValid_congr (h : m.readRange (sectorBase p) 32 = n.readRange (sectorBase p) 32) : headerValid m p = headerValid n p := by
  unfold headerValid
  rw [h]

theorem scanEntry_cls (m : Memory) (p : Nat) : (scanEntry m p).cls = classify m p := by
  unfold scanEntry headedEntry
  split <;> rfl

/-- What a scan finds depends on the sector's 256 bytes alone. -/
theorem scanEntry_congr (hm : m.wf) (hn : n.wf)
    (h : ∀ x, sectorBase p ≤ x → x < sectorBase p + 256 → m.read x = n.read x) : scanEntry m p = scanEntry n p := by
  have hhead : m.readRange (sectorBase p) 32 = n.readRange (sectorBase p) 32 :=
    Memory.readRange_congr fun x hlo hhi => h x hlo (by omega)
  have herased : m.sectorErased p = n.sectorErased p := by
    rw [Bool.eq_iff_iff, Memory.sectorErased_iff hm, Memory.sectorErased_iff hn]
    exact forall_congr' fun x => forall_congr' fun hlo => forall_congr' fun hhi => by rw [h x hlo hhi]
  have hcls : classify m p = classify n p := by
    unfold classify
    rw [herased, headerValid_congr hhead, h (sectorBase p + 255) (by omega) (by omega)]
  unfold scanEntry headedEntry
  rw [hcls, headerValid_congr hhead]
  simp only [hhead]

/-- A valid header begins with a byte that is not erased (R158). -/
theorem not_sectorErased_of_headerValid (hm : m.wf) (h : headerValid m p = true) : m.sectorErased p = false := by
  rw [Bool.eq_false_iff]
  intro he
  have h0 := (Memory.sectorErased_iff hm p).1 he (sectorBase p) (Nat.le_refl _) (by omega)
  unfold headerValid at h
  rw [Bool.and_eq_true, beq_iff_eq, byteAt_readRange m _ (by decide), Nat.add_zero, h0] at h
  exact absurd h.1 (by decide)

theorem classify_of_headerValid (hm : m.wf) (h : headerValid m p = true) : classify m p =
    if m.read (sectorBase p + 255) = erasedByte then .openOnly
    else if m.read (sectorBase p + 255) = sealedMarker then .sealed
    else if m.read (sectorBase p + 255) = lostMarker then .lost
    else if m.read (sectorBase p + 255) = voidMarker then .void
    else .damaged := by
  rw [classify, not_sectorErased_of_headerValid hm h, if_neg Bool.false_ne_true, if_pos h]

theorem headerValid_of_openOnly (h : classify m p = .openOnly) :
    headerValid m p = true ∧ m.read (sectorBase p + 255) = erasedByte := by
  unfold classify at h
  dsimp only at h
  split at h
  · cases h
  split at h
  case isTrue hv =>
    split at h
    case isTrue hb => exact ⟨hv, hb⟩
    · repeat' split at h
      all_goals cases h
  · cases h

/-- A sector whose marker is of no known value (R171). -/
theorem classify_of_unknown (hm : m.wf) (h : knownMarker (m.read (sectorBase p + 255)) = false) : classify m p = .damaged := by
  unfold knownMarker at h
  simp only [Bool.or_eq_false_iff, beq_eq_false_iff_ne] at h
  obtain ⟨⟨⟨hff, hsealed⟩, hlost⟩, hvoid⟩ := h
  have hopen : m.read (sectorBase p + 255) ≠ erasedByte := hff
  by_cases hv : headerValid m p = true
  · rw [classify_of_headerValid hm hv, if_neg hopen, if_neg hsealed, if_neg hlost, if_neg hvoid]
  · have he : m.sectorErased p ≠ true := fun he =>
      hopen ((Memory.sectorErased_iff hm p).1 he _ (by omega) (by omega))
    rw [classify, if_neg he, if_neg hv]

end

/-! ### A program step abandoned (R158, R163, R171) -/

section
variable {m : Memory} (torn : Torn)

theorem burn_nil_read {a : Nat} (hm : m.wf) (v : Byte) : (m.burn [] a v).read a = m.read a &&& v :=
  Memory.read_write_self a _ hm

theorem read_tearProgram_out (m : Memory) (a : Nat) (bytes : List Byte) {x : Nat} (h : x < a ∨ a + bytes.length ≤ x) :
    (tearProgram m torn a bytes).read x = m.read x := by
  have hall : (m.burnAll [] a (bytes.take torn.written)).read x = m.read x :=
    Memory.read_burnAll_out _ _ _ _ (by rw [List.length_take]; omega)
  unfold tearProgram
  split
  · dsimp only
    split
    case h_1 v hv =>
      obtain ⟨hlt, _⟩ := List.getElem?_eq_some_iff.1 hv
      exact (Memory.read_write_ne _ _ (by omega)).trans hall
    · exact hall
  · rfl

theorem tearProgram_of_not_erased (m : Memory) (a : Nat) (bytes : List Byte)
    (h : ¬ (m.readRange a bytes.length).all (· == erasedByte) = true) : tearProgram m torn a bytes = m := if_neg h

/-- What a program step abandoned leaves at a place of its bytes where all of them read erased before. -/
theorem read_tearProgram_in (hm : m.wf) (a : Nat) (bytes : List Byte)
    (he : ∀ i, i < bytes.length → m.read (a + i) = erasedByte) {i : Nat} (hi : i < bytes.length) :
    (tearProgram m torn a bytes).read (a + i) =
      if i < torn.written then bytes[i] else if i = torn.written then bytes[i] ||| torn.partly else erasedByte := by
  let w := bytes.take torn.written
  have hwlen : w.length = min torn.written bytes.length := List.length_take
  have hm1 := Memory.burnAll_wf [] w a hm
  have hbefore (hlt : i < torn.written) : (m.burnAll [] a w).read (a + i) = bytes[i] := by
    have hr := Memory.readRange_burnAll w a hm fun j hj => he j (by omega)
    have hx : byteAt ((m.burnAll [] a w).readRange a w.length) i = byteAt w i := congrArg (byteAt · i) hr
    rw [byteAt_readRange _ _ (by omega)] at hx
    rw [hx, byteAt, List.getD_eq_getElem _ _ (by omega), List.getElem_take]
  have hafter (hle : torn.written ≤ i) : (m.burnAll [] a w).read (a + i) = erasedByte := by
    rw [Memory.read_burnAll_out _ _ _ _ (by omega)]
    exact he i hi
  rw [tearProgram, if_pos (Memory.readRange_erased_iff.2 he)]
  dsimp only
  by_cases hlt : i < torn.written
  · rw [if_pos hlt]
    split
    · exact (Memory.read_write_ne _ _ (by omega)).trans (hbefore hlt)
    · exact hbefore hlt
  rw [if_neg hlt]
  by_cases heq : i = torn.written
  · subst heq
    rw [if_pos rfl, List.getElem?_eq_getElem hi]
    dsimp only
    rw [burn_nil_read hm1, hafter (Nat.le_refl _)]
    exact BitVec.allOnes_and
  · rw [if_neg heq]
    split
    · exact (Memory.read_write_ne _ _ (by omega)).trans (hafter (by omega))
    · exact hafter (by omega)

theorem read_tearSector_out (m : Memory) (p a : Nat) (bytes : List Byte) {x : Nat} (h : x < a ∨ a + bytes.length ≤ x) :
    (tearSector m torn p a bytes).read x = m.read x := by
  unfold tearSector
  dsimp only
  split
  · rfl
  · exact read_tearProgram_out torn m a bytes h

/-- A header abandoned is programmed whole, or leaves the sector DAMAGED, or as a scan found it before (R171). -/
theorem tearSector_header (hm : m.wf) (p : Nat) {image : List Byte} (hlen : image.length = 32) :
    (tearSector m torn p (sectorBase p) image).readRange (sectorBase p) 32 = image ∨
    classify (tearSector m torn p (sectorBase p) image) p = .damaged ∨
    scanEntry (tearSector m torn p (sectorBase p) image) p = scanEntry m p := by
  have htake : image.take 32 = image := List.take_of_length_le (by omega)
  have hm1 := tearProgram_wf torn (sectorBase p) image hm
  have hout {x : Nat} (hx : sectorBase p + 32 ≤ x) : (tearProgram m torn (sectorBase p) image).read x = m.read x :=
    read_tearProgram_out torn m _ image (.inr (by omega))
  unfold tearSector
  dsimp only
  split
  · exact .inr (.inr rfl)
  case isFalse hkeep =>
    by_cases he : (m.readRange (sectorBase p) image.length).all (· == erasedByte) = true
    · by_cases hv : headerValid (tearProgram m torn (sectorBase p) image) p = true
      · left
        by_contra hne
        refine hkeep ?_
        simp [hv, htake, hne]
      · by_cases hall : (tearProgram m torn (sectorBase p) image).sectorErased p = true
        · refine .inr (.inr (scanEntry_congr hm1 hm fun x hlo hhi => ?_))
          by_cases hx : x < sectorBase p + 32
          · have h0 := Memory.readRange_erased_iff.1 he (x - sectorBase p) (by omega)
            rw [Nat.add_sub_cancel' hlo] at h0
            rw [h0]
            exact (Memory.sectorErased_iff hm1 p).1 hall x hlo hhi
          · exact hout (by omega)
        · exact .inr (.inl (by rw [classify, if_neg hall, if_neg hv]))
    · exact .inr (.inr (by rw [tearProgram_of_not_erased torn m _ _ he]))

/-- A body abandoned leaves the sector OPEN-ONLY before its marker, and SEALED after it (R164, R171). -/
theorem tearSector_body (hm : m.wf) {p : Nat} {body : List Byte} (hlen : body.length = 224) (hlast : body[223]? = some sealedMarker)
    (hopen : classify m p = .openOnly) :
    let m1 := tearSector m torn p (sectorBase p + 32) body
    (torn.written < 223 → classify m1 p = .openOnly) ∧
    (classify m1 p = .openOnly ∨ classify m1 p = .sealed ∨ (torn.written = 223 ∧ classify m1 p = .damaged)) := by
  intro m1
  obtain ⟨hv, hmarker⟩ := headerValid_of_openOnly hopen
  have hx : m1 = tearProgram m torn (sectorBase p + 32) body := by
    change (if _ then _ else _) = _
    exact if_neg (by simp)
  have hm1 : m1.wf := hx ▸ tearProgram_wf torn _ body hm
  have hhead : m1.readRange (sectorBase p) 32 = m.readRange (sectorBase p) 32 :=
    Memory.readRange_congr fun x _ hhi => by
      rw [hx]
      exact read_tearProgram_out torn m _ body (.inl (by omega))
  have hcls := classify_of_headerValid hm1 ((headerValid_congr hhead).trans hv)
  by_cases he : (m.readRange (sectorBase p + 32) body.length).all (· == erasedByte) = true
  · have hread := read_tearProgram_in torn hm _ body (Memory.readRange_erased_iff.1 he) (i := 223) (by omega)
    obtain ⟨_, hb⟩ := List.getElem?_eq_some_iff.1 hlast
    rw [hb, ← hx, Nat.add_assoc] at hread
    have hor : ∀ b : Byte, sealedMarker ||| b ≠ lostMarker ∧ sealedMarker ||| b ≠ voidMarker := by decide
    rcases Nat.lt_trichotomy torn.written 223 with h | h | h
    · rw [if_neg (by omega : ¬ 223 < torn.written), if_neg (by omega : ¬ 223 = torn.written)] at hread
      have hcls' := hcls.trans (if_pos hread)
      exact ⟨fun _ => hcls', .inl hcls'⟩
    · rw [if_neg (by omega : ¬ 223 < torn.written), if_pos h.symm] at hread
      rw [hread, if_neg (hor _).1, if_neg (hor _).2] at hcls
      refine ⟨fun hlt => absurd hlt (by omega), ?_⟩
      split at hcls
      · exact .inl hcls
      split at hcls
      · exact .inr (.inl hcls)
      · exact .inr (.inr ⟨h, hcls⟩)
    · rw [if_pos h] at hread
      rw [hread, if_neg (by decide), if_pos rfl] at hcls
      exact ⟨fun hlt => absurd hlt (by omega), .inr (.inl hcls)⟩
  · have hsame : m1 = m := hx.trans (tearProgram_of_not_erased torn m _ _ he)
    rw [hsame]
    exact ⟨fun _ => hopen, .inl hopen⟩

/-! ### A VOID-MARK abandoned (R163, R171) -/

theorem tearVoid_facts (hm : m.wf) (p : Nat) :
    let m1 := tearVoid m torn p
    (∀ x, x ≠ sectorBase p + 255 → m1.read x = m.read x) ∧
    m1.read (sectorBase p + 255) &&& m.read (sectorBase p + 255) = m1.read (sectorBase p + 255) ∧
    (m1.read (sectorBase p + 255) = 0 ∨ classify m1 p = .damaged ∨ m1 = m) := by
  intro m1
  let v := if torn.written = 0 then voidMarker ||| torn.partly else voidMarker
  let m2 := m.burn [] (sectorBase p + 255) v
  have hm2 : m2.wf := Memory.burn_wf [] _ v hm
  have hread : m2.read (sectorBase p + 255) = m.read (sectorBase p + 255) &&& v := burn_nil_read hm v
  have hx : m1 = if knownMarker (m2.read (sectorBase p + 255)) && m2.read (sectorBase p + 255) != voidMarker then m else m2 := rfl
  by_cases hback : (knownMarker (m2.read (sectorBase p + 255)) && m2.read (sectorBase p + 255) != voidMarker) = true
  · rw [if_pos hback] at hx
    rw [hx]
    exact ⟨fun _ _ => rfl, BitVec.and_self, .inr (.inr rfl)⟩
  · rw [if_neg hback] at hx
    rw [hx]
    refine ⟨fun x hne => Memory.read_write_ne m _ hne, ?_, ?_⟩
    · rw [hread, BitVec.and_assoc, BitVec.and_comm v, ← BitVec.and_assoc, BitVec.and_self]
    · by_cases hvoid : m2.read (sectorBase p + 255) = voidMarker
      · exact .inl hvoid
      · refine .inr (.inl (classify_of_unknown hm2 ?_))
        rw [Bool.eq_false_iff]
        exact fun hk => hback (by simp [hk, hvoid])

end

/-! ### An erase abandoned (R165) -/

section
variable {m n : Memory}

theorem read_foldl_write_mem (l : List (Nat × Byte)) (hl : l.Pairwise (fun c d => c.1 < d.1)) (hn : n.wf) {c : Nat × Byte}
    (hc : c ∈ l) : (l.foldl (fun m c => m.write c.1 c.2) n).read c.1 = c.2 := by
  induction l generalizing n with
  | nil => cases hc
  | cons d l ih =>
    obtain ⟨hlt, hl⟩ := List.pairwise_cons.1 hl
    rcases List.mem_cons.1 hc with rfl | hc
    · rw [List.foldl_cons, Memory.read_foldl_write_out l _ fun d hd => (hlt d hd).ne']
      exact Memory.read_write_self _ _ hn
    · exact ih hl (Memory.write_wf _ _ hn) hc

theorem read_restoreSector_out (m n : Memory) (p : Nat) {x : Nat} (h : x < sectorBase p ∨ sectorBase p + 256 ≤ x) :
    (restoreSector m n p).read x = n.read x := by
  unfold restoreSector
  rw [Memory.read_foldl_write_out, Memory.read_clearRange_out h]
  rintro c hc rfl
  have hin := (List.mem_filter.1 hc).2
  simp only [Bool.and_eq_true, decide_eq_true_eq] at hin
  omega

theorem read_restoreSector_in (hm : m.wf) (hn : n.wf) (p : Nat) {x : Nat} (hlo : sectorBase p ≤ x) (hhi : x < sectorBase p + 256) :
    (restoreSector m n p).read x = m.read x := by
  unfold restoreSector
  by_cases hx : ∃ c ∈ m, c.1 = x
  · obtain ⟨c, hc, rfl⟩ := hx
    have hin : c ∈ m.filter (fun c => sectorBase p ≤ c.1 && c.1 < sectorBase p + 256) :=
      List.mem_filter.2 ⟨hc, by simp [hlo, hhi]⟩
    rw [read_foldl_write_mem _ (hm.1.filter _) (Memory.clearRange_wf _ _ hn) hin, Memory.read_of_mem hm hc]
  · have hnot : ∀ c ∈ m, c.1 ≠ x := fun c hc h => hx ⟨c, hc, h⟩
    rw [Memory.read_foldl_write_out _ _ fun c hc => hnot c (List.mem_filter.1 hc).1, Memory.read_clearRange_in ⟨hlo, hhi⟩,
      Memory.read_of_notMem hnot]

/-- A sector of an abandoned erase as a scan finds it (R165): ERASED, DAMAGED or as before. -/
def FoundAfter (m n : Memory) (p : Nat) : Prop :=
  (scanEntry n p).cls = .erased ∨ (scanEntry n p).cls = .damaged ∨ scanEntry n p = scanEntry m p

theorem erasePlausible_iff (m n : Memory) (p : Nat) : erasePlausible m n p = true ↔ FoundAfter m n p := by
  simp [erasePlausible, FoundAfter, scanEntry_cls, or_assoc]

/-- One sector judged after an abandoned erase. -/
def judgeSector (m n : Memory) (p : Nat) : Memory := if erasePlausible m n p then n else restoreSector m n p

theorem judgeSector_wf (m : Memory) (p : Nat) (hn : n.wf) : (judgeSector m n p).wf := by
  unfold judgeSector
  split
  · exact hn
  · exact restoreSector_wf p hn

theorem read_judgeSector_out (m n : Memory) (p : Nat) {x : Nat} (h : x < sectorBase p ∨ sectorBase p + 256 ≤ x) :
    (judgeSector m n p).read x = n.read x := by
  unfold judgeSector
  split
  · rfl
  · exact read_restoreSector_out m n p h

theorem judgeSector_found (hm : m.wf) (hn : n.wf) (p : Nat) : FoundAfter m (judgeSector m n p) p := by
  unfold judgeSector
  split
  case isTrue h => exact (erasePlausible_iff m n p).1 h
  · exact .inr (.inr (scanEntry_congr (restoreSector_wf p hn) hm fun x hlo hhi => read_restoreSector_in hm hn p hlo hhi))

theorem foldl_judgeSector_wf (m : Memory) (l : List Nat) (hn : n.wf) : (l.foldl (judgeSector m) n).wf := by
  induction l generalizing n with
  | nil => exact hn
  | cons p l ih => exact ih (judgeSector_wf m p hn)

theorem read_foldl_judgeSector_out (m n : Memory) (l : List Nat) {x : Nat}
    (h : ∀ p ∈ l, x < sectorBase p ∨ sectorBase p + 256 ≤ x) : (l.foldl (judgeSector m) n).read x = n.read x := by
  induction l generalizing n with
  | nil => rfl
  | cons p l ih =>
    rw [List.foldl_cons, ih _ fun q hq => h q (List.mem_cons_of_mem _ hq)]
    exact read_judgeSector_out m n p (h p List.mem_cons_self)

theorem foldl_judgeSector_found (hm : m.wf) (hn : n.wf) {l : List Nat} (hl : l.Nodup) {p : Nat} (hp : p ∈ l) :
    FoundAfter m (l.foldl (judgeSector m) n) p := by
  induction l generalizing n with
  | nil => cases hp
  | cons q l ih =>
    obtain ⟨hq, hl⟩ := List.nodup_cons.1 hl
    have hw := judgeSector_wf m q hn
    rcases List.mem_cons.1 hp with rfl | hp
    · have hsame : scanEntry (l.foldl (judgeSector m) (judgeSector m n p)) p = scanEntry (judgeSector m n p) p := by
        refine scanEntry_congr (foldl_judgeSector_wf m l hw) hw fun x hlo hhi => read_foldl_judgeSector_out m _ l fun r hr => ?_
        have hne : r ≠ p := fun h => hq (h ▸ hr)
        unfold sectorBase at *
        omega
      rw [List.foldl_cons, FoundAfter, hsame]
      exact judgeSector_found hm hn p
    · exact ih hw hl hp

theorem read_foldl_write_out (l : List (Nat × Byte)) (f : Memory → Nat × Byte → Byte) (n : Memory) {x : Nat}
    (h : ∀ c ∈ l, c.1 ≠ x) : (l.foldl (fun m c => m.write c.1 (f m c)) n).read x = n.read x := by
  induction l generalizing n with
  | nil => rfl
  | cons c l ih =>
    rw [List.foldl_cons, ih _ fun d hd => h d (List.mem_cons_of_mem _ hd)]
    exact Memory.read_write_ne n _ (h c List.mem_cons_self).symm

theorem tearErase_facts (hm : m.wf) (torn : Torn) (b : Nat) :
    (∀ x, x < 4096 * b ∨ 4096 * b + 4096 ≤ x → (tearErase m torn b).read x = m.read x) ∧
    ∀ i, i < 16 → FoundAfter m (tearErase m torn b) (16 * b + i) := by
  let l := torn.erased.filter (fun c => b * 4096 ≤ c.1 && c.1 < b * 4096 + 4096)
  let n := l.foldl (fun m c => m.write c.1 (m.read c.1 ||| c.2)) m
  have hn : n.wf := Memory.foldl_write_wf _ (fun m c => m.read c.1 ||| c.2) hm
  have hx : tearErase m torn b = (bankSectors b).foldl (judgeSector m) n := rfl
  rw [hx]
  refine ⟨fun x hout => ?_, fun i hi => foldl_judgeSector_found hm hn List.nodup_range' ?_⟩
  · rw [read_foldl_judgeSector_out m n (bankSectors b) fun p hp => ?_]
    · refine read_foldl_write_out l (fun m c => m.read c.1 ||| c.2) m fun c hc hcx => ?_
      have hin := (List.mem_filter.1 hc).2
      simp only [Bool.and_eq_true, decide_eq_true_eq] at hin
      omega
    · have hp' := List.mem_range'_1.1 hp
      unfold sectorBase
      omega
  · exact List.mem_range'_1.2 (by omega)

end

end Sys2Proof.Machine
end

section
/-! SUPPORT. The start-up scan (R171, R172): the sector table, the write pointer, the next coil number and the sectors to complete. -/

namespace Sys2Proof.Machine

-- One proof after the other: elaborated side by side in the joined text, they wait for one another on a thread each.
set_option Elab.async false

section
variable (m : Memory) (station : Station)

/-! ### The sector table -/

theorem scanTable_length : (scanTable m).length = 240 := by simp [scanTable]

theorem scanTable_getD {p : Nat} (hlo : 16 ≤ p) (hhi : p ≤ 255) : (scanTable m).getD (p - 16) .blank = scanEntry m p := by
  rw [List.getD_eq_getElem _ _ (by rw [scanTable_length]; omega)]
  simp [scanTable, Nat.add_sub_cancel' hlo]

theorem zip_scanTable : (List.range' 16 240).zip (scanTable m) = (List.range' 16 240).map (fun p => (p, scanEntry m p)) :=
  List.map_prod_left_eq_zip.symm

theorem mem_ring {p : Nat} : p ∈ List.range' 16 240 ↔ 16 ≤ p ∧ p ≤ 255 := by
  rw [List.mem_range'_1]
  omega

/-! ### The sectors with a valid header -/

theorem SectorClass.headed_iff {c : SectorClass} : c.headed = true ↔ c = .openOnly ∨ c = .sealed ∨ c = .lost ∨ c = .void := by
  cases c <;> decide

/-- A ring sector in which a scan finds a valid header (R172). -/
def Headed (p : Nat) : Prop := 16 ≤ p ∧ p ≤ 255 ∧ (scanEntry m p).cls.headed = true

/-- One with a header of the own station. -/
def HeadedOwn (p : Nat) : Prop := Headed m p ∧ (scanEntry m p).station = station

theorem mem_headedSectors {x : Nat × SectorEntry} :
    x ∈ headedSectors (scanTable m) ↔ x.2 = scanEntry m x.1 ∧ Headed m x.1 := by
  unfold headedSectors Headed
  rw [zip_scanTable, List.mem_filter, List.mem_map]
  constructor
  · rintro ⟨⟨p, hp, rfl⟩, hc⟩
    obtain ⟨hlo, hhi⟩ := mem_ring.1 hp
    exact ⟨rfl, hlo, hhi, hc⟩
  · rintro ⟨he, hlo, hhi, hc⟩
    exact ⟨⟨x.1, mem_ring.2 ⟨hlo, hhi⟩, Prod.ext rfl he.symm⟩, by rw [he]; exact hc⟩

theorem mem_ownHeaders {x : Nat × SectorEntry} :
    x ∈ (headedSectors (scanTable m)).filter (fun x => x.2.station == station) ↔ x.2 = scanEntry m x.1 ∧ HeadedOwn m station x.1 := by
  rw [List.mem_filter, mem_headedSectors, beq_iff_eq, HeadedOwn]
  exact ⟨fun ⟨⟨he, hh⟩, hs⟩ => ⟨he, hh, he ▸ hs⟩, fun ⟨he, hh, hs⟩ => ⟨⟨he, hh⟩, he.symm ▸ hs⟩⟩

theorem ownHeaders_isEmpty : ((headedSectors (scanTable m)).filter (fun x => x.2.station == station)).isEmpty = true ↔
    ∀ p, ¬ HeadedOwn m station p := by
  rw [List.isEmpty_iff, List.eq_nil_iff_forall_not_mem]
  refine ⟨fun h p hp => h (p, scanEntry m p) ((mem_ownHeaders m station).2 ⟨rfl, hp⟩), fun h x hx => ?_⟩
  exact h x.1 ((mem_ownHeaders m station).1 hx).2

theorem mem_judgedHeaders {x : Nat × SectorEntry} : x ∈ judgedHeaders station (scanTable m) ↔
    x.2 = scanEntry m x.1 ∧ Headed m x.1 ∧ (HeadedOwn m station x.1 ∨ ∀ q, ¬ HeadedOwn m station q) := by
  unfold judgedHeaders
  dsimp only
  split
  case isTrue h =>
    have hnone := (ownHeaders_isEmpty m station).1 h
    rw [mem_headedSectors]
    exact ⟨fun ⟨he, hh⟩ => ⟨he, hh, .inr hnone⟩, fun ⟨he, hh, _⟩ => ⟨he, hh⟩⟩
  case isFalse h =>
    rw [mem_ownHeaders]
    refine ⟨fun ⟨he, ho⟩ => ⟨he, ho.1, .inl ho⟩, fun ⟨he, _, ho⟩ => ⟨he, ho.resolve_right fun hn => h ?_⟩⟩
    exact (ownHeaders_isEmpty m station).2 hn

/-! ### The greatest of some -/

theorem foldl_max_of_le {α : Type} (f : α → Nat) (l : List α) {b : Nat} (h : ∀ y ∈ l, f y ≤ b) :
    l.foldl (fun n y => max n (f y)) b = b := by
  induction l with
  | nil => rfl
  | cons y l ih =>
    rw [List.foldl_cons, Nat.max_eq_left (h y List.mem_cons_self)]
    exact ih fun z hz => h z (List.mem_cons_of_mem _ hz)

theorem foldl_max_eq {α : Type} (f : α → Nat) (l : List α) {a : Nat} {x : α} (hx : x ∈ l) (ha : a ≤ f x)
    (h : ∀ y ∈ l, f y ≤ f x) : l.foldl (fun n y => max n (f y)) a = f x := by
  induction l generalizing a with
  | nil => cases hx
  | cons y l ih =>
    have hl : ∀ z ∈ l, f z ≤ f x := fun z hz => h z (List.mem_cons_of_mem _ hz)
    rcases List.mem_cons.1 hx with rfl | hx
    · rw [List.foldl_cons, Nat.max_eq_right ha]
      exact foldl_max_of_le f l hl
    · exact ih hx (Nat.max_le.2 ⟨ha, h y List.mem_cons_self⟩) hl

theorem topCoil_eq {l : List (Nat × SectorEntry)} {x : Nat × SectorEntry} (hx : x ∈ l) (h : ∀ y ∈ l, y.2.coil ≤ x.2.coil) :
    topCoil l = x.2.coil := foldl_max_eq (fun x : Nat × SectorEntry => x.2.coil) l hx (Nat.zero_le _) h

theorem topSector_eq {l : List (Nat × SectorEntry)} {x : Nat × SectorEntry} (hx : x ∈ l) (h : ∀ y ∈ l, y.1 ≤ x.1) :
    topSector l = x.1 := foldl_max_eq (fun x : Nat × SectorEntry => x.1) l hx (Nat.zero_le _) h

/-! ### The write pointer and the next coil number -/

theorem scanPointer_of_none (h : ∀ p, ¬ Headed m p) : scanPointer station (scanTable m) = 16 := by
  have he : (judgedHeaders station (scanTable m)).isEmpty = true := by
    rw [List.isEmpty_iff, List.eq_nil_iff_forall_not_mem]
    exact fun x hx => h x.1 ((mem_judgedHeaders m station).1 hx).2.1
  exact if_pos he

/-- What makes a header the last one (R172): a higher coil number than any other, or the same with a sector that is not VOID where
the other's is, or both alike and the higher sector. -/
def Outranks (y x : Nat × SectorEntry) : Prop :=
  y.2.coil < x.2.coil ∨ y.2.coil = x.2.coil ∧
    (y.2.cls = .void ∧ x.2.cls ≠ .void ∨ (y.2.cls = .void ↔ x.2.cls = .void) ∧ y.1 ≤ x.1)

theorem scanPointer_of_last {x : Nat × SectorEntry} (hx : x ∈ judgedHeaders station (scanTable m))
    (h : ∀ y ∈ judgedHeaders station (scanTable m), Outranks y x) :
    scanPointer station (scanTable m) = nextSector x.1 := by
  unfold scanPointer
  dsimp only
  generalize judgedHeaders station (scanTable m) = l at hx h
  have hcoil : topCoil l = x.2.coil := topCoil_eq hx fun y hy => (h y hy).elim Nat.le_of_lt fun hy => hy.1.le
  have hne : ¬ l.isEmpty = true := fun he => by
    rw [List.isEmpty_iff.1 he] at hx
    cases hx
  have htop : x ∈ l.filter (fun y => y.2.coil == topCoil l) := List.mem_filter.2 ⟨hx, beq_iff_eq.2 hcoil.symm⟩
  have halike {y : Nat × SectorEntry} (hy : y ∈ l.filter (fun y => y.2.coil == topCoil l)) :
      y.2.cls = .void ∧ x.2.cls ≠ .void ∨ (y.2.cls = .void ↔ x.2.cls = .void) ∧ y.1 ≤ x.1 := by
    obtain ⟨hyl, hyc⟩ := List.mem_filter.1 hy
    rw [beq_iff_eq, hcoil] at hyc
    exact ((h y hyl).resolve_left (by omega)).2
  rw [if_neg hne]
  congr 1
  generalize l.filter (fun y => y.2.coil == topCoil l) = top at htop halike
  by_cases hv : x.2.cls = .void
  · have hempty : (top.filter (fun y => y.2.cls != .void)).isEmpty = true := by
      rw [List.isEmpty_iff, List.filter_eq_nil_iff]
      intro y hy hn
      rcases halike hy with ⟨_, hx⟩ | ⟨hiff, _⟩
      · exact hx hv
      · exact bne_iff_ne.1 hn (hiff.2 hv)
    rw [if_pos hempty]
    exact topSector_eq htop fun y hy => (halike hy).elim (fun ⟨_, hx⟩ => absurd hv hx) And.right
  · have hwhole : x ∈ top.filter (fun y => y.2.cls != .void) := List.mem_filter.2 ⟨htop, bne_iff_ne.2 hv⟩
    rw [if_neg fun he => by rw [List.isEmpty_iff.1 he] at hwhole; cases hwhole]
    refine topSector_eq hwhole fun y hy => ?_
    obtain ⟨hyt, hyv⟩ := List.mem_filter.1 hy
    exact ((halike hyt).resolve_left fun hy => bne_iff_ne.1 hyv hy.1).2

theorem scanNext_of_none (h : ∀ p, ¬ HeadedOwn m station p) : scanNext station (scanTable m) = some 1 :=
  if_pos ((ownHeaders_isEmpty m station).2 h)

theorem scanNext_of_top {p : Nat} (hp : HeadedOwn m station p)
    (h : ∀ q, HeadedOwn m station q → (scanEntry m q).coil ≤ (scanEntry m p).coil) :
    scanNext station (scanTable m) = nextCoil (scanEntry m p).coil := by
  have hmem := (mem_ownHeaders m station (x := (p, scanEntry m p))).2 ⟨rfl, hp⟩
  have hne : ¬ ((headedSectors (scanTable m)).filter (fun x => x.2.station == station)).isEmpty = true := fun he =>
    (ownHeaders_isEmpty m station).1 he p hp
  refine (if_neg hne).trans (congrArg nextCoil (topCoil_eq hmem fun y hy => ?_))
  obtain ⟨he, ho⟩ := (mem_ownHeaders m station).1 hy
  rw [he]
  exact h y.1 ho

/-! ### The OPEN-ONLY sectors -/

theorem openSectors_scanTable :
    openSectors (scanTable m) = (List.range' 16 240).filter (fun p => (scanEntry m p).cls == .openOnly) := by
  unfold openSectors
  rw [zip_scanTable, List.filter_map, List.map_map]
  exact List.map_id _

theorem mem_openSectors {p : Nat} : p ∈ openSectors (scanTable m) ↔ 16 ≤ p ∧ p ≤ 255 ∧ (scanEntry m p).cls = .openOnly := by
  rw [openSectors_scanTable, List.mem_filter, mem_ring, beq_iff_eq, and_assoc]

theorem openSectors_eq_nil (h : ∀ p, 16 ≤ p → p ≤ 255 → (scanEntry m p).cls ≠ .openOnly) : openSectors (scanTable m) = [] := by
  refine List.eq_nil_iff_forall_not_mem.2 fun p hp => ?_
  obtain ⟨hlo, hhi, hc⟩ := (mem_openSectors m).1 hp
  exact h p hlo hhi hc

/-- The first OPEN-ONLY sector is the lowest (R172). -/
theorem openSectors_eq_cons {p : Nat} (hlo : 16 ≤ p) (hhi : p ≤ 255) (hc : (scanEntry m p).cls = .openOnly)
    (hfirst : ∀ q, 16 ≤ q → q < p → (scanEntry m q).cls ≠ .openOnly) : ∃ rest, openSectors (scanTable m) = p :: rest := by
  have hmem := (mem_openSectors m).2 ⟨hlo, hhi, hc⟩
  have hsorted : (openSectors (scanTable m)).Pairwise (· < ·) := by
    rw [openSectors_scanTable]
    exact List.Pairwise.filter _ (List.pairwise_lt_range' ..)
  cases ho : openSectors (scanTable m) with
  | nil =>
    rw [ho] at hmem
    cases hmem
  | cons q rest =>
    have hq := (mem_openSectors m).1 (ho ▸ List.mem_cons_self : q ∈ openSectors (scanTable m))
    rw [ho] at hmem hsorted
    rcases List.mem_cons.1 hmem with rfl | hp
    · exact ⟨rest, rfl⟩
    · exact absurd hq.2.2 (hfirst q hq.1 (List.rel_of_pairwise_cons hsorted hp))

end

/-! ### The scan begun (R172, R181) -/

section
variable (s : State)

theorem beginScan_of_nil (h : openSectors s.store.table = []) : beginScan s = s.emit [.startEvent] := by
  unfold beginScan
  rw [h]

theorem beginScan_of_cons {p : Nat} {rest : List Nat} (h : openSectors s.store.table = p :: rest) :
    beginScan s = beginOp (.lostRecord p) s := by
  unfold beginScan
  rw [h]

theorem beginScan_only : Only [.due, .store] s (beginScan s) := by
  unfold beginScan
  split
  · exact (withStore_only s _).grow (by decide)
  · exact (emit_only s _).grow (by decide)

/-- The scan's first completion changes nothing of the store but the operation in flight. -/
theorem beginScan_store : ∃ f, (beginScan s).store = { s.store with inFlight := f } := by
  unfold beginScan
  split
  · exact ⟨_, rfl⟩
  · exact ⟨s.store.inFlight, rfl⟩

theorem beginScan_wrap : (beginScan s).store.wrap = s.store.wrap := by
  obtain ⟨f, h⟩ := beginScan_store s
  rw [h]

end

end Sys2Proof.Machine
end

section
/-! SUPPORT. A reset (R1, R165, R171, R181): what it leaves of each operation in flight, and the node that it starts. -/

namespace Sys2Proof.Machine

-- One proof after the other: elaborated side by side in the joined text, they wait for one another on a thread each.
set_option Elab.async false

/-! ### The memory that a reset finds -/

section
variable {s : State} {f : InFlight} (torn : Torn)

theorem tornMemory_of_none (h : s.store.inFlight = none) : tornMemory torn s = s.memory := by
  unfold tornMemory
  rw [h]

theorem tornMemory_of_some (h : s.store.inFlight = some f) : tornMemory torn s =
    if f.op.isCommit && imageValid ((tearStep torn f s).readRange 0 256) then (tearStep torn f s).eraseBank [] 0
    else tearStep torn f s := by
  unfold tornMemory
  rw [h]

theorem StoreOp.isCommit_iff (op : StoreOp) : op.isCommit = true ↔ ∃ image source, op = .commit image source := by
  cases op <;> simp [StoreOp.isCommit]

theorem tornMemory_of_not_commit (h : s.store.inFlight = some f) (hc : ∀ image source, f.op ≠ .commit image source) :
    tornMemory torn s = tearStep torn f s := by
  have hn : f.op.isCommit = false := by
    rw [Bool.eq_false_iff, ne_eq, StoreOp.isCommit_iff]
    rintro ⟨image, source, h⟩
    exact hc image source h
  rw [tornMemory_of_some torn h, hn]
  rfl

theorem tornMemory_nothing (h : s.store.inFlight = some f) (hstep : f.step = .nothing) :
    tornMemory torn s = s.memory ∨ ∃ image source, f.op = .commit image source := by
  by_cases hc : ∃ image source, f.op = .commit image source
  · exact .inr hc
  · refine .inl ((tornMemory_of_not_commit torn h fun i src hi => hc ⟨i, src, hi⟩).trans ?_)
    unfold tearStep
    rw [hstep]

/-- A CHECK or a READ abandoned has written nothing (R169, R170). -/
theorem tornMemory_work (h : s.store.inFlight = some f) (hstep : f.step = .work)
    (hop : (∃ i j source, f.op = .checkRange i j source) ∨ ∃ n parts source, f.op = .readRecord n parts source) :
    tornMemory torn s = s.memory := by
  rcases hop with ⟨i, j, source, hop⟩ | ⟨n, parts, source, hop⟩ <;>
    exact (tornMemory_of_not_commit torn h fun _ _ hc => nomatch hop.symm.trans hc).trans (by simp only [tearStep, hstep, hop])

theorem tornMemory_void (h : s.store.inFlight = some f) (hc : ∀ image source, f.op ≠ .commit image source) {p : Nat}
    (hstep : f.step = .void p) : tornMemory torn s = tearVoid s.memory torn p := by
  rw [tornMemory_of_not_commit torn h hc]
  unfold tearStep
  rw [hstep]

theorem tornMemory_program (h : s.store.inFlight = some f) (hc : ∀ image source, f.op ≠ .commit image source) {p a : Nat}
    {bytes : List Byte} (hstep : f.step = .program p) (hp : programmed f.op p s = (a, bytes)) :
    tornMemory torn s = tearSector s.memory torn p a bytes := by
  rw [tornMemory_of_not_commit torn h hc]
  unfold tearStep
  rw [hstep]
  dsimp only
  rw [hp]

theorem tornMemory_erase (h : s.store.inFlight = some f) (hc : ∀ image source, f.op ≠ .commit image source) {b : Nat}
    (hstep : (∃ judged, f.step = .erase b judged) ∨ (f.step = .work ∧ ∃ source, f.op = .eraseBank b source)) :
    tornMemory torn s = tearErase s.memory torn b := by
  rw [tornMemory_of_not_commit torn h hc]
  unfold tearStep
  rcases hstep with ⟨judged, hstep⟩ | ⟨hstep, source, hop⟩
  · rw [hstep]
  · rw [hstep, hop]

theorem imageValid_erased (m : Memory) : imageValid ((m.eraseBank [] 0).readRange 0 256) = false := by
  have h0 : byteAt ((m.eraseBank [] 0).readRange 0 256) 0 = 0xFF :=
    (byteAt_readRange _ 0 (by decide)).trans (Memory.read_eraseBank_in m [] (by decide) rfl)
  have hcode : (byteAt ((m.eraseBank [] 0).readRange 0 256) 0 == 0x31) = false := by
    rw [h0]
    decide
  unfold imageValid
  rw [hcode, Bool.and_false, Bool.false_and, Bool.false_and, Bool.false_and]

/-- A reset during a commit leaves no valid settings (R183). -/
theorem tornMemory_commit_invalid (h : s.store.inFlight = some f) {image : List Byte} {source : Station}
    (hop : f.op = .commit image source) : imageValid ((tornMemory torn s).readRange 0 256) = false := by
  have hc : f.op.isCommit = true := (StoreOp.isCommit_iff _).2 ⟨image, source, hop⟩
  rw [tornMemory_of_some torn h, hc, Bool.true_and]
  split
  case isTrue => exact imageValid_erased _
  case isFalse hv => exact Bool.eq_false_iff.2 hv

theorem tornMemory_commit_out (hm : s.memory.wf) (h : s.store.inFlight = some f) {image : List Byte} {source : Station}
    (hop : f.op = .commit image source) (hstep : f.step = .erase 0 1 ∨ f.step = .program 0) (hlen : image.length = 256) {a : Nat}
    (ha : 4096 ≤ a) : (tornMemory torn s).read a = s.memory.read a := by
  have htear : (tearStep torn f s).read a = s.memory.read a := by
    unfold tearStep
    rcases hstep with hstep | hstep
    · rw [hstep]
      exact (tearErase_facts hm torn 0).1 a (.inr (by omega))
    · rw [hstep, hop]
      exact read_tearSector_out torn s.memory 0 0 image (.inr (by omega))
  rw [tornMemory_of_some torn h]
  split
  · rw [Memory.read_eraseBank_out _ _ (.inr (by omega)), htear]
  · exact htear

/-! ### The bytes of a keep (R164) -/

theorem findRecord_of_unique {r : CoilRecord} (hr : r ∈ s.records) (hu : ∀ q ∈ s.records, q.coil = r.coil → q = r) :
    s.findRecord r.coil = some r := by
  unfold State.findRecord
  cases hq : s.records.find? (fun q => q.coil == r.coil) with
  | none => exact absurd (beq_iff_eq.2 rfl) (List.find?_eq_none.1 hq r hr)
  | some q =>
    have hcoil : (q.coil == r.coil) = true := List.find?_some (p := fun q : CoilRecord => q.coil == r.coil) hq
    rw [hu q (List.mem_of_find?_eq_some hq) (beq_iff_eq.1 hcoil)]

theorem programmed_keep {r : CoilRecord} {p : Nat} (hr : r ∈ s.records) (hu : ∀ q ∈ s.records, q.coil = r.coil → q = r)
    (ha : r.anchor = some p) : programmed (.keep r.coil) p s = (sectorBase p + 32, bodyBytes r) := by
  simp only [programmed, findRecord_of_unique hr hu, if_pos ha]

theorem bodyBytes_last {r : CoilRecord} (h : (bodyBytes r).length = 224) : (bodyBytes r)[223]? = some sealedMarker := by
  unfold bodyBytes at h ⊢
  rw [List.length_append, List.length_singleton] at h
  have hl : (bodyFields r ++ crcBytes (crc (bodyFields r))).length = 223 := by omega
  rw [← hl]
  exact List.getElem?_concat_length

end

/-! ### The node that a reset starts -/

theorem sectorBase_eq (p : Nat) : sectorBase p = 256 * p := Nat.mul_comm p 256

/-- What the start takes from the image that it finds valid, and else (R181, R182; log entry 10). -/
theorem settingsInUse_of_valid {img : List Byte} (h : imageValid img = true) : settingsInUse img = settingsOf img := if_pos h

theorem settingsInUse_of_invalid {img : List Byte} (h : imageValid img = false) : settingsInUse img = .blank :=
  if_neg (by rw [h]; exact Bool.false_ne_true)

/-- The three places of the node that the settings in use reach. -/
theorem startedNode_eq (station : Station) (commission : Bool) (m : Memory) (s : State) :
    startedNode station commission m s = { startedNode station commission m s with
      settings := settingsInUse (m.readRange 0 256)
      coil := { (startedNode station commission m s).coil with
        pendingTarget := (settingsInUse (m.readRange 0 256)).coilTarget }
      store := { (startedNode station commission m s).store with wrap := (settingsInUse (m.readRange 0 256)).wrap } } := rfl

theorem startedNode_settings (station : Station) (commission : Bool) (m : Memory) (s : State) {g : Settings}
    (h : settingsInUse (m.readRange 0 256) = g) : (startedNode station commission m s).settings = g ∧
      (startedNode station commission m s).store.wrap = g.wrap ∧
      (startedNode station commission m s).coil.pendingTarget = g.coilTarget := by
  rw [startedNode_eq, h]
  exact ⟨rfl, rfl, rfl⟩

/-- Settles O3, from the layout of the image, what each step abandoned leaves, and what the scan finds in it. -/
theorem resetReturnsEveryBlock : Obligations.ResetReturnsEveryBlock := by
  refine ⟨?_, ?_⟩
  · intro img hlen g n bit among whole
    obtain ⟨hpace, hdrift, hfollow, hresume, hlay, hmesh, harith, hconsecutive, hwrap⟩ := settingsOf_options (img := img) (by omega)
    refine ⟨rfl, rfl, rfl, rfl, rfl, hpace, hdrift, hfollow, hresume, hlay, hmesh, harith, hconsecutive, hwrap, rfl, rfl, rfl, rfl,
      rfl, rfl, settingsOf_spindle_fields img, rfl, rfl, rfl, wordAt_toNat img 62, rfl, rfl, rfl, rfl, rfl, rfl, rfl, rfl, rfl, rfl,
      settingsOf_scan_fields img, rfl, rfl, rfl, rfl, rfl, rfl, ?_⟩
    rw [imageValid_iff img hlen, settings_valid_iff (settingsOf_fits img)]
    exact Iff.rfl
  intro station commission torn s
  let m := tornMemory torn s
  let s1 := startedNode station commission m s
  refine ⟨beginScan s1, rfl, ?_⟩
  generalize ht : beginScan s1 = t
  have honly : Only [.due, .store] s1 t := ht ▸ beginScan_only s1
  obtain ⟨inFlight, hstore⟩ := ht ▸ beginScan_store s1
  have hmemory : t.memory = m := honly.2 .memory (by decide)
  have hstart : t.startRec = s1.startRec := honly.2 .startRec (by decide)
  have hcoil : t.coil = s1.coil := honly.2 .coil (by decide)
  have hwrap : t.store.wrap = s1.store.wrap := ht ▸ beginScan_wrap s1
  have htable : t.store.table = scanTable m := by rw [hstore]; rfl
  have hpointer : t.store.pointer = scanPointer station (scanTable m) := by rw [hstore]; rfl
  have hnext : t.coil.next = scanNext station (scanTable m) := by rw [hcoil]; rfl
  have hentry {p : Nat} (hlo : 16 ≤ p) (hhi : p ≤ 255) : t.sectorEntry p = scanEntry m p := by
    unfold State.sectorEntry
    rw [htable, scanTable_getD m hlo hhi]
  have hclass {p : Nat} (hlo : 16 ≤ p) (hhi : p ≤ 255) : t.sectorClass p = (scanEntry m p).cls :=
    congrArg SectorEntry.cls (hentry hlo hhi)
  have hkeeps {lo hi : Nat} (h : ∀ x, x < lo ∨ hi ≤ x → m.read x = s.memory.read x) : KeepsOutside lo hi s t := fun x hx => by
    rw [hmemory]
    exact h x hx
  intro image headed own judged last
  have himage : image = m.readRange 0 256 := congrArg (fun n : Memory => n.readRange 0 256) hmemory
  have hheaded (p : Nat) : headed p ↔ Headed m p := by
    refine and_congr_right fun hlo => and_congr_right fun hhi => ?_
    rw [hclass hlo hhi]
    exact SectorClass.headed_iff.symm
  have hown (p : Nat) : own p ↔ HeadedOwn m station p := by
    refine and_congr (hheaded p) Iff.rfl |>.trans (and_congr_right fun hh => ?_)
    rw [hentry hh.1 hh.2.1]
  have hjudged (p : Nat) : judged p ↔ (p, scanEntry m p) ∈ judgedHeaders station (scanTable m) := by
    rw [mem_judgedHeaders]
    refine (and_congr (hheaded p) (or_congr (hown p) (forall_congr' fun q => not_congr (hown q)))).trans ?_
    exact (and_iff_right rfl).symm
  refine ⟨honly.1, honly.pins_eq, honly.2 .world (by decide), by rw [hstart]; rfl, by rw [hstart]; rfl, by rw [hstart]; rfl,
    by rw [hstart]; rfl, by rw [hstart]; rfl, honly.channels_eq, honly.meter_eq, honly.2 .twist (by decide),
    honly.2 .sampler (by decide), honly.knot_eq, honly.2 .line (by decide), honly.2 .peers (by decide), honly.prot_eq,
    by unfold State.records; rw [hcoil]; rfl, by rw [hcoil]; rfl, by rw [hstore]; rfl, by rw [hstore]; rfl, by rw [hstore]; rfl,
    by rw [hstore]; rfl, by rw [hstore]; rfl, by rw [hstore]; rfl, by rw [hstore]; rfl, by rw [hcoil]; rfl, by rw [hcoil]; rfl,
    by rw [hcoil]; rfl, by rw [hcoil]; rfl, fun h => hmemory.trans (tornMemory_of_none torn h), ?_, by rw [hstart, himage]; rfl,
    ?_, ?_, by rw [htable, scanTable_length], ?_, ?_, ?_, ?_, ?_, ?_⟩
  · intro f hwf hf clears found
    have hcls {p : Nat} (hlo : 16 ≤ p) (hhi : p ≤ 255) : t.sectorClass p = classify m p := by rw [hclass hlo hhi, scanEntry_cls]
    refine ⟨fun hstep => ?_, fun i j source hop hstep => ?_, fun n parts source hop hstep => ?_,
      fun p hlo hhi hstep hc => ?_, fun p img n hlo hhi hop hstep hlen => ?_, fun p r hlo hhi hop hstep hr hu ha hlen hopen => ?_,
      fun b hlo hhi hstep hc => ?_, fun img source hop => ?_⟩
    · rw [hmemory]
      exact tornMemory_nothing torn hf hstep
    · exact hmemory.trans (tornMemory_work torn hf hstep (.inl ⟨i, j, source, hop⟩))
    · exact hmemory.trans (tornMemory_work torn hf hstep (.inr ⟨n, parts, source, hop⟩))
    · obtain ⟨hout, hclear, hleft⟩ := tearVoid_facts torn hwf p
      rw [← tornMemory_void torn hf hc hstep, sectorBase_eq] at hout hclear hleft
      refine ⟨hkeeps fun x hx => hout x (by omega), ?_, ?_⟩
      · simp only [clears]
        rw [hmemory]
        exact hclear
      · rw [hmemory, hcls hlo hhi]
        exact hleft
    · have hm := tornMemory_program torn hf (fun _ _ h => nomatch hop.symm.trans h) hstep
        (show programmed f.op p s = (sectorBase p, img) by rw [hop]; rfl)
      have hleft := tearSector_header torn hwf p hlen
      have hout (x : Nat) := read_tearSector_out torn s.memory p (sectorBase p) img (x := x)
      rw [← hm, sectorBase_eq] at hleft hout
      refine ⟨hkeeps fun x hx => hout x (by omega), ?_⟩
      rw [hmemory, hcls hlo hhi, hentry hlo hhi]
      exact hleft
    · have hm := tornMemory_program torn hf (fun _ _ h => nomatch hop.symm.trans h) hstep
        (show programmed f.op p s = (sectorBase p + 32, bodyBytes r) by rw [hop]; exact programmed_keep hr hu ha)
      have hleft := tearSector_body torn hwf hlen (bodyBytes_last hlen) hopen
      have hout (x : Nat) := read_tearSector_out torn s.memory p (sectorBase p + 32) (bodyBytes r) (x := x)
      rw [← hm] at hleft hout
      rw [sectorBase_eq] at hout
      refine ⟨hkeeps fun x hx => hout x (by omega), ?_⟩
      rw [hcls hlo hhi]
      exact hleft
    · obtain ⟨hout, hfound⟩ := tearErase_facts hwf torn b
      rw [← tornMemory_erase torn hf hc hstep] at hout hfound
      refine ⟨hkeeps hout, fun i hi => ?_⟩
      simp only [found]
      rw [hclass (by omega) (by omega), hentry (by omega) (by omega)]
      exact hfound i hi
    · refine ⟨?_, fun hstep hlen => hkeeps fun x hx => tornMemory_commit_out torn hwf hf hop hstep hlen (by omega)⟩
      rw [hstart]
      exact tornMemory_commit_invalid torn hf hop
  · intro hv
    rw [himage] at hv ⊢
    rw [honly.settings_eq, hwrap, hcoil]
    exact startedNode_settings station commission m s (settingsInUse_of_valid hv)
  · intro hv
    rw [himage] at hv
    obtain ⟨hsettings, hw, _⟩ := startedNode_settings station commission m s (settingsInUse_of_invalid hv)
    rw [honly.settings_eq, hwrap]
    exact ⟨hsettings, hw⟩
  · intro p hlo hhi
    rw [hentry hlo hhi, hmemory]
  · intro hnone
    rw [hpointer, scanPointer_of_none m station fun p hp => hnone p ((hheaded p).2 hp)]
  · intro hnone
    rw [hnext, scanNext_of_none m station fun p hp => hnone p ((hown p).2 hp)]
  · intro p ⟨hp, hlast⟩
    have hring {q : Nat} (hq : judged q) : 16 ≤ q ∧ q ≤ 255 := ⟨hq.1.1, hq.1.2.1⟩
    have hranks {q : Nat} (hq : judged q) : Outranks (q, scanEntry m q) (p, scanEntry m p) := by
      have h := hlast q hq
      rw [hentry (hring hq).1 (hring hq).2, hentry (hring hp).1 (hring hp).2, hclass (hring hq).1 (hring hq).2,
        hclass (hring hp).1 (hring hp).2] at h
      exact h
    refine ⟨?_, fun ho => ?_⟩
    · rw [hpointer, scanPointer_of_last m station ((hjudged p).1 hp) fun y hy => ?_]
      · rfl
      · obtain ⟨he, _⟩ := (mem_judgedHeaders m station).1 hy
        have hy' : (y.1, scanEntry m y.1) = y := Prod.ext rfl he.symm
        rw [← hy'] at hy ⊢
        exact hranks ((hjudged y.1).2 hy)
    · rw [hnext, scanNext_of_top m station ((hown p).1 ho) fun q hq => ?_, hentry (hring hp).1 (hring hp).2]
      · rfl
      · have hq' := (hown q).2 hq
        exact (hranks (q := q) ⟨hq'.1, .inl hq'⟩).elim Nat.le_of_lt fun h => h.1.le
  · intro hnone
    have hnil : openSectors s1.store.table = [] := openSectors_eq_nil m fun p hlo hhi => by
      rw [← hclass hlo hhi]
      exact hnone p hlo hhi
    rw [← ht, beginScan_of_nil s1 hnil]
    exact ⟨rfl, rfl⟩
  · intro p hlo hhi hc hfirst
    obtain ⟨rest, hcons⟩ := openSectors_eq_cons m hlo hhi (by rw [← hclass hlo hhi]; exact hc) fun q hq hqp => by
      rw [← hclass hq (by omega)]
      exact hfirst q hq hqp
    rw [← ht, beginScan_of_cons s1 hcons]
    exact ⟨rfl, _, rfl, rfl⟩

end Sys2Proof.Machine
end

section
/-! SUPPORT. The metering unit's rules (chapter 2): one flag, one count with its residue and its limits, a per-mille deviation, the slip
and the drift check; and the claims about flag requests, a count forward and back, and the two checks. -/

-- One declaration at a time, as in the frames: side by side these proofs ask for more threads than the memory limit allows.
set_option Elab.async false

namespace Sys2Proof.Machine

/-! ### Events given under a condition -/

theorem State.emit_nil (s : State) : s.emit [] = s := by simp [State.emit]

theorem ite_emit {c : Prop} [Decidable c] (s : State) (l : List Instr) :
    (if c then s.emit l else s) = s.emit (if c then l else []) := by
  split
  · rfl
  · exact s.emit_nil.symm

/-! ### One flag (R35, R37) -/

theorem setFlag_meter (flag : ArithFlag) (origin : Origin) (s : State) : (setFlag flag origin s).meter =
    { s.meter with
      flags := s.meter.flags.set flag
      origin := if s.meter.flags.any = true then s.meter.origin else origin } := by
  unfold setFlag
  cases h : s.meter.flags.any <;> cases s.settings.arithEscalate <;> simp

theorem setFlag_due (flag : ArithFlag) (origin : Origin) (s : State) : (setFlag flag origin s).due = s.due ++
    if s.meter.flags.any = false ∧ s.settings.arithEscalate = true then [.raiseCause .arith] else [] := by
  simpa [setFlagIf] using setFlagIf_due s (some flag) origin

theorem setFlag_due_subset (flag : ArithFlag) (origin : Origin) (s : State) : s.due ⊆ (setFlag flag origin s).due := by
  rw [setFlag_due]
  exact List.subset_append_left _ _

/-- Settles O20: the request sets its flag in its own event. -/
theorem flagRequestKeepsTheFirstOrigin : Obligations.FlagRequestKeepsTheFirstOrigin := by
  intro flag origin s hb
  have hx : exec (.flagSetRequest flag origin) s = .next (setFlag flag origin (s.take (.flagSetRequest flag origin))) :=
    congrArg Host.Outcome.next (if_pos hb)
  refine ⟨_, hx, (take_only s _).after (setFlag_only _ _ _) (by decide), ?_, ?_, ?_, ?_, ?_⟩
  · rw [setFlag_meter]
    exact ArithFlags.any_set _ _
  · rw [setFlag_meter]
    rfl
  · rw [setFlag_meter]
    rfl
  · rw [setFlag_meter]
    rfl
  · exact setFlag_due _ _ _

/-! ### One count (R23, R24) -/

section
variable (g : EncoderSettings) (k : Int) (e : EncoderRecord)

/-- r + k × N, which is divided by D. -/
def scaledCount : Int := e.residue + k * g.n

/-- Where a count would move L to. -/
def countedLength : Int := e.length + (scaledCount g k e).fdiv g.d

/-- What the division leaves of it. -/
def leftResidue : Nat := (scaledCount g k e - (scaledCount g k e).fdiv g.d * g.d).toNat

variable {g k e}

theorem leftResidue_spec (hd : 0 < g.d) :
    (leftResidue g k e : Int) = scaledCount g k e - (scaledCount g k e).fdiv g.d * g.d ∧ leftResidue g k e < g.d := by
  have hmod : scaledCount g k e - (scaledCount g k e).fdiv g.d * g.d = (scaledCount g k e).fmod g.d := by
    rw [Int.fmod_def, Int.mul_comm]
  have h0 : 0 ≤ (scaledCount g k e).fmod g.d := Int.fmod_nonneg_of_pos _ (by omega)
  have h1 : (scaledCount g k e).fmod g.d < g.d := Int.fmod_lt_of_pos _ (by omega)
  rw [leftResidue, hmod]
  omega

theorem accumulate_of_above (h : lengthTop < countedLength g k e) : accumulate g k e =
    ({ e with length := lengthTop, residue := leftResidue g k e, limitReached := true }, some .ovf) := if_pos h

theorem accumulate_of_below (h : countedLength g k e < lengthBottom) : accumulate g k e =
    ({ e with length := lengthBottom, residue := leftResidue g k e, limitReached := true }, some .unf) :=
  (if_neg (Int.not_lt.2 (h.le.trans (by decide : lengthBottom ≤ lengthTop)))).trans (if_pos h)

theorem accumulate_of_within (hl : lengthBottom ≤ countedLength g k e) (hu : countedLength g k e ≤ lengthTop) :
    accumulate g k e = ({ e with length := countedLength g k e, residue := leftResidue g k e }, none) :=
  (if_neg (Int.not_lt.2 hu)).trans (if_neg (Int.not_lt.2 hl))

end

/-- A count moves L by no more than N + 1 µm for a residue below D. -/
theorem fdiv_bounds {g : EncoderSettings} {e : EncoderRecord} (hd : 0 < g.d) (hr : e.residue < g.d) :
    0 ≤ (scaledCount g 1 e).fdiv g.d ∧ (scaledCount g 1 e).fdiv g.d ≤ g.n + 1 := by
  have hs : scaledCount g 1 e = ((e.residue + g.n : Nat) : Int) := by
    unfold scaledCount
    push_cast
    ring
  rw [hs, Int.fdiv_eq_ediv_of_nonneg _ (by omega)]
  have hq : (e.residue + g.n) / g.d ≤ g.n + 1 := Nat.div_le_of_le_mul (by nlinarith)
  exact ⟨Int.natCast_nonneg _, by exact_mod_cast hq⟩

/-- Settles O17: the quotient of the way back is that of the way forward, negated. -/
theorem countForwardAndBackCancel : Obligations.CountForwardAndBackCancel := by
  intro g e hd hn hr hlo hhi
  obtain ⟨hq0, hq1⟩ := fdiv_bounds hd hr
  obtain ⟨hres, _⟩ := leftResidue_spec (k := 1) (e := e) hd
  have hforth := accumulate_of_within (g := g) (k := 1) (e := e)
    (by unfold countedLength lengthBottom; omega) (by unfold countedLength lengthTop; omega)
  rw [hforth]
  refine ⟨rfl, ?_⟩
  set e1 : EncoderRecord := { e with length := countedLength g 1 e, residue := leftResidue g 1 e } with he1
  have hback : scaledCount g (-1) e1 = e.residue + -(scaledCount g 1 e).fdiv g.d * g.d := by
    change (leftResidue g 1 e : Int) + -1 * g.n = _
    rw [hres]
    unfold scaledCount
    ring
  have hquot : (scaledCount g (-1) e1).fdiv g.d = -(scaledCount g 1 e).fdiv g.d := by
    rw [hback, Int.add_mul_fdiv_right _ _ (by omega), Int.fdiv_eq_ediv_of_nonneg _ (by omega),
      Int.ediv_eq_zero_of_lt (by omega) (by omega), Int.zero_add]
  have hlength : countedLength g (-1) e1 = e.length := by
    change e.length + (scaledCount g 1 e).fdiv g.d + _ = _
    rw [hquot]
    omega
  have hresidue : leftResidue g (-1) e1 = e.residue := by
    rw [leftResidue, hquot, hback]
    omega
  rw [accumulate_of_within (by rw [hlength]; unfold lengthBottom; omega) (by rw [hlength]; unfold lengthTop; omega), hlength,
    hresidue]

/-! ### Slip and drift (R31 to R34) -/

theorem perMille_eq {reference : Int} (h : 0 < reference) (actual : Int) :
    (perMille actual reference : Int) = |actual - reference| * 1000 / reference := by
  unfold perMille
  push_cast
  rw [abs_of_pos h]

/-- A ‰ value that is held at 65,535, and its flag. -/
def overFlag (origin : Origin) (value : Nat) (s : State) : State := if 65535 < value then setFlag .rng origin s else s

section
variable (origin : Origin) (value : Nat) (s : State)

theorem overFlag_meter_frame :
    { (overFlag origin value s).meter with flags := s.meter.flags, origin := s.meter.origin } = s.meter := by
  unfold overFlag
  split
  · rw [setFlag_meter]
  · rfl

variable {origin value s}

theorem overFlag_flagged (h : 65535 < value) : Flagged .rng origin s (overFlag origin value s) := by
  rw [overFlag, if_pos h]
  exact setFlag_flagged s _ _

theorem overFlag_of_le (h : value ≤ 65535) : overFlag origin value s = s := if_neg (Nat.not_lt.2 h)

end

/-- The slip that a check of the node would find (R32). -/
def State.slip (s : State) : Nat := slipOf (s.meter.encA.length - s.meter.slipA) (s.meter.encB.length - s.meter.slipB)

theorem State.slip_eq {s : State} (h : 0 < s.meter.encA.length - s.meter.slipA) : (s.slip : Int) =
    |(s.meter.encA.length - s.meter.slipA) - (s.meter.encB.length - s.meter.slipB)| * 1000 /
      (s.meter.encA.length - s.meter.slipA) := by
  rw [State.slip, slipOf, perMille_eq h, abs_sub_comm]

theorem checkSlip_eq (s : State) : checkSlip s =
    let t := overFlag .slip s.slip s
    (t.withMeter { t.meter with
      slipA := s.meter.encA.length
      slipB := s.meter.encB.length
      lastSlip := min s.slip 65535
      slipRun := if s.settings.slipLimit < min s.slip 65535 ∧ s.meter.slipRun = 0 then 1 else 0 }).emit
        (if s.settings.slipLimit < min s.slip 65535 ∧ s.meter.slipRun ≠ 0 then [.raiseCause .slip] else []) := by
  unfold checkSlip
  simp only [Bool.and_eq_true, decide_eq_true_eq, beq_iff_eq, bne_iff_ne, ite_emit]
  rfl

theorem checkSlip_flagged {s : State} (h : 65535 < s.slip) : Flagged .rng .slip s (checkSlip s) := by
  refine (overFlag_flagged h).kept ?_ ?_ fun e he => ?_
  · rw [checkSlip_eq]
    rfl
  · rw [checkSlip_eq]
    rfl
  · rw [checkSlip_eq]
    exact List.mem_append_left _ he

theorem checkSlip_unflagged {s : State} (h : s.slip ≤ 65535) : Unflagged s (checkSlip s) := by
  rw [checkSlip_eq, overFlag_of_le h]
  exact ⟨rfl, rfl⟩


theorem checkSlip_effect {s : State} (h : 0 < s.meter.encA.length - s.meter.slipA) :
    let a := s.meter.encA.length - s.meter.slipA
    let b := s.meter.encB.length - s.meter.slipB
    let m := (checkSlip s).meter
    (65535 < |a - b| * 1000 / a → Flagged .rng .slip s (checkSlip s)) ∧
    (|a - b| * 1000 / a ≤ 65535 → Unflagged s (checkSlip s)) ∧
    (m.lastSlip : Int) = min (|a - b| * 1000 / a) 65535 ∧ m.slipA = s.meter.encA.length ∧ m.slipB = s.meter.encB.length ∧
    (m.lastSlip ≤ s.settings.slipLimit → m.slipRun = 0) ∧
    (s.settings.slipLimit < m.lastSlip → s.meter.slipRun = 0 → m.slipRun = 1) ∧
    (s.settings.slipLimit < m.lastSlip → s.meter.slipRun ≠ 0 → m.slipRun = 0 ∧ .raiseCause .slip ∈ (checkSlip s).due) := by
  intro a b m
  have hm : m = { (overFlag .slip s.slip s).meter with
      slipA := s.meter.encA.length
      slipB := s.meter.encB.length
      lastSlip := min s.slip 65535
      slipRun := if s.settings.slipLimit < min s.slip 65535 ∧ s.meter.slipRun = 0 then 1 else 0 } :=
    congrArg State.meter (checkSlip_eq s)
  rw [hm, ← State.slip_eq h]
  refine ⟨fun hs => checkSlip_flagged (by omega), fun hs => checkSlip_unflagged (by omega), by push_cast; rfl, rfl, rfl,
    fun hl => if_neg fun hc => absurd hc.1 (Nat.not_lt.2 hl), fun hl h0 => if_pos ⟨hl, h0⟩,
    fun hl h0 => ⟨if_neg fun hc => h0 hc.2, ?_⟩⟩
  rw [checkSlip_eq]
  exact List.mem_append_right _ (by rw [if_pos ⟨hl, h0⟩]; exact List.mem_singleton_self _)

section
variable {length : BitVec 32} {peer : Nat} {own : Int} {s : State}

/-- The drift that a check of a pace part would find (R34). -/
def State.drift (s : State) (length : BitVec 32) (peer : Nat) (own : Int) : Nat :=
  perMille ((s.lineLength - own).tdiv 1000) (expectedAdvance ((length.toNat : Int) - peer) s.settings.takeUpRatio)

/-- The drift run before it is judged (R34). -/
def driftRunAfter (s : State) (drift : Nat) : Nat := if s.settings.driftLimit < min drift 65535 then s.meter.driftRun + 1 else 0

theorem checkDrift_of_short (h : expectedAdvance ((length.toNat : Int) - peer) s.settings.takeUpRatio < 100) :
    checkDrift length peer own s = s := if_pos h

theorem checkDrift_of_long (h : 100 ≤ expectedAdvance ((length.toNat : Int) - peer) s.settings.takeUpRatio) :
    checkDrift length peer own s =
      let drift := s.drift length peer own
      let run := driftRunAfter s drift
      let t := overFlag .drift drift s
      (t.withMeter { t.meter with lastDrift := min drift 65535, driftRun := if 3 ≤ run then 0 else run }).emit
        (if 3 ≤ run then [.raiseCause .drift] else []) := by
  have hrun (o : Origin) (n : Nat) : (overFlag o n s).meter.driftRun = s.meter.driftRun := by
    unfold overFlag
    split
    · rw [setFlag_meter]
    · rfl
  rw [← ite_emit]
  unfold driftRunAfter
  rw [← hrun .drift (s.drift length peer own)]
  exact if_neg (Int.not_lt.2 h)

/-- A drift check of an expected advance of 100 mm or more (R34, R35). -/
theorem checkDrift_effect (h : 100 ≤ expectedAdvance ((length.toNat : Int) - peer) s.settings.takeUpRatio) :
    let t := checkDrift length peer own s
    let drift := s.drift length peer own
    t.meter.lastDrift = min drift 65535 ∧ (65535 < drift → Flagged .rng .drift s t) ∧ (drift ≤ 65535 → Unflagged s t) ∧
      (min drift 65535 ≤ s.settings.driftLimit → t.meter.driftRun = 0) ∧
      (s.settings.driftLimit < min drift 65535 → s.meter.driftRun < 2 → t.meter.driftRun = s.meter.driftRun + 1) ∧
      (s.settings.driftLimit < min drift 65535 → s.meter.driftRun = 2 → t.meter.driftRun = 0 ∧ .raiseCause .drift ∈ t.due) := by
  intro t drift
  have ht : t = _ := checkDrift_of_long h
  have hrun : t.meter.driftRun = if 3 ≤ driftRunAfter s drift then 0 else driftRunAfter s drift := by rw [ht]; rfl
  have hof (hl : s.settings.driftLimit < min drift 65535) : driftRunAfter s drift = s.meter.driftRun + 1 := if_pos hl
  refine ⟨by rw [ht]; rfl, fun ho => ?_, fun ho => ?_, fun hl => ?_, fun hl h2 => ?_, fun hl h2 => ⟨?_, ?_⟩⟩
  · rw [ht]
    exact (overFlag_flagged ho).kept rfl rfl fun e he => List.mem_append_left _ he
  · rw [ht]
    dsimp only
    rw [overFlag_of_le ho]
    exact ⟨rfl, rfl⟩
  · have h0 : driftRunAfter s drift = 0 := if_neg (Nat.not_lt.2 hl)
    rw [hrun, h0]
    rfl
  · rw [hrun, hof hl, if_neg (by omega)]
  · rw [hrun, hof hl, if_pos (by omega)]
  · have h3 : 3 ≤ driftRunAfter s drift := by rw [hof hl]; omega
    rw [ht]
    exact List.mem_append_right _ (by rw [if_pos h3]; exact List.mem_singleton_self _)

/-- The node as a pace part at the metering unit leaves it (R33): the part becomes the reference, after a check of the one before it. -/
def takeDriftPart (length : BitVec 32) (s s1 : State) : State :=
  s1.withMeter { s1.meter with driftReference := some (length.toNat, s.lineLength) }

section
variable (hb : s.begun = true) (hd : s.settings.driftCheck = true) (hp : s.settings.paceSource ≠ 0)
include hb hd hp

theorem exec_pacePartToMetering_none (hr : s.meter.driftReference = none) (length : BitVec 32) :
    exec (.pacePartToMetering length) s = .next (takeDriftPart length s (s.take (.pacePartToMetering length))) := by
  change execPacePartToMetering length s = _
  simp [execPacePartToMetering, takeDriftPart, hb, hd, hp, hr]

theorem exec_pacePartToMetering_some (hr : s.meter.driftReference = some (peer, own)) (length : BitVec 32) :
    exec (.pacePartToMetering length) s =
      .next (takeDriftPart length s (checkDrift length peer own (s.take (.pacePartToMetering length)))) := by
  change execPacePartToMetering length s = _
  simp [execPacePartToMetering, takeDriftPart, hb, hd, hp, hr]

end

end

/-- Settles O19: the slip check, and the drift check by what stands as the reference. -/
theorem slipAndDriftAreChecked : Obligations.SlipAndDriftAreChecked := by
  refine ⟨fun s h => checkSlip_effect h, fun length s hb hd hp => ?_⟩
  let s0 := s.take (.pacePartToMetering length)
  have h0 : Only [.due, .meter] s s0 := (take_only s _).grow (by decide)
  cases hr : s.meter.driftReference with
  | none =>
    refine ⟨_, exec_pacePartToMetering_none hb hd hp hr length, h0.step (withMeter_only _ _) (by decide), rfl, fun _ => rfl, ?_⟩
    rintro peer own ⟨⟩
  | some reference =>
    obtain ⟨peer, own⟩ := reference
    refine ⟨_, exec_pacePartToMetering_some hb hd hp hr length,
      (h0.trans (checkDrift_only _ _ _ _)).step (withMeter_only _ _) (by decide), rfl, nofun, ?_⟩
    rintro _ _ ⟨⟩ expected
    refine ⟨fun hs => ?_, fun hs => ?_⟩
    · have hc : checkDrift length peer own s0 = s0 := checkDrift_of_short hs
      change (takeDriftPart length s (checkDrift length peer own s0)).meter = _
      rw [hc]
      rfl
    · intro drift
      obtain ⟨hlast, hflag, hno, hrun0, hrun1, hrun2⟩ := checkDrift_effect (s := s0) (length := length) (peer := peer) (own := own) hs
      have hdrift : ((s0.drift length peer own : Nat) : Int) = drift := perMille_eq (Int.lt_of_lt_of_le (by decide) hs) _
      change (((takeDriftPart length s (checkDrift length peer own s0)).meter.lastDrift : Nat) : Int) = _ ∧ _
      dsimp only [takeDriftPart, State.withMeter_meter]
      rw [hlast, ← hdrift]
      refine ⟨by push_cast; rfl, fun ho => ?_, fun ho => ?_, hrun0, hrun1, hrun2⟩
      · exact ((hflag (by exact_mod_cast ho)).before rfl rfl).kept rfl rfl fun e he => he
      · exact hno (by exact_mod_cast ho)

end Sys2Proof.Machine
end

section
/-! SUPPORT. The transmitter's rules (R102, R105, R106): an attempt as it begins, that handing a frame over takes no event back, and
what it leaves of the metering unit. -/

-- One declaration at a time, as in the frames: side by side these proofs ask for more threads than the memory limit allows.
set_option Elab.async false

namespace Sys2Proof.Machine

/-! ### Parts that a frame keeps -/

section
variable {l : List Part} {s t : State} (h : Only l s t)
include h

theorem Only.due_eq (hl : Part.due ∉ l := by decide) : t.due = s.due := h.2 .due hl

theorem Only.line_eq (hl : Part.line ∉ l := by decide) : t.line = s.line := h.2 .line hl

theorem Only.coil_eq (hl : Part.coil ∉ l := by decide) : t.coil = s.coil := h.2 .coil hl

theorem Only.startRec_eq (hl : Part.startRec ∉ l := by decide) : t.startRec = s.startRec := h.2 .startRec hl

theorem Only.lineLength_eq (hm : Part.meter ∉ l := by decide) (hg : Part.settings ∉ l := by decide) :
    t.lineLength = s.lineLength := by
  unfold State.lineLength
  rw [h.meter_eq hm, h.settings_eq hg]

end

/-! ### An attempt as it begins (R106) -/

/-- The line as an attempt of its head frame begins, before the bytes are formed. -/
def FloorLine.attempt (l : FloorLine) (f : QueuedFrame) (rest : List QueuedFrame) : FloorLine :=
  { l.startBit with
    tx := .sending
    counter := if f.sequence.isSome then l.counter else l.counter + 1
    queue := { f with sequence := some (f.sequence.getD l.counter), onLine := true } :: rest }

/-- The bytes of an attempt, formed from the state that it begins in. -/
def State.attemptBytes (s : State) (f : QueuedFrame) (rest : List QueuedFrame) : List Byte :=
  frameBytes (s.withLine (s.line.attempt f rest)) f.content (f.sequence.getD s.line.counter)

/-- The node with an attempt of its head frame on the line. -/
def State.onLine (s : State) (f : QueuedFrame) (rest : List QueuedFrame) : State :=
  s.withLine { s.line.attempt f rest with
    sending := s.attemptBytes f rest
    sendLeft := some ((s.attemptBytes f rest).length * 40) }

section
variable {s : State} {f : QueuedFrame} {rest : List QueuedFrame}

theorem beginAttempt_nil (h : s.line.queue = []) : beginAttempt s = s := by
  unfold beginAttempt
  rw [h]

theorem beginAttempt_cons (h : s.line.queue = f :: rest) : beginAttempt s =
    if f.content = .presence ∧ s.publishes = true then convertFlag s.lineLength (s.onLine f rest) else s.onLine f rest := by
  unfold beginAttempt
  rw [h]
  rfl

end

/-! ### No event is taken back -/

theorem convertFlag_due_subset (x : Int) (s : State) : s.due ⊆ (convertFlag x s).due := by
  unfold convertFlag
  split
  · exact setFlag_due_subset _ _ s
  · exact List.Subset.refl _

theorem beginAttempt_due_subset (s : State) : s.due ⊆ (beginAttempt s).due := by
  cases hq : s.line.queue with
  | nil => rw [beginAttempt_nil hq]; exact List.Subset.refl _
  | cons f rest =>
    rw [beginAttempt_cons hq]
    split
    · exact convertFlag_due_subset s.lineLength (s.onLine f rest)
    · exact List.Subset.refl _

theorem pollLine_due_subset (s : State) : s.due ⊆ (pollLine s).due := by
  unfold pollLine
  split
  · split
    · exact beginAttempt_due_subset s
    · exact List.Subset.refl _
  · split
    · exact beginAttempt_due_subset s
    · exact List.Subset.refl _
  · exact List.Subset.refl _
  · exact List.Subset.refl _

theorem joinHalt_due_subset (c : FrameContent) (s : State) : s.due ⊆ (joinHalt c s).due := by
  unfold joinHalt
  dsimp only
  split
  · exact List.Subset.refl _
  · split
    · exact List.Subset.refl _
    · exact List.subset_append_left _ _

theorem sendFrame_due_subset (c : FrameContent) (s : State) : s.due ⊆ (sendFrame c s).due := by
  unfold sendFrame
  refine List.Subset.trans ?_ (pollLine_due_subset _)
  split
  · exact joinHalt_due_subset c s
  · rw [(joinRoutine_only s c).due_eq]
    exact List.Subset.refl _

/-! ### What a conversion and a frame leave of the metering unit -/

/-- Nothing of the metering unit but the arithmetic status differs. -/
def MeterKept (s t : State) : Prop := { t.meter with flags := s.meter.flags, origin := s.meter.origin } = s.meter

section
variable {s t u : State}

theorem MeterKept.of_eq (h : t.meter = s.meter) : MeterKept s t := by rw [MeterKept, h]

theorem MeterKept.trans (h : MeterKept s t) (k : MeterKept t u) : MeterKept s u := by
  unfold MeterKept at *
  rw [← h, ← k]

theorem MeterKept.meter (h : MeterKept s t) :
    ∃ flags origin, t.meter = { s.meter with flags := flags, origin := origin } := by
  unfold MeterKept at h
  exact ⟨t.meter.flags, t.meter.origin, by rw [← h]⟩

theorem MeterKept.atRest (h : MeterKept s t) : t.meter.atRest = s.meter.atRest := by
  obtain ⟨flags, origin, hm⟩ := h.meter
  rw [hm]

theorem setFlag_meterKept (flag : ArithFlag) (origin : Origin) (s : State) : MeterKept s (setFlag flag origin s) := by
  rw [MeterKept, setFlag_meter]

theorem clearStatus_meterKept (s : State) : MeterKept s (clearStatus s) := rfl

theorem convertFlag_meterKept (x : Int) (s : State) : MeterKept s (convertFlag x s) := by
  unfold convertFlag
  split
  · exact setFlag_meterKept _ _ s
  · exact rfl

theorem beginAttempt_meterKept (s : State) : MeterKept s (beginAttempt s) := by
  cases hq : s.line.queue with
  | nil => rw [beginAttempt_nil hq]; exact rfl
  | cons f rest =>
    rw [beginAttempt_cons hq]
    split
    · exact convertFlag_meterKept s.lineLength (s.onLine f rest)
    · exact rfl

theorem pollLine_meterKept (s : State) : MeterKept s (pollLine s) := by
  unfold pollLine
  split
  · split
    · exact beginAttempt_meterKept s
    · exact rfl
  · split
    · exact beginAttempt_meterKept s
    · exact rfl
  · exact rfl
  · exact rfl

theorem sendFrame_meterKept (c : FrameContent) (s : State) : MeterKept s (sendFrame c s) := by
  unfold sendFrame
  refine MeterKept.trans (.of_eq ?_) (pollLine_meterKept _)
  split
  · exact joinHalt_meter c s
  · exact joinRoutine_meter c s

end

end Sys2Proof.Machine
end

section
/-! SUPPORT. The protection unit's rules (7.2 to 7.5): the lamp's freshness, a change of permit state, the decision in HALTING, a HALT
issued by the episode, a reason that appears; and the claims about a speed evaluation's decision and about raised causes. -/

-- One declaration at a time, as in the frames: side by side these proofs ask for more threads than the memory limit allows.
set_option Elab.async false

namespace Sys2Proof.Machine

/-! ### The lamp and the permit state (R114, R120) -/

/-- The lamp's pattern decided afresh changes nothing of the protection record but the lamp. -/
theorem refreshAlarm_prot (s : State) : ∃ lamp, (refreshAlarm s).prot = { s.prot with lamp := lamp } := by
  unfold refreshAlarm
  dsimp only
  split
  · exact ⟨_, rfl⟩
  · split <;> exact ⟨_, rfl⟩

theorem refreshAlarm_due (s : State) : (refreshAlarm s).due = s.due := (refreshAlarm_only s).due_eq

theorem setPermit_due (p : Permit) (s : State) : (setPermit p s).due = s.due ++
    ((if p = .running then entryNotices else if s.prot.permit = .running then exitNotices else []) ++ [.permitStateNotice p]) := rfl

theorem setPermit_extends (p : Permit) (s : State) : Extends [.due, .prot] s (setPermit p s) :=
  ⟨setPermit_only s p, List.subset_append_left _ _⟩

theorem haltingDecision_prot (s : State) : (haltingDecision s).prot = { s.prot with
    haltLeft := none
    permit := decisionOf s
    eligible := if decisionOf s = .standby then false else s.prot.eligible } := rfl

theorem haltingDecision_extends (s : State) : Extends [.due, .prot] s (haltingDecision s) :=
  ⟨haltingDecision_only s, List.subset_append_left _ _⟩

theorem State.hasReason_iff {s : State} : s.hasReason = true ↔ s.prot.causes ≠ [] ∨ s.prot.table ≠ [] := by
  simp [State.hasReason]

section
variable {s : State}

theorem decisionOf_of_reason (h : s.hasReason = true) : decisionOf s = .halted := if_pos h

theorem decisionOf_of_ineligible (h : ¬ s.hasReason = true) (he : s.prot.eligible = false) : decisionOf s = .standby := by
  simp [decisionOf, h, he]

theorem decisionOf_of_eligible (h : ¬ s.hasReason = true) (he : s.prot.eligible = true) :
    decisionOf s = if s.prot.coilHold = true then .halted else .running := by
  simp [decisionOf, h, he]

end

/-! ### A speed evaluation (R26 to R28, R122) -/

/-- The metering unit after a speed evaluation, but for its flag. -/
def State.evaluated (s : State) : Metering :=
  let result := speedResult s.lineLength s.meter.keptLength
  let run := nextZeroRun result s.meter.zeroRun
  { s.meter with
    keptLength := s.lineLength
    speed := min result.toNat 65535
    reverse := decide (result < 0)
    zeroRun := run
    atRest := result == 0 && (s.meter.atRest || run == 3)
    evaluationLeft := some evaluationPeriod }

/-- What an evaluation gives, by the mean speed d that it finds. -/
theorem evaluated_effect (s : State) :
    let d := speedResult s.lineLength s.meter.keptLength
    let m := s.evaluated
    (d < 0 → m.speed = 0 ∧ m.reverse = true) ∧
      (0 ≤ d → d ≤ 65535 → (m.speed : Int) = d ∧ m.reverse = false) ∧ (65535 < d → m.speed = 65535 ∧ m.reverse = false) ∧
      (d ≠ 0 → m.zeroRun = 0 ∧ m.atRest = false) ∧
      (d = 0 → s.meter.zeroRun < 2 → m.zeroRun = s.meter.zeroRun + 1 ∧ m.atRest = s.meter.atRest) ∧
      (d = 0 → s.meter.zeroRun = 2 ∨ s.meter.zeroRun = 3 → m.zeroRun = 3 ∧ m.atRest = true) := by
  intro d m
  have hspeed : m.speed = min d.toNat 65535 := rfl
  have hrev : m.reverse = decide (d < 0) := rfl
  have hrun : m.zeroRun = nextZeroRun d s.meter.zeroRun := rfl
  have hrest : m.atRest = (d == 0 && (s.meter.atRest || m.zeroRun == 3)) := rfl
  refine ⟨fun h => ⟨by omega, by simpa [hrev] using h⟩, fun h0 h1 => ⟨by omega, by simpa [hrev] using h0⟩,
    fun h => ⟨by omega, by simp only [hrev, decide_eq_false_iff_not]; omega⟩, fun h => ⟨?_, ?_⟩, fun h hlt => ?_, fun h hz => ?_⟩
  · rw [hrun, nextZeroRun, if_neg h]
  · simp [hrest, h]
  · have hn : m.zeroRun = s.meter.zeroRun + 1 := by rw [hrun, nextZeroRun, if_pos h, holdInc, if_pos (by omega)]
    have h3 : s.meter.zeroRun ≠ 2 := by omega
    exact ⟨hn, by simp [hrest, h, hn, h3]⟩
  · have hn : m.zeroRun = 3 := by
      rw [hrun, nextZeroRun, if_pos h]
      rcases hz with hz | hz <;> rw [hz] <;> rfl
    exact ⟨hn, by simp [hrest, h, hn]⟩

/-- The node after a speed evaluation, before the decision that at rest brings in HALTING. -/
def State.speedTaken (s : State) : State :=
  let s1 := s.withMeter s.evaluated
  if 65535 < speedResult s.lineLength s.meter.keptLength then setFlag .rng .speed s1 else s1

theorem speedTaken_only (s : State) : Only [.due, .meter] s s.speedTaken :=
  .ite ((withMeter_only s _).after (setFlag_only _ _ _)) (withMeter_only s _).grow

theorem speedTaken_of_fast {s : State} (h : 65535 < speedResult s.lineLength s.meter.keptLength) :
    s.speedTaken.meter = { s.evaluated with
      flags := s.meter.flags.set .rng
      origin := if s.meter.flags.any = true then s.meter.origin else .speed } := by
  rw [State.speedTaken, if_pos h, setFlag_meter]
  rfl

theorem speedTaken_of_slow {s : State} (h : speedResult s.lineLength s.meter.keptLength ≤ 65535) :
    s.speedTaken.meter = s.evaluated := by
  rw [State.speedTaken, if_neg (Int.not_lt.2 h)]
  rfl

/-- Whatever flag it sets, the unit is otherwise as the evaluation gives it. -/
theorem speedTaken_meter (s : State) : ∃ flags origin, s.speedTaken.meter = { s.evaluated with flags := flags, origin := origin } := by
  rcases lt_or_ge 65535 (speedResult s.lineLength s.meter.keptLength) with h | h
  · exact ⟨_, _, speedTaken_of_fast h⟩
  · exact ⟨_, _, speedTaken_of_slow h⟩

theorem exec_speedEvaluation {s : State} (hb : s.begun = true) : exec .speedEvaluation s =
    let u := (s.take .speedEvaluation).speedTaken
    .next (if !s.meter.atRest ∧ u.meter.atRest ∧ u.prot.permit = .halting then refreshAlarm (haltingDecision u) else u) :=
  congrArg Host.Outcome.next (if_neg (by simp [hb]))

/-- The decision that at rest brings in HALTING (R122, Table 7-4), by what stands against running. -/
theorem haltingDecision_effect (s : State) :
    let t := refreshAlarm (haltingDecision s)
    let held := s.prot.causes ≠ [] ∨ s.prot.table ≠ []
    t.prot.causes = s.prot.causes ∧ t.prot.table = s.prot.table ∧ t.prot.haltLeft = none ∧
      .permitStateNotice t.prot.permit ∈ t.due ∧
      (held → t.prot.permit = .halted) ∧ (¬ held → s.prot.eligible = false → t.prot.permit = .standby) ∧
      (¬ held → s.prot.eligible = true → s.prot.coilHold = true → t.prot.permit = .halted) ∧
      (¬ held → s.prot.eligible = true → s.prot.coilHold = false → t.prot.permit = .running ∧ .coilRunningEntry ∈ t.due) := by
  intro t held
  obtain ⟨lamp, hl⟩ := refreshAlarm_prot (haltingDecision s)
  have hp : t.prot = { (haltingDecision s).prot with lamp := lamp } := hl
  have hd : t.due = (haltingDecision s).due := refreshAlarm_due _
  have hheld : ¬ held → ¬ s.hasReason = true := mt State.hasReason_iff.1
  rw [hp, hd, haltingDecision_prot]
  refine ⟨rfl, rfl, rfl, ?_, fun h => ?_, fun h he => ?_, fun h he hc => ?_, fun h he hc => ?_⟩
  · exact List.mem_append_right _ (List.mem_append_right _ (List.mem_singleton_self _))
  · exact decisionOf_of_reason (State.hasReason_iff.2 h)
  · exact decisionOf_of_ineligible (hheld h) he
  · exact (decisionOf_of_eligible (hheld h) he).trans (if_pos hc)
  · have hrun : decisionOf s = .running := (decisionOf_of_eligible (hheld h) he).trans (if_neg (by simp [hc]))
    refine ⟨hrun, ?_⟩
    rw [haltingDecision, setPermit_due, if_pos hrun]
    simp [entryNotices]

/-- Settles O18: the evaluation first, then the decision where at rest is newly set in HALTING. -/
theorem speedEvaluationFollowsTheLine : Obligations.SpeedEvaluationFollowsTheLine := by
  intro s hb
  let s0 := s.take .speedEvaluation
  let u := s0.speedTaken
  let t := if !s.meter.atRest ∧ u.meter.atRest ∧ u.prot.permit = .halting then refreshAlarm (haltingDecision u) else u
  have hu : Only [.due, .meter] s u := (take_only s _).after (speedTaken_only s0) (by decide)
  have hprot : u.prot = s.prot := hu.prot_eq
  have hmeter : t.meter = u.meter := by
    dsimp only [t]
    split
    · rw [(refreshAlarm_only _).meter_eq, (haltingDecision_only u).meter_eq]
    · rfl
  obtain ⟨flags, origin, hev⟩ := speedTaken_meter s0
  replace hev : t.meter = { s0.evaluated with flags := flags, origin := origin } := hmeter.trans hev
  obtain ⟨hneg, hslow, hfast, hne, hlow, hthird⟩ := evaluated_effect s0
  refine ⟨t, exec_speedEvaluation hb, ?_, ?_, ?_, ?_, ?_, ?_, ?_, ?_, ?_, ?_, ?_, ?_⟩
  · exact .ite (((hu.grow (m := [.due, .meter, .prot])).step (haltingDecision_only u)).step (refreshAlarm_only _)) hu.grow
  · rw [hev]
    rfl
  · rw [hev]
    rfl
  · rw [hev]
    exact hneg
  · rw [hev]
    exact hslow
  · intro hf
    obtain ⟨hspeed, hrev⟩ := hfast hf
    rw [hmeter.trans (speedTaken_of_fast (s := s0) hf)]
    exact ⟨hspeed, hrev, rfl, rfl⟩
  · intro hs
    rw [hmeter.trans (speedTaken_of_slow (s := s0) hs)]
    rfl
  · rw [hev]
    exact hne
  · rw [hev]
    exact hlow
  · rw [hev]
    exact hthird
  · intro hno
    have ht : t = u := by
      refine if_neg ?_
      rw [← hmeter, hprot]
      rintro ⟨hr1, hr2, hp⟩
      exact hno.elim (fun h => h hp) fun h => h ⟨by simpa using hr1, hr2⟩
    rw [ht, hprot]
  · rintro hp ⟨hr1, hr2⟩
    have ht : t = refreshAlarm (haltingDecision u) :=
      if_pos ⟨by simpa using hr1, by rw [← hmeter]; exact hr2, by rw [hprot]; exact hp⟩
    have h := haltingDecision_effect u
    rw [hprot] at h
    rw [ht]
    exact h

end Sys2Proof.Machine
end

section
/-! SUPPORT. Raising a cause (R102, R115, R121, R124, R126, R127): the HALT that the queue takes, the episode, the reason that
appears; and the claim about the three commands that raise one. -/

-- One declaration at a time, as in the frames: side by side these proofs ask for more threads than the memory limit allows.
set_option Elab.async false

namespace Sys2Proof.Machine

/-! ### A HALT handed to the queue (R102) -/

/-- What a queue carries with a frame placed behind its last urgent one. -/
def contentsWithHalt (c : FrameContent) (q : List QueuedFrame) : List FrameContent :=
  (q.takeWhile QueuedFrame.urgent).map QueuedFrame.content ++ [c] ++ (q.dropWhile QueuedFrame.urgent).map QueuedFrame.content

theorem placeHalt_contents (c : FrameContent) (q : List QueuedFrame) :
    (placeHalt q (.fresh c)).map QueuedFrame.content = contentsWithHalt c q := by
  simp [placeHalt, contentsWithHalt, QueuedFrame.fresh]

theorem droppable_iff {f : QueuedFrame} : droppable f = true ↔ f.urgent = false ∧ f.onLine = false := by simp [droppable]

theorem not_droppable {f : QueuedFrame} (h : f.urgent = true ∨ f.onLine = true) : ¬ droppable f = true := by
  rw [droppable_iff]
  rcases h with h | h <;> simp [h]

/-- The youngest droppable frame is the one behind which there is none. -/
theorem dropYoungest_eq {before after : List QueuedFrame} {f : QueuedFrame} (hf : droppable f = true)
    (ha : ∀ g ∈ after, ¬ droppable g = true) : dropYoungest (before ++ f :: after) = before ++ after := by
  have hr : (before ++ f :: after).reverse = after.reverse ++ (f :: before.reverse) := by simp
  rw [dropYoungest, hr, List.eraseP_append_right _ (fun g hg => ha g (List.mem_reverse.1 hg)), List.eraseP_cons_of_pos hf]
  simp

/-- A HALT handed to the transmit queue joins it, takes the place of the youngest routine frame that is not on the line, or is
discarded with LINE to be raised. -/
structure HaltJoined (c : FrameContent) (s t : State) : Prop where
  room : s.line.queue.length < 8 → t.line.overruns = s.line.overruns ∧ t.contents = contentsWithHalt c s.line.queue
  instead : ∀ before f after, s.line.queue = before ++ f :: after → 8 ≤ s.line.queue.length → f.urgent = false →
    f.onLine = false → (∀ g ∈ after, g.urgent = true ∨ g.onLine = true) →
    t.line.overruns = holdInc 65535 s.line.overruns ∧ t.contents = contentsWithHalt c (before ++ after)
  discarded : 8 ≤ s.line.queue.length → (∀ g ∈ s.line.queue, g.urgent = true ∨ g.onLine = true) →
    t.line.overruns = holdInc 65535 s.line.overruns ∧ t.contents = s.contents ∧ .raiseCause .lineFailed ∈ t.due

theorem joinHalt_joined (c : FrameContent) (s : State) : HaltJoined c s (joinHalt c s) := by
  unfold joinHalt
  dsimp only
  refine ⟨fun hl => ?_, fun before f after hq h8 hu ho ha => ?_, fun h8 hall => ?_⟩
  · rw [if_pos hl]
    exact ⟨rfl, placeHalt_contents c _⟩
  · have hf : droppable f = true := droppable_iff.2 ⟨hu, ho⟩
    rw [if_neg (by omega), if_pos (List.any_eq_true.2 ⟨f, by simp [hq], hf⟩), hq,
      dropYoungest_eq hf fun g hg => not_droppable (ha g hg)]
    exact ⟨rfl, placeHalt_contents c _⟩
  · have hno : ¬ s.line.queue.any droppable = true := by
      rw [List.any_eq_true]
      rintro ⟨g, hg, hd⟩
      exact not_droppable (hall g hg) hd
    rw [if_neg (by omega), if_neg hno]
    exact ⟨rfl, rfl, List.mem_append_right _ (List.mem_singleton_self _)⟩

theorem sendFrame_haltJoined {c : FrameContent} (hc : c.urgent = true) (s : State) : HaltJoined c s (sendFrame c s) := by
  have hj := joinHalt_joined c s
  have hs : sendFrame c s = pollLine (joinHalt c s) := by rw [sendFrame, if_pos hc]
  obtain ⟨hcontents, hover, _⟩ := pollLine_line (joinHalt c s)
  rw [hs]
  refine ⟨fun hl => ?_, fun before f after hq h8 hu ho ha => ?_, fun h8 hall => ?_⟩
  · rw [hcontents, hover]
    exact hj.room hl
  · rw [hcontents, hover]
    exact hj.instead before f after hq h8 hu ho ha
  · obtain ⟨h1, h2, h3⟩ := hj.discarded h8 hall
    rw [hcontents, hover]
    exact ⟨h1, h2, pollLine_due_subset _ h3⟩

/-- Only the queue before, the queue after and the events due count. -/
theorem HaltJoined.congr {c : FrameContent} {s s1 t u : State} (h : HaltJoined c s1 t) (hs : s1.line = s.line)
    (ht : u.line = t.line) (hd : t.due ⊆ u.due) : HaltJoined c s u := by
  have hc : s1.contents = s.contents := congrArg (fun l : FloorLine => l.queue.map QueuedFrame.content) hs
  have hu : u.contents = t.contents := congrArg (fun l : FloorLine => l.queue.map QueuedFrame.content) ht
  refine ⟨fun hl => ?_, fun before f after hq h8 hu8 ho ha => ?_, fun h8 hall => ?_⟩
  · rw [hu, ht, ← hs]
    exact h.room (by rw [hs]; exact hl)
  · rw [hu, ht, ← hs]
    exact h.instead before f after (by rw [hs]; exact hq) (by rw [hs]; exact h8) hu8 ho ha
  · obtain ⟨h1, h2, h3⟩ := h.discarded (by rw [hs]; exact h8) (by rw [hs]; exact hall)
    rw [hu, ht, ← hs, ← hc]
    exact ⟨h1, h2, hd h3⟩

/-! ### A HALT issued, and the episode (R126, R127) -/

/-- The protection record as a HALT is issued for a cause. -/
def Protection.issued (p : Protection) (c : Cause) : Protection :=
  { p with serial := nextSerial p.serial, latest := some c, episode := .standing }

section
variable (c : Cause) (s : State)

/-- The HALT of a cause, under a serial. -/
def haltContent (serial : Nat) : FrameContent := .halt c.byte (BitVec.ofNat 8 serial) (mmField s.lineLength)

/-- The node with the length of its HALT converted, before the frame is handed over. -/
def haltReady : State := convertFlag s.lineLength (s.withProt (s.prot.issued c))

theorem issueHalt_eq : issueHalt c s = sendFrame (haltContent c s (nextSerial s.prot.serial)) (haltReady c s) := rfl

theorem haltReady_only : Only [.due, .meter, .prot] s (haltReady c s) := (withProt_only s _).after (convertFlag_only _ _).grow

theorem issueHalt_prot : (issueHalt c s).prot = s.prot.issued c := by
  rw [issueHalt_eq, (sendFrame_only _ _).prot_eq]
  exact (convertFlag_only (s.withProt (s.prot.issued c)) _).prot_eq

theorem issueHalt_joined : HaltJoined (haltContent c s (nextSerial s.prot.serial)) s (issueHalt c s) := by
  rw [issueHalt_eq]
  exact (sendFrame_haltJoined rfl _).congr (haltReady_only c s).line_eq rfl (List.Subset.refl _)

theorem issueHalt_extends : Extends [.due, .meter, .line, .prot] s (issueHalt c s) := by
  refine ⟨issueHalt_only s c, ?_⟩
  rw [issueHalt_eq]
  exact List.Subset.trans (convertFlag_due_subset s.lineLength (s.withProt (s.prot.issued c))) (sendFrame_due_subset _ _)

theorem issueHalt_meterKept : MeterKept s (issueHalt c s) := by
  rw [issueHalt_eq]
  exact (MeterKept.of_eq rfl).trans ((convertFlag_meterKept s.lineLength (s.withProt (s.prot.issued c))).trans
    (sendFrame_meterKept _ _))

variable {s}

theorem issueHalt_flagged (h : s.lineLength < 0) : Flagged .rng .convert s (issueHalt c s) := by
  rw [issueHalt_eq]
  exact ((convertFlag_flagged h (s.withProt (s.prot.issued c))).before rfl rfl).sendFrame _

theorem issueHalt_meter (h : 0 ≤ s.lineLength) : (issueHalt c s).meter = s.meter := by
  have hr : haltReady c s = s.withProt (s.prot.issued c) := convertFlag_of_nonneg h _
  rw [issueHalt_eq, sendFrame_meter _ (.inl (by rw [hr]; exact h)), hr]
  rfl

end

/-- The node as its episode has it before a HALT is issued (R127): the sent serial forgotten, or the standing HALT's withdrawal asked
for. -/
def episodeReady (s : State) : State :=
  match s.prot.episode with
  | .quiet => s.withProt { s.prot with sentSerial := none }
  | .standing => requestWithdrawal s
  | .closing => s

section
variable (s : State)

theorem episodeRaise_eq (c : Cause) : episodeRaise c s = issueHalt c (episodeReady s) := by
  unfold episodeRaise episodeReady
  cases s.prot.episode <;> rfl

theorem episodeReady_extends : Extends [.due, .prot] s (episodeReady s) := by
  unfold episodeReady
  split
  · exact ⟨(withProt_only s _).grow, List.Subset.refl _⟩
  · exact ⟨requestWithdrawal_only s, List.subset_append_left _ _⟩
  · exact .refl _ s

theorem episodeReady_prot : (episodeReady s).prot = { s.prot with
    sentSerial := if s.prot.episode = .quiet then none else s.prot.sentSerial
    outstanding := if s.prot.episode = .standing then s.prot.outstanding + 1 else s.prot.outstanding } := by
  unfold episodeReady
  cases h : s.prot.episode <;> rfl

theorem episodeReady_due (h : s.prot.episode = .standing) :
    .withdrawRequest (BitVec.ofNat 8 s.prot.serial) ∈ (episodeReady s).due := by
  unfold episodeReady
  rw [h]
  exact List.mem_append_right _ (List.mem_singleton_self _)

end

/-! ### A reason that appears (R121, R124) -/

section
variable (b : Bool) (s : State)

theorem reasonAppears_extends : Extends [.due, .prot] s (reasonAppears b s) := by
  unfold reasonAppears
  split
  · have h (p : Protection) : Extends [.due, .prot] s (setPermit .halting (s.withProt p)) :=
      Extends.trans ⟨(withProt_only s p).grow, List.Subset.refl _⟩ (setPermit_extends _ _)
    exact .ite ((h _).trans (haltingDecision_extends _)) (h _)
  · exact setPermit_extends _ s
  · exact .refl _ s

/-- A reason moves nothing of the protection record but the permit state, eligibility and the halt timer. -/
theorem reasonAppears_prot : ∃ permit eligible left,
    (reasonAppears b s).prot = { s.prot with permit := permit, eligible := eligible, haltLeft := left } := by
  unfold reasonAppears
  split
  · dsimp only
    split <;> exact ⟨_, _, _, rfl⟩
  · exact ⟨_, _, _, rfl⟩
  · exact ⟨_, _, _, rfl⟩

variable {s}

theorem reasonAppears_of_standby (h : s.prot.permit = .standby) : reasonAppears b s = setPermit .halted s := by
  unfold reasonAppears
  rw [h]

theorem reasonAppears_of_stopped (h : s.prot.permit = .halting ∨ s.prot.permit = .halted) : reasonAppears b s = s := by
  unfold reasonAppears
  rcases h with h | h <;> rw [h]

/-- The node as a reason takes it out of RUNNING, before the decision of a node at rest (R121). -/
def runningLeft (b : Bool) (s : State) : State :=
  setPermit .halting (s.withProt { s.prot with
    eligible := s.settings.autoResume && !b
    haltLeft := some (ofMs (s.settings.haltTimeout * 1000)) })

theorem reasonAppears_of_running (h : s.prot.permit = .running) :
    reasonAppears b s = if s.meter.atRest then haltingDecision (runningLeft b s) else runningLeft b s := by
  unfold reasonAppears
  rw [h]
  rfl

theorem runningLeft_due (h : s.prot.permit = .running) : exitNotices ⊆ (runningLeft b s).due := by
  intro e he
  have hd : (runningLeft b s).due = s.due ++ ((if s.prot.permit = .running then exitNotices else []) ++ [.permitStateNotice .halting]) :=
    rfl
  rw [hd, if_pos h]
  exact List.mem_append_right _ (List.mem_append_left _ he)

theorem exitNotices_subset_reasonAppears (h : s.prot.permit = .running) : exitNotices ⊆ (reasonAppears b s).due := by
  rw [reasonAppears_of_running b h]
  split
  · exact List.Subset.trans (runningLeft_due b h) (haltingDecision_extends _).2
  · exact runningLeft_due b h

end

/-! ### Raising a cause (R115) -/

theorem mem_addCause {c d : Cause} {causes : List Cause} : d ∈ addCause c causes ↔ d = c ∨ d ∈ causes := by
  have hall : d ∈ Cause.all := by cases d <;> decide
  simp [addCause, hall]

section
variable (c : Cause) (s : State)

/-- The node with a cause joined to its set, before it acts. -/
def causeJoined : State := s.withProt { s.prot with
  causes := addCause c s.prot.causes
  eligible := s.prot.eligible && !(c.latching && s.prot.permit != .running) }

/-- The node after a group-wide cause has told the line, and any other cause as it has joined. -/
def causeTold : State := if c.groupWide then issueHalt c (episodeReady (causeJoined c s)) else causeJoined c s

theorem raise_of_present (h : c ∈ s.prot.causes) : raise c s = s :=
  if_pos (.inr (by simpa using h))

theorem raise_eq (hb : s.begun = true) (h : c ∉ s.prot.causes) : raise c s =
    refreshAlarm ((reasonAppears c.latching (causeTold c s)).emit
      (raiseNotices c s.station (s.prot.permit == .running))) := by
  have hp : decide (s.prot.permit = .running) = (s.prot.permit == .running) := rfl
  have hn : ¬ ((!s.begun) = true ∨ s.prot.causes.contains c = true) := by simp [hb, h]
  unfold raise
  rw [if_neg hn]
  dsimp only
  rw [episodeRaise_eq]
  rfl

theorem causeJoined_extends : Extends [.due, .prot] s (causeJoined c s) :=
  ⟨(withProt_only s _).grow, List.Subset.refl _⟩

theorem causeTold_extends : Extends [.due, .meter, .line, .prot] s (causeTold c s) := by
  have hj := (causeJoined_extends c s).grow (m := [.due, .meter, .line, .prot]) (by decide)
  exact .ite ((hj.step (episodeReady_extends _) (by decide)).trans (issueHalt_extends c _)) hj

theorem causeTold_of_groupWide (h : c.groupWide = true) : causeTold c s = issueHalt c (episodeReady (causeJoined c s)) := if_pos h

theorem causeTold_of_own (h : c.groupWide = false) : causeTold c s = causeJoined c s := if_neg (by simp [h])

/-- Telling the line moves nothing of the protection record but the episode's own fields. -/
theorem causeTold_prot : ∃ serial latest episode sent outstanding, (causeTold c s).prot = { (causeJoined c s).prot with
    serial := serial, latest := latest, episode := episode, sentSerial := sent, outstanding := outstanding } := by
  cases h : c.groupWide with
  | true => 
    rw [causeTold_of_groupWide c s h, issueHalt_prot, episodeReady_prot]
    exact ⟨_, _, _, _, _, rfl⟩
  | false =>
    rw [causeTold_of_own c s h]
    exact ⟨_, _, _, _, _, rfl⟩

end

/-! ### What a raised cause leaves -/

section
variable {c : Cause} {s : State} (hb : s.begun = true) (h : c ∉ s.prot.causes)
include hb h

theorem raise_due : (raise c s).due =
    (reasonAppears c.latching (causeTold c s)).due ++ raiseNotices c s.station (s.prot.permit == .running) := by
  rw [raise_eq c s hb h, refreshAlarm_due]
  rfl

theorem raise_extends : Extends [.due, .prot] (causeTold c s) (raise c s) := by
  have hr := reasonAppears_extends c.latching (causeTold c s)
  refine ⟨?_, ?_⟩
  · rw [raise_eq c s hb h]
    exact (hr.1.step (emit_only _ _)).step (refreshAlarm_only _)
  · rw [raise_due hb h]
    exact List.Subset.trans hr.2 (List.subset_append_left _ _)

/-- The permit state, eligibility and the halt timer are those of the reason that appears. -/
theorem raise_prot : ∃ lamp, (raise c s).prot = { (reasonAppears c.latching (causeTold c s)).prot with lamp := lamp } := by
  rw [raise_eq c s hb h]
  exact refreshAlarm_prot _

theorem raise_prot_frame : ∃ permit eligible left lamp, (raise c s).prot = { (causeTold c s).prot with
    permit := permit, eligible := eligible, haltLeft := left, lamp := lamp } := by
  obtain ⟨lamp, hl⟩ := raise_prot hb h
  obtain ⟨permit, eligible, left, hr⟩ := reasonAppears_prot c.latching (causeTold c s)
  exact ⟨permit, eligible, left, lamp, by rw [hl, hr]⟩

/-- The cause joins the set; the halt table, the coil hold and the supply state stay (R115). -/
theorem raise_causes : (∀ d : Cause, d ∈ (raise c s).prot.causes ↔ d = c ∨ d ∈ s.prot.causes) ∧
    (raise c s).prot.table = s.prot.table ∧ (raise c s).prot.coilHold = s.prot.coilHold ∧
    (raise c s).prot.supplyWarning = s.prot.supplyWarning := by
  obtain ⟨_, _, _, _, hp⟩ := raise_prot_frame hb h
  obtain ⟨_, _, _, _, _, ht⟩ := causeTold_prot c s
  rw [hp, ht]
  exact ⟨fun d => mem_addCause, rfl, rfl, rfl⟩

theorem raise_meter : (raise c s).meter = (causeTold c s).meter := (raise_extends hb h).1.meter_eq

theorem raise_meterKept : MeterKept s (raise c s) := by
  refine MeterKept.trans ?_ (.of_eq (raise_meter hb h))
  cases hg : c.groupWide with
  | true =>
    rw [causeTold_of_groupWide c s hg]
    exact MeterKept.trans (.of_eq (episodeReady_extends (causeJoined c s)).1.meter_eq) (issueHalt_meterKept c _)
  | false =>
    rw [causeTold_of_own c s hg]
    exact .of_eq rfl

/-- A group-wide cause converts the line length of its HALT (R29, R126). -/
theorem raise_flagged (hg : c.groupWide = true) (hl : s.lineLength < 0) : Flagged .rng .convert s (raise c s) := by
  have hr := episodeReady_extends (causeJoined c s)
  have ht := issueHalt_flagged c (s := episodeReady (causeJoined c s)) (by rw [hr.1.lineLength_eq]; exact hl)
  rw [← causeTold_of_groupWide c s hg] at ht
  have hm := raise_meter hb h
  exact (ht.kept (congrArg Metering.flags hm) (congrArg Metering.origin hm) (raise_extends hb h).2).before
    hr.1.meter_eq hr.1.settings_eq

theorem raise_unflagged (hg : c.groupWide = false ∨ 0 ≤ s.lineLength) : Unflagged s (raise c s) := by
  refine .of_meter ((raise_meter hb h).trans ?_)
  cases hw : c.groupWide with
  | true =>
    have hr := episodeReady_extends (causeJoined c s)
    have hl : 0 ≤ s.lineLength := hg.resolve_left (by simp [hw])
    rw [causeTold_of_groupWide c s hw, issueHalt_meter c (by rw [hr.1.lineLength_eq]; exact hl), hr.1.meter_eq]
    rfl
  | false =>
    rw [causeTold_of_own c s hw]
    rfl

/-- A group-wide cause issues a HALT of the next serial, by the episode (R102, R126, R127). -/
theorem raise_groupWide (hg : c.groupWide = true) :
    let t := raise c s
    t.prot.serial = nextSerial s.prot.serial ∧ t.prot.latest = some c ∧ t.prot.episode = .standing ∧
      HaltJoined (haltContent c s (nextSerial s.prot.serial)) s t ∧
      (s.prot.episode = .quiet → t.prot.sentSerial = none ∧ t.prot.outstanding = s.prot.outstanding) ∧
      (s.prot.episode = .standing → t.prot.outstanding = s.prot.outstanding + 1 ∧
        .withdrawRequest (BitVec.ofNat 8 s.prot.serial) ∈ t.due) := by
  intro t
  let u := episodeReady (causeJoined c s)
  have hu := episodeReady_extends (causeJoined c s)
  have htold : causeTold c s = issueHalt c u := causeTold_of_groupWide c s hg
  have hserial : u.prot.serial = s.prot.serial := by
    dsimp only [u]
    rw [episodeReady_prot]
    rfl
  have hprot : ∃ permit eligible left lamp, t.prot = { u.prot.issued c with
      permit := permit, eligible := eligible, haltLeft := left, lamp := lamp } := by
    rw [← issueHalt_prot, ← htold]
    exact raise_prot_frame hb h
  obtain ⟨_, _, _, _, hp⟩ := hprot
  have hcontent : haltContent c u (nextSerial u.prot.serial) = haltContent c s (nextSerial s.prot.serial) := by
    rw [hserial, haltContent, hu.1.lineLength_eq]
    rfl
  refine ⟨?_, ?_, ?_, ?_, fun hq => ?_, fun hs => ⟨?_, ?_⟩⟩
  · rw [hp, ← hserial]
    rfl
  · rw [hp]
    rfl
  · rw [hp]
    rfl
  · rw [← hcontent]
    have hj := issueHalt_joined c u
    rw [← htold] at hj
    exact hj.congr hu.1.line_eq (raise_extends hb h).1.line_eq (raise_extends hb h).2
  · rw [hp]
    dsimp only [Protection.issued, u]
    rw [episodeReady_prot]
    exact ⟨if_pos hq, if_neg (by rw [show (causeJoined c s).prot.episode = .quiet from hq]; decide)⟩
  · rw [hp]
    dsimp only [Protection.issued, u]
    rw [episodeReady_prot]
    exact if_pos hs
  · refine (raise_extends hb h).2 ?_
    rw [htold]
    exact (issueHalt_extends c u).2 (episodeReady_due (causeJoined c s) hs)

/-- Any other cause leaves the episode and the line alone. -/
theorem raise_own (hg : c.groupWide = false) : (raise c s).prot.serial = s.prot.serial ∧
    (raise c s).prot.latest = s.prot.latest ∧ (raise c s).prot.episode = s.prot.episode ∧ (raise c s).line = s.line := by
  obtain ⟨_, _, _, _, hp⟩ := raise_prot_frame hb h
  have htold := causeTold_of_own c s hg
  rw [hp, (raise_extends hb h).1.line_eq, htold]
  exact ⟨rfl, rfl, rfl, rfl⟩

/-- Where the cause takes the permit state (R117, R121, R124). -/
theorem raise_permit :
    let t := raise c s
    (s.prot.permit = .standby → t.prot.permit = .halted) ∧
      (s.prot.permit = .running → s.meter.atRest = false → t.prot.permit = .halting ∧
        t.prot.eligible = (s.settings.autoResume && !c.latching) ∧
        t.prot.haltLeft = some (s.settings.haltTimeout * 1000000)) ∧
      (s.prot.permit = .running → s.meter.atRest = true → t.prot.permit = .halted ∧ t.prot.haltLeft = none) ∧
      (s.prot.permit = .running → exitNotices ⊆ t.due) ∧
      (s.prot.permit = .halting ∨ s.prot.permit = .halted → t.prot.permit = s.prot.permit ∧
        t.prot.eligible = (s.prot.eligible && !c.latching)) := by
  intro t
  obtain ⟨lamp, hp⟩ := raise_prot hb h
  obtain ⟨_, _, _, _, _, htold⟩ := causeTold_prot c s
  have hpermit : (causeTold c s).prot.permit = s.prot.permit := by rw [htold]; rfl
  have hset : (causeTold c s).settings = s.settings := (causeTold_extends c s).1.settings_eq
  have hrest : (causeTold c s).meter.atRest = s.meter.atRest := by
    rw [← raise_meter hb h]
    exact (raise_meterKept hb h).atRest
  have hleft (hs : s.prot.permit = .running) := reasonAppears_of_running c.latching (hpermit.trans hs)
  dsimp only [t]
  refine ⟨fun hs => ?_, fun hs hr => ?_, fun hs hr => ?_, fun hs => ?_, fun hs => ?_⟩
  · rw [hp, reasonAppears_of_standby _ (hpermit.trans hs)]
    rfl
  · rw [hp, hleft hs, if_neg (by rw [hrest, hr]; decide), ← hset]
    refine ⟨rfl, rfl, ?_⟩
    change some (ofMs ((causeTold c s).settings.haltTimeout * 1000)) = _
    rw [ofMs, Nat.mul_assoc]
  · have hreason : (runningLeft c.latching (causeTold c s)).hasReason = true := by
      refine State.hasReason_iff.2 (.inl ?_)
      change (causeTold c s).prot.causes ≠ []
      rw [htold]
      exact List.ne_nil_of_mem (mem_addCause.2 (.inl rfl))
    rw [hp, hleft hs, if_pos (by rw [hrest, hr]), haltingDecision_prot]
    exact ⟨decisionOf_of_reason hreason, rfl⟩
  · rw [raise_due hb h]
    exact List.Subset.trans (exitNotices_subset_reasonAppears _ (hpermit.trans hs)) (List.subset_append_left _ _)
  · rw [hp, reasonAppears_of_stopped _ (by rw [hpermit]; exact hs), htold]
    refine ⟨rfl, ?_⟩
    have hne : (s.prot.permit != .running) = true := by rcases hs with hs | hs <;> rw [hs] <;> rfl
    change (s.prot.eligible && !(c.latching && s.prot.permit != .running)) = _
    rw [hne, Bool.and_true]

/-- The coil builder has its notice, and that of the supply (R115, R134). -/
theorem raise_notices : .reasonNotice c.byte s.station (s.prot.permit == .running) ∈ (raise c s).due ∧
    (c = .supply → .supplyNotice ∈ (raise c s).due) := by
  rw [raise_due hb h]
  refine ⟨List.mem_append_right _ (List.mem_append_left _ (List.mem_singleton_self _)), fun hs => ?_⟩
  refine List.mem_append_right _ (List.mem_append_right _ ?_)
  rw [if_pos hs]
  exact List.mem_singleton_self _

end

/-- The node as the three commands that raise a cause find it: the command taken, and an open chain shown (R118). -/
def raiseReady (e : Instr) (s : State) : State := if e = .breakOpen then (s.take e).withBreak true else s.take e

theorem raiseReady_only (e : Instr) (s : State) : Only [.due, .pins] s (raiseReady e s) :=
  .ite ((take_only s e).after (l := [.due, .pins]) (withPins_only _ _).grow) (take_only s e).grow

theorem raiseReady_pins (e : Instr) (s : State) :
    (raiseReady e s).pins = if e = .breakOpen then { s.pins with breakOpen := true } else s.pins := by
  unfold raiseReady
  split <;> rfl

theorem raiseReady_due (e : Instr) (s : State) : (raiseReady e s).due = s.due.erase e := by
  unfold raiseReady
  split <;> rfl

theorem exec_raise {c : Cause} {e : Instr} (s : State)
    (h : e = .raiseCause c ∨ (e = .stop ∧ c = .operator) ∨ (e = .breakOpen ∧ c = .breakChain)) :
    exec e s = .next (raise c (raiseReady e s)) := by
  rcases h with rfl | ⟨rfl, rfl⟩ | ⟨rfl, rfl⟩ <;> rfl

/-- Settles O40: the three commands are one raise, of which each clause is a lemma. -/
theorem raisedCausesActInOrder : Obligations.RaisedCausesActInOrder := by
  intro c e s hb he joined
  let s0 := raiseReady e s
  have h0 : Only [.due, .pins] s s0 := raiseReady_only e s
  have hprot : s0.prot = s.prot := h0.prot_eq
  have hmeter : s0.meter = s.meter := h0.meter_eq
  have hline : s0.line = s.line := h0.line_eq
  have hlen : s0.lineLength = s.lineLength := h0.lineLength_eq
  have hb0 : s0.begun = true := h0.begun_eq.trans hb
  have hr := raise_only s0 c
  refine ⟨raise c s0, exec_raise s he, (h0.grow (m := [.due, .pins, .meter, .line, .prot])).step hr (by decide),
    hr.pins_eq.trans (raiseReady_pins e s), fun hc => ?_, fun hc => ?_⟩
  · rw [raise_of_present c s0 (by rw [hprot]; exact hc)]
    exact ⟨hprot, hline, hmeter, raiseReady_due e s⟩
  · have hc0 : c ∉ s0.prot.causes := by rw [hprot]; exact hc
    obtain ⟨hcauses, htable, hhold, hwarn⟩ := raise_causes hb0 hc0
    obtain ⟨hstandby, hrun, hrest, hexit, hstopped⟩ := raise_permit hb0 hc0
    obtain ⟨hnotice, hsupply⟩ := raise_notices hb0 hc0
    have hstation : s0.station = s.station := congrArg StartRecord.station h0.startRec_eq
    rw [hprot] at hcauses htable hhold hwarn hstandby hrun hrest hexit hstopped hnotice
    rw [hmeter] at hrun hrest
    rw [h0.settings_eq] at hrun
    rw [hstation] at hnotice
    refine ⟨hcauses, htable, hhold, hwarn, (MeterKept.of_eq hmeter).trans (raise_meterKept hb0 hc0), fun hg hl => ?_,
      fun hg => ?_, fun hg => ?_, fun hg => ?_, hstandby, hrun, hrest,
      fun hp => ⟨hexit hp (by simp [exitNotices]), hexit hp (by simp [exitNotices]), hexit hp (by simp [exitNotices])⟩,
      hstopped, hnotice, hsupply⟩
    · exact (raise_flagged hb0 hc0 hg (by rw [hlen]; exact hl)).before hmeter h0.settings_eq
    · have hu := raise_unflagged hb0 hc0 (by rw [hlen]; exact hg)
      unfold Unflagged at *
      rwa [hmeter] at hu
    · obtain ⟨hserial, hlatest, hepisode, hj, hquiet, hstanding⟩ := raise_groupWide hb0 hc0 hg
      have hcontent : haltContent c s0 (nextSerial s0.prot.serial) =
          .halt c.byte (BitVec.ofNat 8 (raise c s0).prot.serial) (mmField s.lineLength) := by
        rw [← hserial, haltContent, hlen]
      rw [hcontent] at hj
      rw [hprot] at hserial hquiet hstanding
      replace hj := hj.congr (s := s) hline rfl (List.Subset.refl _)
      exact ⟨hserial, hlatest, hepisode, hj.room, hj.instead, hj.discarded, hquiet, hstanding⟩
    · have ho := raise_own hb0 hc0 hg
      rwa [hprot, hline] at ho

end Sys2Proof.Machine
end

section
/-! SUPPORT. The start event (R112, R181): the blocks that begin, what an open chain raises on a transmitter that has not joined, and
the claim about its two outcomes. -/

-- One declaration at a time, as in the frames: side by side these proofs ask for more threads than the memory limit allows.
set_option Elab.async false

namespace Sys2Proof.Machine

/-! ### Raising a cause, whether or not it acts -/

section
variable (c : Cause) (s : State)

theorem raise_acts_or_not : raise c s = s ∨ (s.begun = true ∧ c ∉ s.prot.causes) := by
  by_cases hb : s.begun = true
  · by_cases hc : c ∈ s.prot.causes
    · exact .inl (raise_of_present c s hc)
    · exact .inr ⟨hb, hc⟩
  · exact .inl (if_pos (.inl (by simpa using hb)))

theorem raise_extends_always : Extends [.due, .meter, .line, .prot] s (raise c s) := by
  rcases raise_acts_or_not c s with h | ⟨hb, hc⟩
  · rw [h]
    exact .refl _ s
  · exact (causeTold_extends c s).step (raise_extends hb hc) (by decide)

theorem raise_meterKept_always : MeterKept s (raise c s) := by
  rcases raise_acts_or_not c s with h | ⟨hb, hc⟩
  · exact .of_eq (congrArg State.meter h)
  · exact raise_meterKept hb hc

end

/-! ### A transmitter that has not joined (R105) -/

theorem pollLine_of_starting {s : State} (h : s.line.tx = .starting) : pollLine s = s := by
  unfold pollLine
  rw [h]

theorem joinHalt_line (c : FrameContent) (s : State) :
    ∃ queue overruns, (joinHalt c s).line = { s.line with queue := queue, overruns := overruns } := by
  unfold joinHalt
  dsimp only
  split
  · exact ⟨_, _, rfl⟩
  · split <;> exact ⟨_, _, rfl⟩

/-- A HALT only waits in the queue of a transmitter in STARTING. -/
theorem sendHalt_of_starting {c : FrameContent} {s : State} (hc : c.urgent = true) (h : s.line.tx = .starting) :
    ∃ queue overruns, (sendFrame c s).line = { s.line with queue := queue, overruns := overruns } := by
  obtain ⟨queue, overruns, hj⟩ := joinHalt_line c s
  refine ⟨queue, overruns, ?_⟩
  rw [sendFrame, if_pos hc, pollLine_of_starting (by rw [hj]; exact h), hj]

theorem causeTold_of_starting (c : Cause) {s : State} (h : s.line.tx = .starting) :
    ∃ queue overruns, (causeTold c s).line = { s.line with queue := queue, overruns := overruns } := by
  cases hg : c.groupWide with
  | true =>
    let u := episodeReady (causeJoined c s)
    have hl : (haltReady c u).line = s.line := (haltReady_only c u).line_eq.trans (episodeReady_extends (causeJoined c s)).1.line_eq
    obtain ⟨queue, overruns, hj⟩ := sendHalt_of_starting (c := haltContent c u (nextSerial u.prot.serial)) rfl
      (s := haltReady c u) (by rw [hl]; exact h)
    refine ⟨queue, overruns, ?_⟩
    rw [causeTold_of_groupWide c s hg, issueHalt_eq, hj, hl]
  | false =>
    rw [causeTold_of_own c s hg]
    exact ⟨_, _, rfl⟩

theorem raise_of_starting (c : Cause) {s : State} (h : s.line.tx = .starting) :
    ∃ queue overruns, (raise c s).line = { s.line with queue := queue, overruns := overruns } := by
  rcases raise_acts_or_not c s with hr | ⟨hb, hc⟩
  · rw [hr]
    exact ⟨_, _, rfl⟩
  · rw [(raise_extends hb hc).1.line_eq]
    exact causeTold_of_starting c h

/-! ### The blocks that begin (R181) -/

section
variable (s : State)

/-- The node as it enters STANDBY, with its metering unit begun. -/
def meterBegun : State := beginMeter (refreshAlarm (setPermit .standby s))

/-- The node with every job begun, before its chain is judged. -/
def jobsBegun : State := beginKnot (beginSampler (beginTwist (meterBegun s)))

theorem leaveUnset_eq : leaveUnset s = if (jobsBegun s).pins.breakOpen then raise .breakChain (jobsBegun s) else jobsBegun s := rfl

theorem meterBegun_extends : Extends [.due, .pins, .meter, .prot] s (meterBegun s) :=
  (((setPermit_extends .standby s).grow (by decide)).step (.of_only (refreshAlarm_only _) (by decide)) (by decide)).step
    (.of_only (beginMeter_only _) (by decide)) (by decide)

theorem beginTwist_extends : Extends [.due, .twist] s (beginTwist s) := by
  unfold beginTwist
  exact .ite (.emit (withTwist_only s _) _ (by decide)) (.refl _ s)

theorem beginSampler_extends : Extends [.due] s (beginSampler s) := emit_extends s _

theorem beginKnot_extends : Extends [.due, .knot] s (beginKnot s) := by
  unfold beginKnot
  exact .ite (.emit (withKnot_only s _) _ (by decide)) (.refl _ s)

/-- Beginning the monitors and the sampler changes nothing of the protection record, the pins and the metering unit. -/
theorem meterBegun_jobsBegun : Extends [.due, .twist, .knot] (meterBegun s) (jobsBegun s) :=
  (((beginTwist_extends _).grow (by decide)).step (beginSampler_extends _) (by decide)).step (beginKnot_extends _) (by decide)

theorem jobsBegun_extends : Extends [.due, .pins, .meter, .twist, .knot, .prot] s (jobsBegun s) :=
  (meterBegun_extends s).join (meterBegun_jobsBegun s) (by decide)

theorem jobsBegun_prot : ∃ lamp, (jobsBegun s).prot = { s.prot with permit := .standby, eligible := false, lamp := lamp } := by
  obtain ⟨lamp, hl⟩ := refreshAlarm_prot (setPermit .standby s)
  refine ⟨lamp, ?_⟩
  rw [(meterBegun_jobsBegun s).1.prot_eq, meterBegun, (beginMeter_only _).prot_eq, hl]
  rfl

theorem jobsBegun_pins : (jobsBegun s).pins = { s.pins with encA := s.pins.readA, encB := s.pins.readB } := by
  have hp : (refreshAlarm (setPermit .standby s)).pins = s.pins :=
    (refreshAlarm_only _).pins_eq.trans (setPermit_only s .standby).pins_eq
  rw [(meterBegun_jobsBegun s).1.pins_eq, ← hp]
  rfl

theorem jobsBegun_meter : (jobsBegun s).meter.encA.reference = s.pins.readA ∧ (jobsBegun s).meter.encB.reference = s.pins.readB ∧
    (jobsBegun s).meter.evaluationLeft = some 100000 := by
  have hp : (refreshAlarm (setPermit .standby s)).pins = s.pins :=
    (refreshAlarm_only _).pins_eq.trans (setPermit_only s .standby).pins_eq
  rw [(meterBegun_jobsBegun s).1.meter_eq, ← hp]
  exact ⟨rfl, rfl, rfl⟩

/-- The sampler's channel is asked to start (R60). -/
theorem jobsBegun_sampler : .channelStartRequest 6 (intervalRequest .ms1 s.settings.scanPeriod .none) ∈ (jobsBegun s).due := by
  have hs : (beginTwist (meterBegun s)).settings = s.settings :=
    (beginTwist_extends _).1.settings_eq.trans (meterBegun_extends s).1.settings_eq
  refine (beginKnot_extends _).2 (List.mem_append_right _ ?_)
  rw [hs]
  exact List.mem_singleton_self _

/-- The twist monitor of the node begun is that of its own beginning. -/
theorem jobsBegun_twist : (jobsBegun s).twist = (beginTwist (meterBegun s)).twist :=
  (beginKnot_extends _).1.2 .twist (by decide)

variable {s}

/-- The band of a fitted spindle and its turn channel's request (R41, R46). -/
theorem beginTwist_fitted (h : s.settings.twist = true) {n : Fin 4} (hf : s.settings.spindles[n].fitted = true) :
    ((beginTwist s).spindle n).bandLow = s.settings.spindles[n].target - layTolerance s.settings.spindles[n] ∧
      ((beginTwist s).spindle n).bandHigh = s.settings.spindles[n].target + layTolerance s.settings.spindles[n] ∧
      .channelStartRequest (turnChannel n) (turnRequest s.settings.spindles[n]) ∈ (beginTwist s).due := by
  have hspindle : (beginTwist s).spindle n = banded s.settings.spindles[n] (s.spindle n) := by
    rw [beginTwist, if_pos h]
    simp [State.spindle, State.spindleSettings]
  rw [hspindle, banded, if_pos hf]
  refine ⟨rfl, rfl, ?_⟩
  rw [beginTwist, if_pos h]
  refine List.mem_append_right _ (List.mem_map.2 ⟨n, List.mem_filter.2 ⟨List.mem_finRange n, hf⟩, rfl⟩)

/-- The band of the mesh and the request that arms CH0 (R74, R94). -/
theorem beginKnot_knot (h : s.settings.knot = true) :
    (beginKnot s).knot.meshLow = s.settings.meshTarget - meshTol s.settings ∧
      (beginKnot s).knot.meshHigh = s.settings.meshTarget + meshTol s.settings ∧
      .channelStartRequest 0 drawRequest ∈ (beginKnot s).due := by
  rw [beginKnot, if_pos h]
  exact ⟨rfl, rfl, List.mem_append_right _ (List.mem_singleton_self _)⟩

end

/-- An open chain raises BREAK on a node that has begun; nothing else follows the jobs (R118). -/
theorem jobsBegun_leaveUnset (s : State) : Extends [.due, .meter, .line, .prot] (jobsBegun s) (leaveUnset s) := by
  rw [leaveUnset_eq]
  exact .ite (raise_extends_always _ _) (.refl _ _)

theorem leaveUnset_extends (s : State) : Extends [.due, .pins, .meter, .twist, .knot, .line, .prot] s (leaveUnset s) :=
  (jobsBegun_extends s).join (jobsBegun_leaveUnset s) (by decide)

theorem leaveUnset_meterKept (s : State) : MeterKept (jobsBegun s) (leaveUnset s) := by
  rw [leaveUnset_eq]
  split
  · exact raise_meterKept_always _ _
  · exact rfl

theorem leaveUnset_of_starting {s : State} (h : s.line.tx = .starting) :
    ∃ queue overruns, (leaveUnset s).line = { s.line with queue := queue, overruns := overruns } := by
  have hl : (jobsBegun s).line = s.line := (jobsBegun_extends s).1.line_eq
  rw [leaveUnset_eq, ← hl]
  split
  · exact raise_of_starting _ (by rw [hl]; exact h)
  · exact ⟨_, _, rfl⟩

theorem leaveUnset_of_closed {s : State} (h : s.pins.breakOpen = false) : leaveUnset s = jobsBegun s := by
  rw [leaveUnset_eq, jobsBegun_pins]
  exact if_neg (by simp [h])

theorem leaveUnset_of_open {s : State} (h : s.pins.breakOpen = true) : leaveUnset s = raise .breakChain (jobsBegun s) := by
  rw [leaveUnset_eq, jobsBegun_pins]
  exact if_pos h

/-! ### The start event -/

/-- The node with its floor line interface begun (R181 step 4). -/
def lineBegun (s : State) : State :=
  beginLine ((s.take .startEvent).withStart { s.startRec with started := true })

theorem lineBegun_extends (s : State) : Only [.due, .startRec, .line] s (lineBegun s) :=
  ((take_only s .startEvent).grow.step (withStart_only _ _)).step (withLine_only _ _)

section
variable {s : State} (hs : s.startRec.started = false) (hf : s.store.inFlight = none) (hl : s.store.scanLeft = [])
include hs hf hl

theorem exec_startEvent : exec .startEvent s =
    .next (if s.startRec.settingsValid = true ∧ s.startRec.station ≠ 0 then leaveUnset (lineBegun s) else lineBegun s) := by
  change execStartEvent s = _
  have hend : (s.take .startEvent).scanEnded = true := by simp [State.scanEnded, hf, hl]
  simp [execStartEvent, hs, hend]
  rfl

end

/-- Settles O4: the line begins in every case; the other jobs begin with valid settings and a strap. -/
theorem startEventDecides : Obligations.StartEventDecides := by
  intro s hs hf hl
  have hx := exec_startEvent hs hf hl
  let s1 := lineBegun s
  have h1 : Only [.due, .startRec, .line] s s1 := lineBegun_extends s
  refine ⟨fun hv hn => ?_, fun hno => ?_⟩
  · rw [if_pos ⟨hv, hn⟩] at hx
    have hstart : s1.line = { s.line with rx := .hunt, tx := .starting, idle := 0, idleSub := 0 } := by
      change { s.line with rx := .hunt, tx := if s.startRec.station = 0 then TxState.quiet else .starting, idle := 0, idleSub := 0 } = _
      rw [if_neg hn]
    have hset : s1.settings = s.settings := h1.settings_eq
    have hpins : s1.pins = s.pins := h1.pins_eq
    have hjobs := jobsBegun_leaveUnset s1
    obtain ⟨queue, overruns, hline⟩ := leaveUnset_of_starting (s := s1) (by rw [hstart])
    obtain ⟨href1, href2, hleft⟩ := jobsBegun_meter s1
    have hmeter : (leaveUnset s1).meter.encA = (jobsBegun s1).meter.encA ∧ (leaveUnset s1).meter.encB = (jobsBegun s1).meter.encB ∧
        (leaveUnset s1).meter.evaluationLeft = (jobsBegun s1).meter.evaluationLeft := by
      obtain ⟨flags, origin, hm⟩ := (leaveUnset_meterKept s1).meter
      rw [hm]
      exact ⟨rfl, rfl, rfl⟩
    have htwist : (leaveUnset s1).twist = (beginTwist (meterBegun s1)).twist := (hjobs.1.2 .twist (by decide)).trans (jobsBegun_twist s1)
    have hknot : (leaveUnset s1).knot = (jobsBegun s1).knot := hjobs.1.knot_eq
    have hbegun : (meterBegun s1).settings = s.settings := (meterBegun_extends s1).1.settings_eq.trans hset
    have hready : (beginSampler (beginTwist (meterBegun s1))).settings = s.settings :=
      (beginSampler_extends _).1.settings_eq.trans ((beginTwist_extends _).1.settings_eq.trans hbegun)
    refine ⟨leaveUnset s1, hx, ?_, ?_, ?_, fun ho => ?_, fun ho hc => ?_, ?_, ?_, ?_, ?_, ?_, ?_, ?_, fun ht n hfit => ?_, fun hk => ?_,
      fun ht => ?_, fun hk => ?_⟩
    · exact (h1.grow (m := [.due, .pins, .startRec, .meter, .twist, .knot, .line, .prot])).step (leaveUnset_extends s1).1 (by decide)
    · exact (leaveUnset_extends s1).1.startRec_eq
    · rw [hjobs.1.pins_eq, jobsBegun_pins, hpins]
    · obtain ⟨lamp, hp⟩ := jobsBegun_prot s1
      rw [leaveUnset_of_closed (by rw [hpins]; exact ho), hp, (jobsBegun_extends s1).1.line_eq, hstart]
      exact ⟨rfl, (congrArg Protection.causes h1.prot_eq :), rfl, rfl⟩
    · obtain ⟨lamp, hp⟩ := jobsBegun_prot s1
      have hb : (jobsBegun s1).begun = true := by rw [State.begun, hp]; rfl
      have hc1 : .breakChain ∉ (jobsBegun s1).prot.causes := by rw [hp, h1.prot_eq]; exact hc
      rw [leaveUnset_of_open (by rw [hpins]; exact ho)]
      exact ⟨((raise_causes hb hc1).1 _).2 (.inl rfl), (raise_permit hb hc1).1 (by rw [hp])⟩
    · rw [hline, hstart]
    · rw [hline, hstart]
    · rw [hline, hstart]
    · rw [hmeter.1, href1, hpins]
    · rw [hmeter.2.1, href2, hpins]
    · rw [hmeter.2.2, hleft]
    · have hreq := jobsBegun_sampler s1
      rw [hset] at hreq
      exact hjobs.2 hreq
    · have hfitted := beginTwist_fitted (s := meterBegun s1) (n := n) (by rw [hbegun]; exact ht) (by rw [hbegun]; exact hfit)
      rw [hbegun] at hfitted
      obtain ⟨hlow, hhigh, hreq⟩ := hfitted
      rw [State.spindle, htwist]
      exact ⟨hlow, hhigh, hjobs.2 ((beginKnot_extends _).2 ((beginSampler_extends _).2 hreq))⟩
    · have hmesh := beginKnot_knot (s := beginSampler (beginTwist (meterBegun s1))) (by rw [hready]; exact hk)
      rw [hready] at hmesh
      obtain ⟨hlow, hhigh, hreq⟩ := hmesh
      rw [hknot]
      exact ⟨hlow, hhigh, hjobs.2 hreq⟩
    · rw [htwist, beginTwist, if_neg (by rw [hbegun, ht]; decide), (meterBegun_extends s1).1.2 .twist (by decide)]
      exact h1.2 .twist (by decide)
    · rw [hknot, jobsBegun, beginKnot, if_neg (by rw [hready, hk]; decide), (beginSampler_extends _).1.knot_eq,
        (beginTwist_extends _).1.knot_eq, (meterBegun_extends s1).1.knot_eq]
      exact h1.knot_eq
  · have hno' : ¬ (s.startRec.settingsValid = true ∧ s.startRec.station ≠ 0) := by
      rintro ⟨hv, hn⟩
      rcases hno with h | h
      · simp [h] at hv
      · exact hn h
    rw [if_neg hno'] at hx
    exact ⟨s1, hx, h1, rfl, rfl⟩

end Sys2Proof.Machine
end

section
/-! SUPPORT. The stall check (R47 to R50, R52): one spindle's judgment, then the four in their order; and the claim about it. -/

-- One declaration at a time, as in the frames: side by side these proofs ask for more threads than the memory limit allows.
set_option Elab.async false

namespace Sys2Proof.Machine

/-! ### One spindle's judgment (R48) -/

/-- The flag that the stall check of a spindle asks for (R45, R50). -/
def stallAsks (p : Spindle) : Option ArithFlag :=
  if p.windowOpen = false ∨ p.closedMark = true then none
  else if p.turns = 0 then some .dvz
  else (layOf (p.lastTurnLength - p.startLength) p.turns).2

section
variable {p : Spindle}

theorem stallAsks_of_shut (h : p.windowOpen = false) : stallAsks p = none := if_pos (.inl h)

theorem stallAsks_of_marked (h : p.closedMark = true) : stallAsks p = none := if_pos (.inr h)

variable (ho : p.windowOpen = true) (hm : p.closedMark = false)
include ho hm

theorem stallAsks_of_still (ht : p.turns = 0) : stallAsks p = some .dvz :=
  (if_neg (by simp [ho, hm])).trans (if_pos ht)

theorem stallAsks_of_turns (ht : 0 < p.turns) : stallAsks p = (layOf (p.lastTurnLength - p.startLength) p.turns).2 :=
  (if_neg (by simp [ho, hm])).trans (if_neg (by omega))

end

/-- A STALLED spindle's record (R50). -/
def stalledSpindle (p : Spindle) : Spindle :=
  { p with lastClass := .stalled, stats := enterStalled p.stats, stallRun := if p.stallRun = 0 then 1 else 0 }

section
variable {s : State} {n : Fin 4}

theorem checkStall_of_shut (h : (s.spindle n).windowOpen = false) : checkStall s n = s := if_pos (by simp [h])

section
variable (ho : (s.spindle n).windowOpen = true)
include ho

theorem checkStall_of_marked (hm : (s.spindle n).closedMark = true) :
    checkStall s n = s.setSpindle n { s.spindle n with closedMark := false } :=
  (if_neg (by simp [ho])).trans (if_pos hm)

theorem checkStall_of_turns (hm : (s.spindle n).closedMark = false) (ht : 0 < (s.spindle n).turns) :
    checkStall s n = closeWindow n (s.spindle n).turns (s.spindle n).lastTurnLength false s :=
  (if_neg (by simp [ho])).trans ((if_neg (by simp [hm])).trans (if_pos ht))

theorem checkStall_of_still (hm : (s.spindle n).closedMark = false) (ht : (s.spindle n).turns = 0) :
    checkStall s n = stallWindow n s :=
  (if_neg (by simp [ho])).trans ((if_neg (by simp [hm])).trans (if_neg (by omega)))

end

theorem stallWindow_eq (n : Fin 4) (s : State) : stallWindow n s =
    ((setFlag .dvz (.lay n) s).emit (if (s.spindle n).stallRun = 0 then [] else [.raiseCause .strand])).setSpindle n
      (stalledSpindle (s.spindle n)) := by
  unfold stallWindow
  dsimp only
  split
  case isTrue h => simp [stalledSpindle, h, State.emit_nil]
  case isFalse h => simp [stalledSpindle, h]

/-- The four cases of a spindle's judgment. -/
theorem stall_cases (p : Spindle) : p.windowOpen = false ∨ (p.windowOpen = true ∧ p.closedMark = true) ∨
    (p.windowOpen = true ∧ p.closedMark = false ∧ 0 < p.turns) ∨ (p.windowOpen = true ∧ p.closedMark = false ∧ p.turns = 0) := by
  rcases Nat.eq_zero_or_pos p.turns with h | h <;> cases p.windowOpen <;> cases p.closedMark <;> simp [h]

variable (s n)

theorem checkStall_spindle_ne {m : Fin 4} (h : m ≠ n) : (checkStall s n).spindle m = s.spindle m := by
  rcases stall_cases (s.spindle n) with hs | ⟨ho, hm⟩ | ⟨ho, hm, ht⟩ | ⟨ho, hm, ht⟩
  · rw [checkStall_of_shut hs]
  · rw [checkStall_of_marked ho hm, State.setSpindle_spindle_ne _ _ h]
  · rw [checkStall_of_turns ho hm ht, closeWindow_spindle_ne _ _ _ _ _ h]
  · rw [checkStall_of_still ho hm ht, stallWindow_eq, State.setSpindle_spindle_ne _ _ h, State.emit_spindle]
    exact congrArg (fun t : Twist => t.spindles[m]) ((setFlag_only s _ _).2 .twist (by decide))

theorem checkStall_meter : (checkStall s n).meter = (setFlagIf (stallAsks (s.spindle n)) (.lay n) s).meter := by
  rcases stall_cases (s.spindle n) with hs | ⟨ho, hm⟩ | ⟨ho, hm, ht⟩ | ⟨ho, hm, ht⟩
  · rw [checkStall_of_shut hs, stallAsks_of_shut hs]
    rfl
  · rw [checkStall_of_marked ho hm, stallAsks_of_marked hm]
    rfl
  · rw [checkStall_of_turns ho hm ht, closeWindow_meter, stallAsks_of_turns ho hm ht]
  · rw [checkStall_of_still ho hm ht, stallWindow_eq, stallAsks_of_still ho hm ht]
    rfl

/-- The events of its flag come first. -/
theorem checkStall_due : (setFlagIf (stallAsks (s.spindle n)) (.lay n) s).due ⊆ (checkStall s n).due := by
  rcases stall_cases (s.spindle n) with hs | ⟨ho, hm⟩ | ⟨ho, hm, ht⟩ | ⟨ho, hm, ht⟩
  · rw [checkStall_of_shut hs, stallAsks_of_shut hs]
    exact List.Subset.refl _
  · rw [checkStall_of_marked ho hm, stallAsks_of_marked hm]
    exact List.Subset.refl _
  · rw [checkStall_of_turns ho hm ht, closeWindow_due, stallAsks_of_turns ho hm ht]
    exact List.subset_append_left _ _
  · rw [checkStall_of_still ho hm ht, stallWindow_eq, stallAsks_of_still ho hm ht]
    exact List.subset_append_left _ _

theorem checkStall_extends : Extends [.due, .meter, .twist] s (checkStall s n) :=
  ⟨checkStall_only s n, List.Subset.trans (setFlagIf_due_subset s _ _) (checkStall_due s n)⟩

/-- Nothing of the twist monitor but the spindle's record changes. -/
theorem checkStall_twist : { (checkStall s n).twist with spindles := s.twist.spindles } = s.twist := by
  have hof (f : Option ArithFlag) (o : Origin) : (setFlagIf f o s).twist = s.twist := (setFlagIf_only s f o).2 .twist (by decide)
  rcases stall_cases (s.spindle n) with hs | ⟨ho, hm⟩ | ⟨ho, hm, ht⟩ | ⟨ho, hm, ht⟩
  · rw [checkStall_of_shut hs]
  · rw [checkStall_of_marked ho hm]
    rfl
  · rw [checkStall_of_turns ho hm ht, ← hof (layOf ((s.spindle n).lastTurnLength - (s.spindle n).startLength) (s.spindle n).turns).2
      (.lay n)]
    unfold closeWindow
    dsimp only
    rw [State.setSpindle_twist]
    split <;> rfl
  · rw [checkStall_of_still ho hm ht, stallWindow_eq, ← hof (some .dvz) (.lay n)]
    rfl

end

/-! ### A window that closes with a lay (R45 to R49, R52) -/

/-- What a close with a lay leaves of a spindle, by the band. -/
theorem closedSpindle_judged (p : Spindle) (lay limit : Nat) (begin : Int) :
    let out := lay < p.bandLow ∨ p.bandHigh < lay
    let fault := out ∧ limit ≤ p.bandRun + 1
    let cls := classOf p.bandLow p.bandHigh lay
    let q := closedSpindle lay cls (nextBandRun cls limit p.bandRun) false begin p
    (¬ out → q.bandRun = 0) ∧ (out → ¬ fault → q.bandRun = p.bandRun + 1) ∧ (fault → q.bandRun = 0) ∧
      (p.stats.windows < 4294967295 → q.stats = { p.stats with
        windows := p.stats.windows + 1
        within := if out then p.stats.within else p.stats.within + 1
        below := if lay < p.bandLow then p.stats.below + 1 else p.stats.below
        above := if ¬ lay < p.bandLow ∧ p.bandHigh < lay then p.stats.above + 1 else p.stats.above
        layFaults := if fault then p.stats.layFaults + 1 else p.stats.layFaults
        minLay := leastOf p.stats.minLay (some lay)
        maxLay := greatestOf p.stats.maxLay (some lay)
        sumLay := p.stats.sumLay + lay }) ∧
      (p.stats.windows = 4294967295 → q.stats = p.stats) := by
  intro out fault cls q
  refine ⟨fun hin => ?_, fun hout hnf => ?_, fun hf => ?_, fun hlt => ?_, fun htop => enterLay_of_top htop _ _ _⟩
  · exact congrArg Prod.fst (nextBandRun_of_within (mt outOfBand_classOf.1 hin))
  · exact congrArg Prod.fst (nextBandRun_of_run (outOfBand_classOf.2 hout) fun hl => hnf ⟨hout, hl⟩)
  · exact congrArg Prod.fst (nextBandRun_of_fault (outOfBand_classOf.2 hf.1) hf.2)
  · refine (enterLay_of_lt hlt _ _ _ _).trans ?_
    simp only [nextBandRun_fault_iff, outOfBand_classOf, cls]
    rfl

theorem leastOf_some (m : Option Nat) (lay : Nat) : leastOf m (some lay) = some (match m with
    | some m => min m lay
    | none => lay) := by cases m <;> rfl

theorem greatestOf_some (m : Option Nat) (lay : Nat) : greatestOf m (some lay) = some (match m with
    | some m => max m lay
    | none => lay) := by cases m <;> rfl

/-! ### The spindles in their order -/

section
variable (s : State)

theorem foldl_checkStall_extends (l : List (Fin 4)) : Extends [.due, .meter, .twist] s (l.foldl checkStall s) :=
  Extends.foldl checkStall_extends l s

theorem foldl_checkStall_twist (l : List (Fin 4)) : { (l.foldl checkStall s).twist with spindles := s.twist.spindles } = s.twist := by
  induction l generalizing s with
  | nil => rfl
  | cons n l ih =>
    rw [List.foldl_cons]
    have h1 := checkStall_twist s n
    have h2 := ih (checkStall s n)
    rw [← h1, ← h2]

theorem foldl_checkStall_spindle_notMem {l : List (Fin 4)} {n : Fin 4} (h : n ∉ l) :
    (l.foldl checkStall s).spindle n = s.spindle n := by
  induction l generalizing s with
  | nil => rfl
  | cons k l ih =>
    obtain ⟨hk, hl⟩ := List.ne_and_not_mem_of_not_mem_cons h
    rw [List.foldl_cons, ih _ hl, checkStall_spindle_ne s k hk]

/-- A spindle of the list is judged once, as it stood, and what its judgment gives stays due. -/
theorem foldl_checkStall_at {l : List (Fin 4)} (hl : l.Nodup) {n : Fin 4} (h : n ∈ l) : ∃ u : State,
    u.spindle n = s.spindle n ∧ u.settings = s.settings ∧ (l.foldl checkStall s).spindle n = (checkStall u n).spindle n ∧
      (checkStall u n).due ⊆ (l.foldl checkStall s).due := by
  induction l generalizing s with
  | nil => exact absurd h List.not_mem_nil
  | cons k l ih =>
    obtain ⟨hk, hl⟩ := List.nodup_cons.1 hl
    rw [List.foldl_cons]
    by_cases hn : n = k
    · subst hn
      exact ⟨s, rfl, rfl, foldl_checkStall_spindle_notMem _ hk, (foldl_checkStall_extends _ l).2⟩
    · obtain ⟨u, hu, hs, hsp, hd⟩ := ih (checkStall s k) hl ((List.mem_cons.1 h).resolve_left hn)
      exact ⟨u, hu.trans (checkStall_spindle_ne s k hn), hs.trans (checkStall_extends s k).1.settings_eq, hsp, hd⟩

theorem foldl_checkStall_meterKept (l : List (Fin 4)) : MeterKept s (l.foldl checkStall s) := by
  induction l generalizing s with
  | nil => exact rfl
  | cons k l ih =>
    refine MeterKept.trans ?_ (ih (checkStall s k))
    rw [MeterKept, checkStall_meter]
    exact setFlagIf_meter_frame s _ _

/-- The flags asked for are those of the spindles as they stood (R35). -/
theorem foldl_checkStall_flags {l : List (Fin 4)} (hl : l.Nodup) : (l.foldl checkStall s).meter.flags =
    (l.filterMap fun m => stallAsks (s.spindle m)).foldl ArithFlags.set s.meter.flags := by
  induction l generalizing s with
  | nil => rfl
  | cons k l ih =>
    obtain ⟨hk, hl⟩ := List.nodup_cons.1 hl
    have hrest : l.filterMap (fun m => stallAsks ((checkStall s k).spindle m)) = l.filterMap fun m => stallAsks (s.spindle m) :=
      List.filterMap_congr fun m hm => by rw [checkStall_spindle_ne s k fun he => hk (he ▸ hm)]
    rw [List.foldl_cons, ih _ hl, hrest, checkStall_meter, List.filterMap_cons]
    cases stallAsks (s.spindle k) with
    | none => rfl
    | some f => rw [setFlagIf, setFlag_meter]; rfl

/-- A standing origin stays, and so does one that no spindle asks to replace. -/
theorem foldl_checkStall_origin_kept {l : List (Fin 4)} (hl : l.Nodup)
    (h : s.meter.flags.any = true ∨ ∀ m ∈ l, stallAsks (s.spindle m) = none) :
    (l.foldl checkStall s).meter.origin = s.meter.origin := by
  induction l generalizing s with
  | nil => rfl
  | cons k l ih =>
    obtain ⟨hk, hl⟩ := List.nodup_cons.1 hl
    have hm := checkStall_meter s k
    rw [List.foldl_cons]
    rcases h with h | h
    · have hflag : (setFlagIf (stallAsks (s.spindle k)) (.lay k) s).meter.flags.any = true ∧
          (setFlagIf (stallAsks (s.spindle k)) (.lay k) s).meter.origin = s.meter.origin := by
        cases stallAsks (s.spindle k) with
        | none => exact ⟨h, rfl⟩
        | some f =>
          rw [setFlagIf, setFlag_meter]
          exact ⟨ArithFlags.any_set _ _, if_pos h⟩
      rw [ih _ hl (.inl (by rw [hm]; exact hflag.1)), hm, hflag.2]
    · rw [h k List.mem_cons_self] at hm
      rw [ih _ hl (.inr fun m hmem => ?_), hm]
      · rfl
      · rw [checkStall_spindle_ne s k fun he => hk (he ▸ hmem)]
        exact h m (List.mem_cons_of_mem _ hmem)

/-- The first spindle that asks is the origin where no flag stood, and asks for ARITH with ARITH-ESCALATE set (R35, R37). -/
theorem foldl_checkStall_first {l : List (Fin 4)} (hl : l.Pairwise (· < ·)) {n : Fin 4} (hn : n ∈ l)
    (hasks : stallAsks (s.spindle n) ≠ none) (hbefore : ∀ m ∈ l, m < n → stallAsks (s.spindle m) = none)
    (hany : s.meter.flags.any = false) : (l.foldl checkStall s).meter.origin = .lay n ∧
      (s.settings.arithEscalate = true → .raiseCause .arith ∈ (l.foldl checkStall s).due) := by
  induction l generalizing s with
  | nil => exact absurd hn List.not_mem_nil
  | cons k l ih =>
    obtain ⟨hk, hp⟩ := List.pairwise_cons.1 hl
    have hm := checkStall_meter s k
    rw [List.foldl_cons]
    by_cases he : n = k
    · subst he
      obtain ⟨f, hf⟩ := Option.ne_none_iff_exists'.1 hasks
      rw [hf, setFlagIf, setFlag_meter] at hm
      have hor : (checkStall s n).meter.origin = .lay n := by
        rw [hm]
        exact if_neg (by simp [hany])
      refine ⟨(foldl_checkStall_origin_kept _ (hp.imp fun h => h.ne) (.inl ?_)).trans hor, fun hesc => ?_⟩
      · rw [hm]
        exact ArithFlags.any_set _ _
      · refine (foldl_checkStall_extends _ l).2 (checkStall_due s n ?_)
        rw [hf, setFlagIf, setFlag_due, if_pos ⟨hany, hesc⟩]
        exact List.mem_append_right _ (List.mem_singleton_self _)
    · have hmem : n ∈ l := (List.mem_cons.1 hn).resolve_left he
      have hsame {m : Fin 4} (h : m ≠ k) : (checkStall s k).spindle m = s.spindle m := checkStall_spindle_ne s k h
      rw [hbefore k List.mem_cons_self (hk n hmem)] at hm
      rw [← (checkStall_extends s k).1.settings_eq]
      refine ih _ hp hmem (by rw [hsame he]; exact hasks) (fun m hml hlt => ?_) (by rw [hm]; exact hany)
      rw [hsame (hk m hml).ne']
      exact hbefore m (List.mem_cons_of_mem _ hml) hlt

end

/-- The flags asked for, written out. -/
theorem stallAsks_eq (p : Spindle) : stallAsks p =
    let span := p.lastTurnLength - p.startLength
    if p.windowOpen = false ∨ p.closedMark = true then none
    else if p.turns = 0 then some .dvz
    else if span ≤ 0 then some .unf
    else if 16777215 < (2 * span + p.turns) / (2 * p.turns) then some .ovf
    else none := by
  rw [stallAsks, layOf_flag]

theorem foldl_set_dvz (l : List ArithFlag) (f : ArithFlags) (h : .dvz ∈ l ∨ f.dvz = true) :
    (l.foldl ArithFlags.set f).dvz = true := by
  induction l generalizing f with
  | nil => exact h.resolve_left List.not_mem_nil
  | cons a l ih =>
    refine ih _ ?_
    rcases h with h | h
    · rcases List.mem_cons.1 h with rfl | h
      · exact .inr rfl
      · exact .inl h
    · right
      cases a <;> first | exact h | rfl

theorem enterStalled_of_lt {t : SpindleStats} (h : t.windows < 4294967295) :
    enterStalled t = { t with windows := t.windows + 1, stalled := t.stalled + 1 } :=
  if_neg (by unfold topWindows; omega)

theorem enterStalled_of_top {t : SpindleStats} (h : t.windows = 4294967295) : enterStalled t = t :=
  if_pos (by rw [h]; decide)

/-- The node as the stall check finds it: the expiry of CH0 given, or taken here (log entry 14). -/
def stallReady (s : State) : State := takeExpiry (s.due.contains .stallCheck) 0 .interval (s.take .stallCheck)

theorem stallReady_only (s : State) : Only [.due, .channels] s (stallReady s) :=
  (take_only s _).after (takeExpiry_only _ _ _ _) (by decide)

theorem exec_stallCheck {s : State} (hb : s.begun = true) (ht : s.settings.twist = true) :
    exec .stallCheck s = .next ((List.finRange 4).foldl checkStall (stallReady s)) := by
  have h0 := stallReady_only s
  have hnode : (stallReady s).twistNode = true := by simp [State.twistNode, h0.begun_eq, h0.settings_eq, hb, ht]
  exact congrArg Host.Outcome.next (if_pos hnode)

/-- Settles O24: the status by the spindles that ask, and each spindle by its own judgment. -/
theorem stallCheckClosesUnmarkedWindows : Obligations.StallCheckClosesUnmarkedWindows := by
  intro s hb ht
  let s0 := stallReady s
  let t := (List.finRange 4).foldl checkStall s0
  have h0 : Only [.due, .channels] s s0 := stallReady_only s
  have htwist : s0.twist = s.twist := h0.2 .twist (by decide)
  have hspindle (m : Fin 4) : s0.spindle m = s.spindle m := congrArg (fun t : Twist => t.spindles[m]) htwist
  have hmeter : s0.meter = s.meter := h0.meter_eq
  have hset : s0.settings = s.settings := h0.settings_eq
  have hnodup : (List.finRange 4).Nodup := List.nodup_finRange 4
  have hx : exec .stallCheck s = .next t := exec_stallCheck hb ht
  have hfold : Extends [.due, .meter, .twist] s0 t := foldl_checkStall_extends s0 _
  have hframe : { t.twist with spindles := s.twist.spindles } = s.twist := by rw [← htwist]; exact foldl_checkStall_twist s0 _
  have hkept : MeterKept s t := (MeterKept.of_eq hmeter).trans (foldl_checkStall_meterKept s0 _)
  have hchannel (j : Fin 8) (hj : j ≠ 0) : t.channel j = s.channel j :=
    (hfold.1.channel_eq j).trans (takeExpiry_channel_ne _ _ _ hj)
  have hat (n : Fin 4) : ∃ u : State, u.spindle n = s.spindle n ∧ u.settings = s.settings ∧
      t.spindle n = (checkStall u n).spindle n ∧ (checkStall u n).due ⊆ t.due := by
    rw [← hspindle, ← hset]
    exact foldl_checkStall_at s0 hnodup (List.mem_finRange n)
  have horigin (h : s.meter.flags.any = true ∨ ∀ n, stallAsks (s.spindle n) = none) : t.meter.origin = s.meter.origin := by
    rw [← hmeter]
    refine foldl_checkStall_origin_kept s0 hnodup (h.imp (fun h => by rw [hmeter]; exact h) fun h m _ => ?_)
    rw [hspindle]
    exact h m
  have hflags : t.meter.flags = ((List.finRange 4).filterMap fun m => stallAsks (s.spindle m)).foldl ArithFlags.set s.meter.flags := by
    have h := foldl_checkStall_flags s0 hnodup
    simpa only [hspindle, hmeter] using h
  have hfirst (n : Fin 4) (ha : stallAsks (s.spindle n) ≠ none) (hbefore : ∀ m, m < n → stallAsks (s.spindle m) = none)
      (hany : s.meter.flags.any = false) :
      t.meter.origin = .lay n ∧ (s.settings.arithEscalate = true → .raiseCause .arith ∈ t.due) := by
    rw [← hset]
    exact foldl_checkStall_first s0 (by decide) (List.mem_finRange n) (by rw [hspindle]; exact ha)
      (fun m _ hlt => by rw [hspindle]; exact hbefore m hlt) (by rw [hmeter]; exact hany)
  clear_value t
  refine ⟨t, hx, (h0.grow (m := [.due, .channels, .meter, .twist])).step hfold.1 (by decide), hchannel, hframe, ?_, fun n => ?_⟩
  · simp only [← stallAsks_eq]
    exact ⟨hkept, hflags, fun h => horigin (.inl h), fun h => horigin (.inr h), hfirst⟩
  · obtain ⟨u, hu, hug, htn, hdue⟩ := hat n
    dsimp only
    refine ⟨fun hs => ?_, fun ho hm => ?_, fun ho hm hturns => ?_, fun ho hm hturns => ?_⟩
    · rw [htn, checkStall_of_shut (by rw [hu]; exact hs), hu]
    · rw [htn, checkStall_of_marked (by rw [hu]; exact ho) (by rw [hu]; exact hm), hu, State.setSpindle_spindle_self]
    · have hcheck := checkStall_of_turns (s := u) (n := n) (by rw [hu]; exact ho) (by rw [hu]; exact hm) (by rw [hu]; exact hturns)
      rw [hu] at hcheck
      have hself := closeWindow_spindle_self u n (s.spindle n).turns (s.spindle n).lastTurnLength false
      rw [← hcheck, hu, State.spindleSettings, hug] at hself
      obtain ⟨hin, hout, hfault, hlt, htop⟩ := closedSpindle_judged (s.spindle n)
        (layOf ((s.spindle n).lastTurnLength - (s.spindle n).startLength) (s.spindle n).turns).1
        s.settings.spindles[n].runLimit (s.spindle n).lastTurnLength
      simp only [leastOf_some, greatestOf_some] at hlt
      rw [htn, hself]
      refine ⟨rfl, ho, rfl, hin, hout, fun hf => ⟨hfault hf, fun he => hdue ?_⟩, hlt, htop, rfl, rfl, rfl, rfl, rfl⟩
      rw [hcheck, closeWindow_due]
      refine List.mem_append_right _ ?_
      rw [hu, State.spindleSettings, hug]
      dsimp only
      rw [if_pos ⟨nextBandRun_fault_iff.2 ⟨outOfBand_classOf.2 hf.1, hf.2⟩, he⟩]
      exact List.mem_singleton_self _
    · have hasks : stallAsks (s.spindle n) = some .dvz := stallAsks_of_still ho hm hturns
      have hcheck : checkStall u n = _ :=
        (checkStall_of_still (by rw [hu]; exact ho) (by rw [hu]; exact hm) (by rw [hu]; exact hturns)).trans (stallWindow_eq n u)
      rw [hu] at hcheck
      have hself : t.spindle n = stalledSpindle (s.spindle n) := by rw [htn, hcheck, State.setSpindle_spindle_self]
      rw [hself]
      refine ⟨rfl, rfl, rfl, fun h => enterStalled_of_lt h, fun h => enterStalled_of_top h, ?_, fun h => horigin (.inl h),
        fun hany hf => ?_, fun hr => hdue ?_⟩
      · rw [hflags]
        exact foldl_set_dvz _ _ (.inl (List.mem_filterMap.2 ⟨n, List.mem_finRange n, hasks⟩))
      · refine (hfirst n (by rw [hasks]; exact Option.some_ne_none _) (fun m hlt => ?_) hany).1
        exact (hf m hlt).elim stallAsks_of_shut stallAsks_of_marked
      · rw [hcheck, if_neg hr]
        exact List.mem_append_right _ (List.mem_singleton_self _)

end Sys2Proof.Machine
end

section
/-! SUPPORT. A pace part at the twist monitor (R55, R56, R58): the source that recovers, the requests to CH5, and the claim about it. -/

-- One declaration at a time, as in the frames: side by side these proofs ask for more threads than the memory limit allows.
set_option Elab.async false

namespace Sys2Proof.Machine

/-! ### Whether CH5 runs (R56; log entry 44) -/

theorem filterMap_erase_of_none {α β : Type} [DecidableEq α] {f : α → Option β} {a : α} (h : f a = none) (l : List α) :
    (l.erase a).filterMap f = l.filterMap f := by
  induction l with
  | nil => rfl
  | cons b l ih =>
    by_cases hb : b = a
    · rw [hb, List.erase_cons_head, List.filterMap_cons_none h]
    · rw [List.erase_cons_tail (by simpa using hb), List.filterMap_cons, List.filterMap_cons, ih]

section
variable {s t u : State}

/-- CH5 and the requests to it that are due are the same. -/
def ReferenceKept (s t : State) : Prop :=
  t.due.filterMap referenceRequest = s.due.filterMap referenceRequest ∧ t.channel 5 = s.channel 5

theorem ReferenceKept.trans (h : ReferenceKept s t) (k : ReferenceKept t u) : ReferenceKept s u :=
  ⟨k.1.trans h.1, k.2.trans h.2⟩

theorem ReferenceKept.runs (h : ReferenceKept s t) : t.referenceRuns = s.referenceRuns := by
  unfold State.referenceRuns
  rw [h.1, h.2]

theorem ReferenceKept.withTwist (h : ReferenceKept s t) (x : Twist) : ReferenceKept s (t.withTwist x) := h

/-- Events that are no request to CH5. -/
theorem ReferenceKept.events (h : ReferenceKept s t) {l : List Instr} (hl : l.filterMap referenceRequest = [])
    (hd : u.due = t.due ++ l) (hc : u.channels = t.channels) : ReferenceKept s u := by
  refine h.trans ⟨?_, ?_⟩
  · rw [hd, List.filterMap_append, hl, List.append_nil]
  · rw [State.channel, hc, ← State.channel]

theorem take_referenceKept {e : Instr} (h : referenceRequest e = none) (s : State) : ReferenceKept s (s.take e) :=
  ⟨filterMap_erase_of_none h _, rfl⟩

end

/-! ### The source that is heard again (R58) -/

section
variable (s : State)

theorem sourceRecovers_twist : (sourceRecovers s).twist = { s.twist with
    condition := .tracking
    holdLeft := if s.twist.condition = .tracking then s.twist.holdLeft else none } := by
  unfold sourceRecovers
  split <;> rename_i h
  · rw [if_pos h, ← h]
  · rw [if_neg (by simp [h])]
    rfl
  · rw [if_neg (by simp [h])]
    rfl

theorem sourceRecovers_due : (sourceRecovers s).due = s.due ++ if s.twist.condition = .lost then [.clearCause .paceLost] else [] := by
  unfold sourceRecovers
  cases h : s.twist.condition with
  | tracking => exact (List.append_nil _).symm
  | holding => exact (List.append_nil _).symm
  | lost => rfl

end

theorem ReferenceKept.sourceRecovers {s t : State} (h : ReferenceKept s t) : ReferenceKept s (sourceRecovers t) := by
  refine h.events (l := if t.twist.condition = .lost then [.clearCause .paceLost] else []) ?_ (sourceRecovers_due t)
    (sourceRecovers_only t).channels_eq
  split <;> rfl

theorem ReferenceKept.setFlagIf {s t : State} (h : ReferenceKept s t) (flag : Option ArithFlag) (o : Origin) :
    ReferenceKept s (setFlagIf flag o t) := by
  refine h.events ?_ (setFlagIf_due t flag o) (setFlagIf_only t flag o).channels_eq
  split <;> rfl

/-! ### The requests to CH5 (R56) -/

section
variable (renewed : Bool) {s : State}

theorem steerReference_extends (s : State) : Extends [.due] s (steerReference renewed s) := by
  unfold steerReference
  refine .ite (.refl _ s) ?_
  split
  · exact .ite (emit_extends s _) (.ite (emit_extends s _) (.refl _ s))
  · exact .ite (emit_extends s _) (.refl _ s)

variable (hr : s.twistRunning = true)
include hr

theorem steerReference_of_unavailable (ha : s.twist.available = false) (hs : s.referenceRuns = true) :
    .channelStopRequest 5 ∈ (steerReference renewed s).due := by
  unfold steerReference
  rw [hr, ha, hs]
  exact List.mem_append_right _ (List.mem_singleton_self _)

variable {h : Nat} (ha : s.twist.available = true) (hh : s.twist.halfPeriod = some h)
include ha hh

theorem steerReference_of_stopped (hs : s.referenceRuns = false) : startReference h ∈ (steerReference renewed s).due := by
  unfold steerReference
  rw [hr, ha, hh, hs]
  exact List.mem_append_right _ (List.mem_singleton_self _)

theorem steerReference_of_renewed (hs : s.referenceRuns = true) :
    .setNextReload 5 (BitVec.ofNat 24 h) ∈ (steerReference true s).due := by
  unfold steerReference
  rw [hr, ha, hh, hs]
  exact List.mem_append_right _ (List.mem_singleton_self _)

end

/-! ### The pace part -/

theorem halfPeriodOf_flag_ovf {target v pref : Nat} (h : (1000 * target + v * pref) / (2 * v * pref) < 10) :
    (halfPeriodOf target v pref).2 = some .ovf := by
  unfold halfPeriodOf
  dsimp only
  rw [if_pos h]

theorem halfPeriodOf_flag_unf {target v pref : Nat} (h : 16777215 < (1000 * target + v * pref) / (2 * v * pref)) :
    (halfPeriodOf target v pref).2 = some .unf := by
  unfold halfPeriodOf
  dsimp only
  rw [if_neg (by omega), if_pos (show topLay < _ from h)]

theorem halfPeriodOf_flag_none {target v pref : Nat} (hl : 10 ≤ (1000 * target + v * pref) / (2 * v * pref))
    (hu : (1000 * target + v * pref) / (2 * v * pref) ≤ 16777215) : (halfPeriodOf target v pref).2 = none := by
  unfold halfPeriodOf
  dsimp only
  rw [if_neg (by omega), if_neg (by unfold topLay; omega)]

theorem halfPeriodOf_fst (target v pref : Nat) : (halfPeriodOf target v pref).1 =
    let h := (1000 * target + v * pref) / (2 * v * pref)
    if h < 10 then 10 else if 16777215 < h then 16777215 else h := by
  unfold halfPeriodOf
  dsimp only
  split
  · rfl
  · split
    · exact (if_pos ‹_›).symm
    · exact (if_neg ‹_›).symm

/-- The twist monitor of a pace part of v = 0, before CH5 is steered. -/
def flowStopped (s : State) : State :=
  let s1 := sourceRecovers s
  s1.withTwist { s1.twist with flowing := false }

/-- The twist monitor of a pace part that moves, before CH5 is steered. -/
def paceTaken (x : Nat × Option ArithFlag) (s : State) : State :=
  let s2 := setFlagIf x.2 .follow (sourceRecovers s)
  s2.withTwist { s2.twist with halfPeriod := some x.1, flowing := true }

section
variable {s : State} (hf : s.follows = true)
include hf

theorem exec_pacePartToTwist_zero : exec (.pacePartToTwist 0) s =
    .next (steerReference false (flowStopped (s.take (.pacePartToTwist 0)))) :=
  congrArg Host.Outcome.next ((if_neg (by simp [hf])).trans (if_pos rfl))

theorem exec_pacePartToTwist_moving {v : BitVec 16} (hv : v ≠ 0) : exec (.pacePartToTwist v) s =
    .next (steerReference true (paceTaken (halfPeriodOf s.settings.spindles[(0 : Fin 4)].target v.toNat s.settings.pref)
      (s.take (.pacePartToTwist v)))) := by
  have hset : (sourceRecovers (s.take (.pacePartToTwist v))).settings = s.settings := (sourceRecovers_only _).settings_eq
  have hx : exec (.pacePartToTwist v) s = .next (steerReference true (paceTaken
      (halfPeriodOf ((sourceRecovers (s.take (.pacePartToTwist v))).spindleSettings 0).target v.toNat
        (sourceRecovers (s.take (.pacePartToTwist v))).settings.pref) (s.take (.pacePartToTwist v)))) :=
    congrArg Host.Outcome.next ((if_neg (by simp [hf])).trans (if_neg hv))
  rw [hx, State.spindleSettings, hset]

end

section
variable (x : Nat × Option ArithFlag) (s : State)

theorem flowStopped_extends : Extends [.due, .twist] s (flowStopped s) :=
  ⟨(sourceRecovers_only s).step (withTwist_only _ _), by
    have h := sourceRecovers_due s
    change s.due ⊆ (sourceRecovers s).due
    rw [h]
    exact List.subset_append_left _ _⟩

theorem flowStopped_twist : (flowStopped s).twist = { (sourceRecovers s).twist with flowing := false } := rfl

theorem paceTaken_twist : (paceTaken x s).twist = { (sourceRecovers s).twist with halfPeriod := some x.1, flowing := true } := by
  have h : (setFlagIf x.2 .follow (sourceRecovers s)).twist = (sourceRecovers s).twist := (setFlagIf_only _ _ _).2 .twist (by decide)
  rw [← h]
  rfl

theorem paceTaken_only : Only [.due, .meter, .twist] s (paceTaken x s) :=
  ((sourceRecovers_only s).after (l := [.due, .meter, .twist]) (setFlagIf_only _ _ _).grow).step (withTwist_only _ _)

theorem sourceRecovers_subset_paceTaken : (sourceRecovers s).due ⊆ (paceTaken x s).due := setFlagIf_due_subset _ _ _

end

/-- A lost source that is heard again asks for the clear of PACE-LOST. -/
theorem clear_mem_sourceRecovers {s : State} (h : s.twist.condition = .lost) : .clearCause .paceLost ∈ (sourceRecovers s).due := by
  rw [sourceRecovers_due, if_pos h]
  exact List.mem_append_right _ (List.mem_singleton_self _)

/-- Settles O26: a pace part of v = 0 stops the flow and, where CH5 runs, asks for its stop; one that moves takes the
half-period of R55 with its flag, and asks CH5 for its start or its new reload. -/
theorem pacePartRecomputesTheHalfPeriod : Obligations.PacePartRecomputesTheHalfPeriod := by
  intro v s hf
  have kept : ReferenceKept s (sourceRecovers (s.take (.pacePartToTwist v))) := (take_referenceKept rfl s).sourceRecovers
  have heard : (sourceRecovers (s.take (.pacePartToTwist v))).twist.condition = .tracking := by rw [sourceRecovers_twist]
  have same : (sourceRecovers (s.take (.pacePartToTwist v))).twist.spindles = s.twist.spindles ∧
      (sourceRecovers (s.take (.pacePartToTwist v))).twist.halfPeriod = s.twist.halfPeriod := by
    rw [sourceRecovers_twist]
    exact ⟨rfl, rfl⟩
  have meter : (sourceRecovers (s.take (.pacePartToTwist v))).meter = s.meter := (sourceRecovers_only _).meter_eq
  by_cases hv : v = 0
  · subst hv
    set u := flowStopped (s.take (.pacePartToTwist 0)) with hu
    have steer := steerReference_extends false u
    have twist : (steerReference false u).twist = u.twist := (steerReference_only u _).2 .twist (by decide)
    have spindles : u.twist.spindles = s.twist.spindles := same.1
    have runs : u.referenceRuns = s.referenceRuns := (kept.withTwist _).runs
    have running : u.twistRunning = s.twistRunning := congrArg (fun v : Vector Spindle 4 => v.toList.any Spindle.windowOpen) spindles
    refine ⟨_, exec_pacePartToTwist_zero hf, ?_, ?_, ?_, fun hl => ?_, fun _ => ⟨?_, ?_, ?_, fun hr hs => ?_⟩, fun h => absurd rfl h⟩
    · exact (((take_only s _).grow (m := [.due, .meter, .twist])).step (flowStopped_extends _).1).step steer.1
    · rw [twist, spindles]
    · exact (congrArg Twist.condition twist).trans heard
    · exact steer.2 (clear_mem_sourceRecovers hl)
    · rw [twist, flowStopped_twist]
    · rw [twist]
      exact same.2
    · exact steer.1.meter_eq.trans meter
    · exact steerReference_of_unavailable _ (running.trans hr) (by simp [Twist.available, flowStopped_twist]) (runs.trans hs)
  · set x := halfPeriodOf s.settings.spindles[(0 : Fin 4)].target v.toNat s.settings.pref with hx
    set u := paceTaken x (s.take (.pacePartToTwist v)) with hu
    have steer := steerReference_extends true u
    have twist : (steerReference true u).twist = u.twist := (steerReference_only u _).2 .twist (by decide)
    have meterOf : (steerReference true u).meter = (setFlagIf x.2 .follow (sourceRecovers (s.take (.pacePartToTwist v)))).meter :=
      steer.1.meter_eq
    have spindles : u.twist.spindles = s.twist.spindles := by rw [hu, paceTaken_twist]; exact same.1
    have runs : u.referenceRuns = s.referenceRuns := ((kept.setFlagIf _ _).withTwist _).runs
    have running : u.twistRunning = s.twistRunning := congrArg (fun v : Vector Spindle 4 => v.toList.any Spindle.windowOpen) spindles
    have available : u.twist.available = true := by rw [hu, paceTaken_twist]; simp [Twist.available, heard]
    have half : u.twist.halfPeriod = some x.1 := by rw [hu, paceTaken_twist]
    have hsettings : (sourceRecovers (s.take (.pacePartToTwist v))).settings = s.settings := (sourceRecovers_only _).settings_eq
    refine ⟨_, exec_pacePartToTwist_moving hf hv, ?_, ?_, ?_, fun hl => ?_, fun h => absurd h hv,
      fun _ => ⟨?_, ?_, ?_, fun hl hh => ?_, fun hl => ?_, fun hh => ?_, fun hr hs => ?_, fun hr hs => ?_⟩⟩
    · exact ((take_only s _).after (paceTaken_only x _)).step steer.1
    · rw [twist, spindles]
    · rw [twist, paceTaken_twist]
      exact heard
    · exact steer.2 (sourceRecovers_subset_paceTaken x _ (clear_mem_sourceRecovers hl))
    · rw [twist, paceTaken_twist]
    · rw [twist, half, hx, halfPeriodOf_fst]
    · rw [meterOf, ← meter]
      exact setFlagIf_meter_frame _ _ _
    · rw [meterOf, show x.2 = none from halfPeriodOf_flag_none hl hh]
      exact meter
    · exact setFlagIf_flagged meter hsettings (halfPeriodOf_flag_ovf hl) meterOf steer.2
    · exact setFlagIf_flagged meter hsettings (halfPeriodOf_flag_unf hh) meterOf steer.2
    · have := steerReference_of_stopped true (running.trans hr) available half (runs.trans hs)
      rwa [hx, halfPeriodOf_fst] at this
    · have := steerReference_of_renewed (running.trans hr) available half (runs.trans hs)
      rwa [hx, halfPeriodOf_fst] at this

end Sys2Proof.Machine
end

section
/-! SUPPORT. A transition of an encoder (R21 to R24, R31, R140): what the pair is to the reference, the count, the slip check and the
comparison with the target as stages of it, the arithmetic status after the three, and the claim about it. -/

-- One declaration at a time, as in the frames: side by side these proofs ask for more threads than the memory limit allows.
set_option Elab.async false

namespace Sys2Proof.Machine

/-! ### The pair taken (R21, R22) -/

theorem transitionOf_forward {a b : Bool × Bool}
    (h : (a = (false, false) ∧ b = (true, false)) ∨ (a = (true, false) ∧ b = (true, true)) ∨
      (a = (true, true) ∧ b = (false, true)) ∨ (a = (false, true) ∧ b = (false, false))) :
    transitionOf a b = .count 1 ∧ transitionOf b a = .count (-1) := by
  obtain ⟨rfl, rfl⟩ | ⟨rfl, rfl⟩ | ⟨rfl, rfl⟩ | ⟨rfl, rfl⟩ := h <;> decide

theorem transitionOf_both {a b : Bool × Bool} (h1 : b.1 ≠ a.1) (h2 : b.2 ≠ a.2) : transitionOf a b = .invalid := by
  revert a b
  decide

section
variable (e : EncoderId) (pair : Bool × Bool) (s : State)

/-- The node with the lines of a transition shown, where no sample brought them (log entry 4). -/
def pairShown : State :=
  if s.due.contains (.encoderTransition e pair.1 pair.2) then s.take (.encoderTransition e pair.1 pair.2)
  else (s.take (.encoderTransition e pair.1 pair.2)).withPins (s.pins.setEncoder e pair)

theorem pairShown_only : Only [.due, .pins] s (pairShown e pair s) :=
  have h : Only [.due, .pins] s (s.take (.encoderTransition e pair.1 pair.2)) := (take_only s _).grow
  .ite h (h.step (withPins_only _ _))

/-- The node that has taken a pair as the reference of an encoder. -/
def referenceTaken : State :=
  (pairShown e pair s).withMeter (s.meter.setEncoder e { s.meter.encoder e with reference := pair })

variable {e pair s}

theorem exec_encoderTransition (hb : s.begun = true) (he : (s.settings.encoder e).enabled = true) :
    exec (.encoderTransition e pair.1 pair.2) s = .next (takePair e pair (pairShown e pair s)) := by
  have only := pairShown_only e pair s
  have hc : (pairShown e pair s).begun ∧ ((pairShown e pair s).settings.encoder e).enabled = true := by
    rw [only.begun_eq, only.settings_eq]
    exact ⟨hb, he⟩
  exact congrArg Host.Outcome.next (if_pos hc)

theorem takePair_of_count {k : Int} (h : transitionOf (s.meter.encoder e).reference pair = .count k) :
    takePair e pair (pairShown e pair s) = takeCount e (if (s.settings.encoder e).invert then -k else k) (referenceTaken e pair s) := by
  have only := pairShown_only e pair s
  unfold takePair
  rw [only.meter_eq, only.settings_eq]
  dsimp only
  rw [h]
  rfl

theorem takePair_of_invalid (h : transitionOf (s.meter.encoder e).reference pair = .invalid) :
    takePair e pair (pairShown e pair s) = (pairShown e pair s).withMeter (s.meter.setEncoder e
      { s.meter.encoder e with reference := pair, errors := holdInc 255 (s.meter.encoder e).errors }) := by
  have only := pairShown_only e pair s
  unfold takePair
  rw [only.meter_eq]
  dsimp only
  rw [h]

end

/-! ### An encoder's record replaced -/

section
variable (m : Metering) (e : EncoderId) (r : EncoderRecord)

@[simp] theorem Metering.setEncoder_flags : (m.setEncoder e r).flags = m.flags := by cases e <;> rfl

@[simp] theorem Metering.setEncoder_origin : (m.setEncoder e r).origin = m.origin := by cases e <;> rfl

@[simp] theorem Metering.setEncoder_slipA : (m.setEncoder e r).slipA = m.slipA := by cases e <;> rfl

@[simp] theorem Metering.setEncoder_slipB : (m.setEncoder e r).slipB = m.slipB := by cases e <;> rfl

@[simp] theorem Metering.setEncoder_slipRun : (m.setEncoder e r).slipRun = m.slipRun := by cases e <;> rfl

@[simp] theorem Metering.setEncoder_lastSlip : (m.setEncoder e r).lastSlip = m.lastSlip := by cases e <;> rfl

@[simp] theorem Metering.setEncoder_atRest : (m.setEncoder e r).atRest = m.atRest := by cases e <;> rfl

end

/-! ### The count, the slip check and the comparison as stages (R23, R31, R140) -/

section
variable (e : EncoderId) (k : Int) (s : State)

/-- The node that has accumulated a count. -/
def countTaken : State :=
  setFlagIf (accumulate (s.settings.encoder e) k (s.meter.encoder e)).2 (meterOrigin e)
    (s.withMeter (s.meter.setEncoder e (accumulate (s.settings.encoder e) k (s.meter.encoder e)).1))

/-- The slip check, where the count was one of A and starts it. -/
def slipJudged : State := if e = .a ∧ s.slipDue = true then checkSlip s else s

/-- The comparison with the target, where the line length is no longer `l`. -/
def lengthJudged (l : Int) : State := if s.lineLength = l then s else compareTarget s

theorem takeCount_eq : takeCount e k s = lengthJudged (slipJudged e (countTaken e k s)) s.lineLength := rfl

theorem countTaken_only : Only [.due, .meter] s (countTaken e k s) :=
  (withMeter_only s _).after (setFlagIf_only _ _ _)

theorem countTaken_meter : ∃ flags origin, (countTaken e k s).meter =
    { s.meter.setEncoder e (accumulate (s.settings.encoder e) k (s.meter.encoder e)).1 with flags := flags, origin := origin } :=
  MeterKept.meter (setFlagIf_meter_frame _ _ _)

theorem slipJudged_only : Only [.due, .meter] s (slipJudged e s) := .ite (checkSlip_only s) (.refl _ s)

theorem slipJudged_of_not {e : EncoderId} {s : State} (h : ¬ (e = .a ∧ s.slipDue = true)) : slipJudged e s = s := if_neg h

theorem slipJudged_of {e : EncoderId} {s : State} (h : e = .a ∧ s.slipDue = true) : slipJudged e s = checkSlip s := if_pos h

theorem checkSlip_meter : ∃ flags origin run, (checkSlip s).meter =
    { s.meter with
      flags := flags
      origin := origin
      slipA := s.meter.encA.length
      slipB := s.meter.encB.length
      lastSlip := min s.slip 65535
      slipRun := run } := by
  obtain ⟨flags, origin, h⟩ := MeterKept.meter (overFlag_meter_frame .slip s.slip s)
  rw [checkSlip_eq]
  dsimp only [State.emit_meter, State.withMeter_meter]
  rw [h]
  exact ⟨_, _, _, rfl⟩

theorem slipDue_iff : s.slipDue = true ↔ s.settings.encA.enabled = true ∧ s.settings.encB.enabled = true ∧
    (s.settings.slipStep : Int) * 1000 ≤ s.meter.encA.length - s.meter.slipA := by
  simp [State.slipDue, and_assoc]

end

/-! ### The end of a coil at its target (R140, R142) -/

section
variable (s : State) (r : CoilRecord)

/-- The segment of an OPEN record is compared with its target, the line length having changed from `l`. -/
def State.Compares (l : Int) : Prop :=
  s.coil.openSlot = some r ∧ s.settings.coil = true ∧ r.state = .opened ∧ s.lineLength ≠ l

theorem judgeCut_due_subset : s.due ⊆ (judgeCut r s).due := by
  unfold judgeCut
  split
  · exact fun e he => List.mem_append_left _ he
  · exact fun e he => he

theorem endCoil_due_subset (reason : EndReason) : s.due ⊆ (endCoil reason r s).due :=
  fun _ he => judgeCut_due_subset _ _ (List.mem_append_left _ he)

theorem endCoil_effect (reason : EndReason) :
    .coilHoldSet ∈ (endCoil reason r s).due ∧ (reason = .target → .raiseCause .coilEnd ∈ (endCoil reason r s).due) ∧
      ∃ q, (endCoil reason r s).coil.openSlot = some q ∧ q.coil = r.coil ∧ q.endReason = some reason ∧
        (s.cutMayStart = true → q.state = .cutting) ∧ (¬ s.cutMayStart = true → q.state = .ending) := by
  set r1 : CoilRecord := { r with state := .ending, endReason := some reason } with hr1
  set s1 := (s.setOpen (some r1)).emit ((if reason = .target then [.raiseCause .coilEnd] else []) ++ [.coilHoldSet]) with hs1
  have rest : s1.cutMayStart = s.cutMayStart := rfl
  have hold : .coilHoldSet ∈ s1.due := by simp [hs1]
  have raised (ht : reason = .target) : .raiseCause .coilEnd ∈ s1.due := by simp [hs1, ht]
  have hx : endCoil reason r s = judgeCut r1 s1 := rfl
  rw [hx, ← rest]
  by_cases hm : s1.cutMayStart = true
  · have hj : judgeCut r1 s1 = startCut r1 s1 := if_pos hm
    rw [hj]
    exact ⟨List.mem_append_left _ hold, fun ht => List.mem_append_left _ (raised ht), { r1 with state := .cutting }, rfl, rfl, rfl,
      fun _ => rfl, fun h => absurd hm h⟩
  · have hj : judgeCut r1 s1 = restAgain s1 := if_neg hm
    rw [hj]
    exact ⟨hold, raised, r1, rfl, rfl, rfl, fun h => absurd h hm, fun _ => rfl⟩

variable {s r} {l : Int}

theorem lengthJudged_of_not (hb : s.begun = true) (h : ∀ r, ¬ s.Compares r l) : lengthJudged s l = s := by
  unfold lengthJudged compareTarget
  split
  · rfl
  · rename_i hl
    split
    · rename_i r hr
      exact if_neg fun hc => h r ⟨hr, by simpa [State.coilNode, hb] using hc.1, hc.2, hl⟩
    · rfl

theorem lengthJudged_of (hb : s.begun = true) (h : s.Compares r l) : lengthJudged s l =
    if r.target ≤ mmOf (s.segmentOf r) then endCoil .target r (convertFlag (s.segmentOf r) s) else convertFlag (s.segmentOf r) s := by
  obtain ⟨hr, hc, ho, hl⟩ := h
  unfold lengthJudged compareTarget
  rw [if_neg hl, hr]
  exact if_pos ⟨by simp [State.coilNode, hb, hc], ho⟩

/-- After the flag of the segment, the comparison changes nothing of the metering unit. -/
theorem lengthJudged_meter (hb : s.begun = true) (h : s.Compares r l) :
    (lengthJudged s l).meter = (convertFlag (s.segmentOf r) s).meter ∧ (convertFlag (s.segmentOf r) s).due ⊆ (lengthJudged s l).due := by
  rw [lengthJudged_of hb h]
  split
  · have only := endCoil_only (convertFlag (s.segmentOf r) s) .target r
    exact ⟨only.meter_eq, endCoil_due_subset _ _ _⟩
  · exact ⟨rfl, fun _ he => he⟩

theorem lengthJudged_meterKept (hb : s.begun = true) : MeterKept s (lengthJudged s l) := by
  by_cases h : ∃ r, s.Compares r l
  · obtain ⟨r, hr⟩ := h
    exact (convertFlag_meterKept (s.segmentOf r) s).trans (.of_eq (lengthJudged_meter hb hr).1)
  · rw [lengthJudged_of_not hb (not_exists.1 h)]
    exact rfl

theorem lengthJudged_flagged (hb : s.begun = true) (h : s.Compares r l) (hn : s.segmentOf r < 0) :
    Flagged .rng .convert s (lengthJudged s l) :=
  have hm := lengthJudged_meter hb h
  (convertFlag_flagged hn s).kept (congrArg Metering.flags hm.1) (congrArg Metering.origin hm.1) fun _ he => hm.2 he

theorem lengthJudged_unflagged (hb : s.begun = true) (h : ∀ r, s.Compares r l → 0 ≤ s.segmentOf r) :
    Unflagged s (lengthJudged s l) := by
  by_cases hc : ∃ r, s.Compares r l
  · obtain ⟨r, hr⟩ := hc
    have hm := (lengthJudged_meter hb hr).1
    rw [convertFlag_of_nonneg (h r hr)] at hm
    exact .of_meter hm
  · rw [lengthJudged_of_not hb (not_exists.1 hc)]
    exact ⟨rfl, rfl⟩

/-- A comparison that finds no target reached keeps the coil builder. -/
theorem lengthJudged_coil (hb : s.begun = true) (h : ∀ r, s.Compares r l → ¬ r.target ≤ mmOf (s.segmentOf r)) :
    (lengthJudged s l).coil = s.coil := by
  by_cases hc : ∃ r, s.Compares r l
  · obtain ⟨r, hr⟩ := hc
    rw [lengthJudged_of hb hr, if_neg (h r hr)]
    exact (convertFlag_only s _).coil_eq
  · rw [lengthJudged_of_not hb (not_exists.1 hc)]

/-- A comparison that finds the target reached ends the coil (R140). -/
theorem lengthJudged_reached (hb : s.begun = true) (h : s.Compares r l) (ht : r.target ≤ mmOf (s.segmentOf r)) :
    .coilHoldSet ∈ (lengthJudged s l).due ∧ .raiseCause .coilEnd ∈ (lengthJudged s l).due ∧
      ∃ q, (lengthJudged s l).coil.openSlot = some q ∧ q.coil = r.coil ∧ q.endReason = some .target ∧
        (s.cutMayStart = true → q.state = .cutting) ∧ (¬ s.cutMayStart = true → q.state = .ending) := by
  have rest : (convertFlag (s.segmentOf r) s).cutMayStart = s.cutMayStart := by
    unfold State.cutMayStart
    rw [(convertFlag_meterKept _ s).atRest, (convertFlag_only s _).coil_eq]
  obtain ⟨hold, raised, q⟩ := endCoil_effect (convertFlag (s.segmentOf r) s) r .target
  rw [lengthJudged_of hb h, if_pos ht, ← rest]
  exact ⟨hold, raised rfl, q⟩

end

/-! ### The arithmetic status after the three stages (R35; log entry 43) -/

section
variable {s s1 s2 t : State} {o : Origin} {above below slipped behind : Prop}

/-- A stage that asks for a flag under a condition. -/
def FlagStage (c : Prop) (flag : ArithFlag) (o : Origin) (s t : State) : Prop :=
  (c → Flagged flag o s t) ∧ (¬ c → Unflagged s t)

/-- What a stage that may set RNG does to the arithmetic status. -/
theorem FlagStage.status {c : Prop} (h : FlagStage c .rng o s t) :
    (t.meter.flags.ovf = s.meter.flags.ovf ∧ t.meter.flags.unf = s.meter.flags.unf ∧ t.meter.flags.dvz = s.meter.flags.dvz ∧
      (t.meter.flags.rng = true ↔ s.meter.flags.rng = true ∨ c)) ∧
    (t.meter.flags.any = true ↔ s.meter.flags.any = true ∨ c) ∧
    (s.meter.flags.any = true ∨ ¬ c → t.meter.origin = s.meter.origin) ∧ (s.meter.flags.any = false → c → t.meter.origin = o) := by
  by_cases hc : c
  · obtain ⟨flags, origin, -⟩ := h.1 hc
    rw [flags, origin, ArithFlags.any_set]
    exact ⟨⟨rfl, rfl, rfl, iff_of_true rfl (.inr hc)⟩, iff_of_true rfl (.inr hc), fun hs => if_pos (hs.resolve_right (not_not.2 hc)),
      fun hs _ => if_neg (by simp [hs])⟩
  · obtain ⟨flags, origin⟩ := h.2 hc
    rw [flags, origin]
    exact ⟨⟨rfl, rfl, rfl, (or_iff_left hc).symm⟩, (or_iff_left hc).symm, fun _ => rfl, fun _ h => absurd h hc⟩

/-- The flags of a count, a slip check and a conversion in succession, and the first origin among them. -/
theorem flags_of_stages
    (h1 : (above → Flagged .ovf o s s1) ∧ (below → Flagged .unf o s s1) ∧ (¬ above → ¬ below → Unflagged s s1))
    (hx : above → ¬ below) (h2 : FlagStage slipped .rng .slip s1 s2) (h3 : FlagStage behind .rng .convert s2 t) :
    (t.meter.flags.ovf = true ↔ s.meter.flags.ovf = true ∨ above) ∧
      (t.meter.flags.unf = true ↔ s.meter.flags.unf = true ∨ below) ∧ t.meter.flags.dvz = s.meter.flags.dvz ∧
      (t.meter.flags.rng = true ↔ s.meter.flags.rng = true ∨ slipped ∨ behind) ∧
      (s.meter.flags.any = true → t.meter.origin = s.meter.origin) ∧
      (s.meter.flags.any = false → ¬ above → ¬ below →
        (slipped → t.meter.origin = .slip) ∧ (¬ slipped → behind → t.meter.origin = .convert) ∧
        (¬ slipped → ¬ behind → t.meter.origin = s.meter.origin)) ∧
      (above ∨ below → t.meter.origin = if s.meter.flags.any = true then s.meter.origin else o) := by
  obtain ⟨hab, hbe, hno⟩ := h1
  obtain ⟨⟨ovf2, unf2, dvz2, rng2⟩, any2, same2, first2⟩ := h2.status
  obtain ⟨⟨ovf3, unf3, dvz3, rng3⟩, any3, same3, first3⟩ := h3.status
  rw [ovf3, unf3, dvz3, rng3, ovf2, unf2, dvz2, rng2]
  have later (h : s1.meter.flags.any = true) : t.meter.origin = s1.meter.origin :=
    (same3 (.inl (any2.2 (.inl h)))).trans (same2 (.inl h))
  by_cases ha : above
  · obtain ⟨flags, origin, -⟩ := hab ha
    have any1 : s1.meter.flags.any = true := by rw [flags]; exact ArithFlags.any_set _ _
    rw [later any1, flags, origin]
    exact ⟨by simp [ArithFlags.set, ha], by simp [ArithFlags.set, hx ha], rfl, by simp [ArithFlags.set, or_assoc], fun h => if_pos h,
      fun _ h => absurd ha h, fun _ => rfl⟩
  · by_cases hb : below
    · obtain ⟨flags, origin, -⟩ := hbe hb
      have any1 : s1.meter.flags.any = true := by rw [flags]; exact ArithFlags.any_set _ _
      rw [later any1, flags, origin]
      exact ⟨by simp [ArithFlags.set, ha], by simp [ArithFlags.set, hb], rfl, by simp [ArithFlags.set, or_assoc], fun h => if_pos h,
        fun _ _ h => absurd hb h, fun _ => rfl⟩
    · obtain ⟨flags, origin⟩ := hno ha hb
      rw [flags] at later any2 same2 first2 ⊢
      rw [origin] at later same2
      refine ⟨by simp [ha], by simp [hb], rfl, by rw [or_assoc], later, fun hn _ _ => ⟨fun hs => ?_, fun hs hc => ?_, fun hs hc => ?_⟩,
        fun h => absurd h (not_or.2 ⟨ha, hb⟩)⟩
      · rw [same3 (.inl (any2.2 (.inr hs))), first2 hn hs]
      · exact first3 (by simpa [hn, hs] using any2) hc
      · rw [same3 (.inr hc), same2 (.inr hs)]

end
/-! ### One count of a transition -/

/-- A slip check changes nothing of the metering unit but the arithmetic status and the slip fields. -/
theorem slipJudged_meter (e : EncoderId) (s : State) : ∃ flags origin a b last run, (slipJudged e s).meter =
    { s.meter with flags := flags, origin := origin, slipA := a, slipB := b, lastSlip := last, slipRun := run } := by
  unfold slipJudged
  split
  · obtain ⟨flags, origin, run, h⟩ := checkSlip_meter s
    exact ⟨_, _, _, _, _, _, h⟩
  · exact ⟨_, _, _, _, _, _, rfl⟩

section
variable {e : EncoderId} {k : Int} {s : State}

theorem countTaken_stage :
    (lengthTop < countedLength (s.settings.encoder e) k (s.meter.encoder e) → Flagged .ovf (meterOrigin e) s (countTaken e k s)) ∧
    (countedLength (s.settings.encoder e) k (s.meter.encoder e) < lengthBottom → Flagged .unf (meterOrigin e) s (countTaken e k s)) ∧
    (¬ lengthTop < countedLength (s.settings.encoder e) k (s.meter.encoder e) →
      ¬ countedLength (s.settings.encoder e) k (s.meter.encoder e) < lengthBottom → Unflagged s (countTaken e k s)) := by
  have flagged (f : ArithFlag) (r : EncoderRecord) :
      Flagged f (meterOrigin e) s (setFlag f (meterOrigin e) (s.withMeter (s.meter.setEncoder e r))) := by
    cases e <;> exact setFlag_flagged (s.withMeter _) f _
  unfold countTaken
  refine ⟨fun h => ?_, fun h => ?_, fun h h' => ?_⟩
  · rw [accumulate_of_above h]
    exact flagged _ _
  · rw [accumulate_of_below h]
    exact flagged _ _
  · rw [accumulate_of_within (Int.not_lt.1 h') (Int.not_lt.1 h)]
    cases e <;> exact ⟨rfl, rfl⟩

theorem slipJudged_stage : FlagStage ((e = .a ∧ s.slipDue = true) ∧ 65535 < s.slip) .rng .slip s (slipJudged e s) := by
  by_cases h : e = .a ∧ s.slipDue = true
  · rw [slipJudged_of h]
    exact ⟨fun hs => checkSlip_flagged hs.2, fun hs => checkSlip_unflagged (Nat.not_lt.1 fun ho => hs ⟨h, ho⟩)⟩
  · rw [slipJudged_of_not h]
    exact ⟨fun hs => absurd hs.1 h, fun _ => ⟨rfl, rfl⟩⟩

theorem lengthJudged_stage {l : Int} (hb : s.begun = true) :
    FlagStage (∃ r, s.Compares r l ∧ s.segmentOf r < 0) .rng .convert s (lengthJudged s l) :=
  ⟨fun ⟨_, hr, hn⟩ => lengthJudged_flagged hb hr hn,
    fun h => lengthJudged_unflagged hb fun r hr => Int.not_lt.1 fun hn => h ⟨r, hr, hn⟩⟩

variable (hb : s.begun = true)
include hb

theorem takeCount_fields (e : EncoderId) (k : Int) : ∃ flags origin a b last run, (takeCount e k s).meter =
    { s.meter.setEncoder e (accumulate (s.settings.encoder e) k (s.meter.encoder e)).1 with
      flags := flags, origin := origin, slipA := a, slipB := b, lastSlip := last, slipRun := run } := by
  obtain ⟨_, _, h1⟩ := countTaken_meter e k s
  obtain ⟨_, _, a, b, last, run, h2⟩ := slipJudged_meter e (countTaken e k s)
  have begun : (slipJudged e (countTaken e k s)).begun = true :=
    ((countTaken_only e k s).trans (slipJudged_only _ _)).begun_eq.trans hb
  obtain ⟨_, _, h3⟩ := (lengthJudged_meterKept (l := s.lineLength) begun).meter
  rw [takeCount_eq, h3, h2, h1]
  exact ⟨_, _, _, _, _, _, rfl⟩

end

/-- A count of A at which its advance has reached the slip step (R31). -/
def SlipChecked (e : EncoderId) (s t : State) : Prop :=
  e = .a ∧ s.settings.encA.enabled = true ∧ s.settings.encB.enabled = true ∧
    (s.settings.slipStep : Int) * 1000 ≤ t.meter.encA.length - s.meter.slipA

/-- The slip of the advances since the checkpoints (R32). -/
def slipBetween (s t : State) : Nat := slipOf (t.meter.encA.length - s.meter.slipA) (t.meter.encB.length - s.meter.slipB)

/-- The OPEN record is compared with its target at a line length that has changed (R140). -/
def TargetJudged (s t : State) (r : CoilRecord) : Prop :=
  s.coil.openSlot = some r ∧ s.settings.coil = true ∧ r.state = .opened ∧ t.lineLength ≠ s.lineLength

section
variable {e : EncoderId} {k : Int} {s t : State} (hb : s.begun = true) (ht : t = takeCount e k s)
include hb ht

/-- What the stages of a count compute on is what the count leaves. -/
theorem takeCount_stages : let s1 := countTaken e k s; let s2 := slipJudged e s1
    ((e = .a ∧ s1.slipDue = true) ↔ SlipChecked e s t) ∧ s1.slip = slipBetween s t ∧ t.lineLength = s2.lineLength ∧
      s2.begun = true ∧ s2.coil = s.coil ∧ s2.cutMayStart = s.cutMayStart ∧ (∀ r, s2.Compares r s.lineLength ↔ TargetJudged s t r) ∧
      s1.meter.encA = t.meter.encA ∧ s1.meter.encB = t.meter.encB := by
  intro s1 s2
  obtain ⟨_, _, h1⟩ := countTaken_meter e k s
  obtain ⟨_, _, _, _, _, _, h2⟩ := slipJudged_meter e s1
  obtain ⟨_, _, _, _, _, _, h3⟩ := takeCount_fields hb e k
  have only1 : Only [.due, .meter] s s1 := countTaken_only e k s
  have only2 : Only [.due, .meter] s s2 := only1.trans (slipJudged_only e s1)
  have only3 : Only [.due, .meter, .coil] s t := by rw [ht]; exact takeCount_only s e k
  have hA : s1.meter.encA = t.meter.encA := by rw [ht, h3, h1]
  have hB : s1.meter.encB = t.meter.encB := by rw [ht, h3, h1]
  have slipA : s1.meter.slipA = s.meter.slipA := by rw [h1]; exact Metering.setEncoder_slipA _ _ _
  have slipB : s1.meter.slipB = s.meter.slipB := by rw [h1]; exact Metering.setEncoder_slipB _ _ _
  have line : t.lineLength = s2.lineLength := by
    unfold State.lineLength
    rw [only3.settings_eq, only2.settings_eq, h2, hA, hB]
  have rest : s2.meter.atRest = s.meter.atRest := by
    rw [h2, h1]
    exact Metering.setEncoder_atRest _ _ _
  refine ⟨?_, ?_, line, only2.begun_eq.trans hb, only2.coil_eq, ?_, fun r => ?_, hA, hB⟩
  · rw [slipDue_iff, only1.settings_eq, hA, slipA]
    exact Iff.rfl
  · rw [State.slip, slipBetween, hA, hB, slipA, slipB]
  · rw [State.cutMayStart, State.cutMayStart, rest, only2.coil_eq]
  · rw [State.Compares, TargetJudged, only2.coil_eq, only2.settings_eq, line]

/-- The slip fields after a count (R31, R32). -/
theorem takeCount_slip :
    (¬ SlipChecked e s t → t.meter.slipA = s.meter.slipA ∧ t.meter.slipB = s.meter.slipB ∧ t.meter.slipRun = s.meter.slipRun ∧
      t.meter.lastSlip = s.meter.lastSlip) ∧
    (SlipChecked e s t → t.meter.slipA = t.meter.encA.length ∧ t.meter.slipB = t.meter.encB.length ∧
      t.meter.lastSlip = min (slipBetween s t) 65535) := by
  obtain ⟨checked, slip, -, begun, -, -, -, hA, hB⟩ := takeCount_stages hb ht
  obtain ⟨_, _, h1⟩ := countTaken_meter e k s
  obtain ⟨_, _, h3⟩ := (lengthJudged_meterKept (l := s.lineLength) begun).meter
  rw [← takeCount_eq, ← ht] at h3
  refine ⟨fun h => ?_, fun h => ?_⟩
  · rw [h3, slipJudged_of_not (mt checked.1 h), h1]
    simp
  · obtain ⟨_, _, _, h2⟩ := checkSlip_meter (countTaken e k s)
    rw [← hA, ← hB, ← slip, h3, slipJudged_of (checked.2 h), h2]
    exact ⟨rfl, rfl, rfl⟩

/-- The arithmetic status after a count (R24, R30, R32, R35; log entry 43). -/
theorem takeCount_status : let l := countedLength (s.settings.encoder e) k (s.meter.encoder e)
    let above := lengthTop < l
    let below := l < lengthBottom
    let slipped := SlipChecked e s t ∧ 65535 < slipBetween s t
    let behind := ∃ r, TargetJudged s t r ∧ t.segmentOf r < 0
    (t.meter.flags.ovf = true ↔ s.meter.flags.ovf = true ∨ above) ∧
      (t.meter.flags.unf = true ↔ s.meter.flags.unf = true ∨ below) ∧ t.meter.flags.dvz = s.meter.flags.dvz ∧
      (t.meter.flags.rng = true ↔ s.meter.flags.rng = true ∨ slipped ∨ behind) ∧
      (s.meter.flags.any = true → t.meter.origin = s.meter.origin) ∧
      (s.meter.flags.any = false → ¬ above → ¬ below →
        (slipped → t.meter.origin = .slip) ∧ (¬ slipped → behind → t.meter.origin = .convert) ∧
        (¬ slipped → ¬ behind → t.meter.origin = s.meter.origin)) ∧
      (above ∨ below → t.meter.origin = if s.meter.flags.any = true then s.meter.origin else meterOrigin e) := by
  obtain ⟨checked, slip, line, begun, -, -, compares, -, -⟩ := takeCount_stages hb ht
  have stage2 := slipJudged_stage (e := e) (s := countTaken e k s)
  have stage3 := lengthJudged_stage (l := s.lineLength) begun
  simp only [State.segmentOf] at stage3 ⊢
  rw [checked, slip] at stage2
  simp only [compares, ← line] at stage3
  rw [← takeCount_eq, ← ht] at stage3
  exact flags_of_stages countTaken_stage (fun h h' => absurd (h.trans h') (by decide)) stage2 stage3

/-- A target that a count reaches ends the coil, and one that it does not leaves the coil builder (R140, R142). -/
theorem takeCount_coil :
    (∀ r, TargetJudged s t r → r.target ≤ mmOf (t.segmentOf r) →
      .coilHoldSet ∈ t.due ∧ .raiseCause .coilEnd ∈ t.due ∧ ∃ q, t.coil.openSlot = some q ∧ q.coil = r.coil ∧
        q.endReason = some .target ∧ (s.cutMayStart = true → q.state = .cutting) ∧ (¬ s.cutMayStart = true → q.state = .ending)) ∧
    ((∀ r, TargetJudged s t r → ¬ r.target ≤ mmOf (t.segmentOf r)) → t.coil = s.coil) := by
  obtain ⟨-, -, line, begun, coil, rest, compares, -, -⟩ := takeCount_stages hb ht
  have reached := fun r => lengthJudged_reached (r := r) (l := s.lineLength) begun
  have kept := lengthJudged_coil (l := s.lineLength) begun
  simp only [State.segmentOf] at reached kept ⊢
  simp only [compares, ← line, rest] at reached
  simp only [compares, ← line] at kept
  rw [← takeCount_eq, ← ht] at kept reached
  exact ⟨reached, fun h => (kept h).trans coil⟩

omit hb in
theorem takeCount_encoder (hb : s.begun = true) :
    t.meter.encoder e = (accumulate (s.settings.encoder e) k (s.meter.encoder e)).1 := by
  obtain ⟨_, _, _, _, _, _, h⟩ := takeCount_fields hb e k
  rw [ht, h]
  cases e <;> rfl

end

/-- An encoder's record by where a count would move it (R23, R24). -/
theorem accumulate_cases (g : EncoderSettings) (k : Int) (e : EncoderRecord) : let q := (accumulate g k e).1
    q.reference = e.reference ∧ q.errors = e.errors ∧ q.residue = leftResidue g k e ∧
      (lengthTop < countedLength g k e → q.length = lengthTop ∧ q.limitReached = true) ∧
      (countedLength g k e < lengthBottom → q.length = lengthBottom ∧ q.limitReached = true) ∧
      (lengthBottom ≤ countedLength g k e → countedLength g k e ≤ lengthTop →
        q.length = countedLength g k e ∧ q.limitReached = e.limitReached) := by
  have order : lengthBottom ≤ lengthTop := by decide
  rcases lt_or_ge lengthTop (countedLength g k e) with hu | hu
  · rw [accumulate_of_above hu]
    exact ⟨rfl, rfl, rfl, fun _ => ⟨rfl, rfl⟩, fun h => absurd (hu.trans h) (by omega), fun _ h => absurd hu (by omega)⟩
  · rcases lt_or_ge (countedLength g k e) lengthBottom with hl | hl
    · rw [accumulate_of_below hl]
      exact ⟨rfl, rfl, rfl, fun h => absurd hu (by omega), fun _ => ⟨rfl, rfl⟩, fun h => absurd hl (by omega)⟩
    · rw [accumulate_of_within hl hu]
      exact ⟨rfl, rfl, rfl, fun h => absurd hu (by omega), fun h => absurd hl (by omega), fun _ _ => ⟨rfl, rfl⟩⟩

/-- Away from the limits, L × D + r moves by k × N. -/
theorem accumulate_exact {g : EncoderSettings} (k : Int) (e : EncoderRecord) (hd : 0 < g.d)
    (hl : lengthBottom < (accumulate g k e).1.length) (hu : (accumulate g k e).1.length < lengthTop) :
    (accumulate g k e).1.length * g.d + (accumulate g k e).1.residue = e.length * g.d + e.residue + k * g.n := by
  obtain ⟨-, -, residue, above, below, within⟩ := accumulate_cases g k e
  have hlo : lengthBottom ≤ countedLength g k e := Int.not_lt.1 fun h => absurd (below h).1 hl.ne'
  have hhi : countedLength g k e ≤ lengthTop := Int.not_lt.1 fun h => absurd (above h).1 hu.ne
  rw [(within hlo hhi).1, residue, (leftResidue_spec hd).1, countedLength, scaledCount]
  ring

theorem accumulate_bounds (g : EncoderSettings) (k : Int) (e : EncoderRecord) :
    lengthBottom ≤ (accumulate g k e).1.length ∧ (accumulate g k e).1.length ≤ lengthTop := by
  obtain ⟨-, -, -, above, below, within⟩ := accumulate_cases g k e
  have order : lengthBottom ≤ lengthTop := by decide
  rcases lt_or_ge lengthTop (countedLength g k e) with hu | hu
  · rw [(above hu).1]
    exact ⟨order, le_rfl⟩
  · rcases lt_or_ge (countedLength g k e) lengthBottom with hl | hl
    · rw [(below hl).1]
      exact ⟨le_rfl, order⟩
    · rw [(within hl hu).1]
      exact ⟨hl, hu⟩

theorem slipBetween_eq {s t : State} (h : 0 < t.meter.encA.length - s.meter.slipA) : (slipBetween s t : Int) =
    |(t.meter.encA.length - s.meter.slipA) - (t.meter.encB.length - s.meter.slipB)| * 1000 /
      (t.meter.encA.length - s.meter.slipA) := by
  rw [slipBetween, slipOf, perMille_eq h, abs_sub_comm]

theorem slipBetween_over {s t : State} (h : 0 < t.meter.encA.length - s.meter.slipA) : 65535 < slipBetween s t ↔
    65535 < |(t.meter.encA.length - s.meter.slipA) - (t.meter.encB.length - s.meter.slipB)| * 1000 /
      (t.meter.encA.length - s.meter.slipA) := by
  rw [← slipBetween_eq h]
  norm_cast

theorem meterOrigin_eq (e : EncoderId) : meterOrigin e = if e = .a then .meterA else .meterB := by cases e <;> rfl

section
variable (e : EncoderId) (pair : Bool × Bool) (s : State)

theorem referenceTaken_only : Only [.due, .pins, .meter] s (referenceTaken e pair s) :=
  ((pairShown_only e pair s).grow (m := [.due, .pins, .meter])).step (withMeter_only _ _)

theorem referenceTaken_encoder : (referenceTaken e pair s).meter.encoder e = { s.meter.encoder e with reference := pair } := by
  cases e <;> rfl

theorem referenceTaken_lineLength : (referenceTaken e pair s).lineLength = s.lineLength := by
  unfold State.lineLength
  rw [(referenceTaken_only e pair s).settings_eq]
  cases e <;> rfl

theorem referenceTaken_fields : let m := (referenceTaken e pair s).meter
    m.flags = s.meter.flags ∧ m.origin = s.meter.origin ∧ m.slipA = s.meter.slipA ∧ m.slipB = s.meter.slipB ∧
      m.slipRun = s.meter.slipRun ∧ m.lastSlip = s.meter.lastSlip ∧ m.atRest = s.meter.atRest := by
  cases e <;> exact ⟨rfl, rfl, rfl, rfl, rfl, rfl, rfl⟩

end

/-- Settles O16: a count in three stages, each with its flag, and an error of an invalid pair. -/
theorem transitionsCountAndKeepTheResidue : Obligations.TransitionsCountAndKeepTheResidue := by
  intro e line1 line2 s hb he forward was
  have hx := exec_encoderTransition (pair := (line1, line2)) hb he
  refine ⟨fun k hd hk => ?_, fun h1 h2 => ?_⟩
  · have move : transitionOf (s.meter.encoder e).reference (line1, line2) = .count k := by
      obtain ⟨rfl, h⟩ | ⟨rfl, h⟩ := hk
      · exact (transitionOf_forward h).1
      · exact (transitionOf_forward h).2
    rw [takePair_of_count move] at hx
    set kk : Int := if (s.settings.encoder e).invert then -k else k with hkk
    set u := referenceTaken e (line1, line2) s with hu
    have uOnly : Only [.due, .pins, .meter] s u := referenceTaken_only e (line1, line2) s
    have ub : u.begun = true := uOnly.begun_eq.trans hb
    have uSettings : u.settings = s.settings := uOnly.settings_eq
    have uCoil : u.coil = s.coil := uOnly.coil_eq
    have uEnc : u.meter.encoder e = { s.meter.encoder e with reference := (line1, line2) } := referenceTaken_encoder ..
    have uLine : u.lineLength = s.lineLength := referenceTaken_lineLength ..
    obtain ⟨uFlags, uOrigin, uSlipA, uSlipB, uSlipRun, uLast, uRest⟩ := referenceTaken_fields e (line1, line2) s
    rw [← hu] at uFlags uOrigin uSlipA uSlipB uSlipRun uLast uRest
    set t := takeCount e kk u with ht
    have only : Only [.due, .pins, .meter, .coil] s t :=
      (uOnly.grow (m := [.due, .pins, .meter, .coil])).step (takeCount_only u e kk)
    have record := takeCount_encoder ht ub
    have slips := takeCount_slip ub ht
    have status := takeCount_status ub ht
    have coil := takeCount_coil ub ht
    clear_value t u kk
    rw [uSettings, uEnc] at record status
    obtain ⟨reference, errors, residue, above, below, within⟩ := accumulate_cases (s.settings.encoder e) kk
      { s.meter.encoder e with reference := (line1, line2) }
    have exact := accumulate_exact (g := s.settings.encoder e) kk { s.meter.encoder e with reference := (line1, line2) } hd
    have bounds := accumulate_bounds (s.settings.encoder e) kk { s.meter.encoder e with reference := (line1, line2) }
    rw [← record] at reference errors residue above below within exact bounds
    obtain ⟨residueEq, residueLt⟩ := leftResidue_spec (k := kk) (e := { s.meter.encoder e with reference := (line1, line2) }) hd
    simp only [SlipChecked, TargetJudged, uSettings, uSlipA, uSlipB, uSlipRun, uLast, uCoil, uLine] at slips status coil
    have mayStart : u.cutMayStart = true ↔ s.meter.atRest = true ∧ ∀ c, s.coil.closingSlot = some c → c.state ≠ .gathering := by
      rw [State.cutMayStart_iff, uRest, uCoil]
    have slipOfAdvance (hp : 0 < t.meter.encA.length - s.meter.slipA) : (slipBetween u t : Int) =
        |(t.meter.encA.length - s.meter.slipA) - (t.meter.encB.length - s.meter.slipB)| * 1000 /
          (t.meter.encA.length - s.meter.slipA) := by
      rw [slipBetween_eq (by rw [uSlipA]; exact hp), uSlipA, uSlipB]
    have slipOver (hp : 0 < t.meter.encA.length - s.meter.slipA) :=
      slipBetween_over (s := u) (t := t) (by rw [uSlipA]; exact hp)
    rw [uSlipA, uSlipB] at slipOver
    obtain ⟨ovf, unf, dvz, rng, origin, first, held⟩ := status
    refine ⟨t, hx, only, reference, errors, ?_, ?_, ?_, ?_, within, exact, bounds.1, bounds.2, ?_, ?_, ?_, ?_, ?_⟩
    · rw [residue]
      exact residueLt
    · rw [residue]
      exact residueEq
    · exact fun h => ⟨(above h).1, ovf.2 (.inr h), (above h).2, by rw [held (.inl h), uFlags, uOrigin, meterOrigin_eq]⟩
    · exact fun h => ⟨(below h).1, unf.2 (.inr h), (below h).2, by rw [held (.inr h), uFlags, uOrigin, meterOrigin_eq]⟩
    · exact slips.1
    · exact fun hc => ⟨(slips.2 hc).1, (slips.2 hc).2.1, fun hp => by rw [(slips.2 hc).2.2, ← slipOfAdvance hp]; push_cast; rfl⟩
    · rintro r hr ⟨hcoil, ho, hl, hreach⟩
      obtain ⟨hold, raised, q, hq, hname, hreason, hrest, hwait⟩ := coil.1 r ⟨hr, hcoil, ho, hl⟩ hreach
      exact ⟨raised, hold, q, hq, hname, hreason, fun h => hrest (mayStart.2 h), fun h => hwait (mt mayStart.1 h)⟩
    · intro hp
      have slipped := and_congr_right fun hc => slipOver (hp hc)
      simp only [State.segmentOf, sub_neg, and_assoc] at ovf unf dvz rng origin first slipped ⊢
      rw [slipped, uFlags] at rng
      rw [slipped, uFlags, uOrigin] at first
      rw [uFlags] at ovf unf dvz
      rw [uFlags, uOrigin] at origin
      exact ⟨ovf, unf, dvz, rng, origin, first⟩
    · exact fun h => coil.2 fun r hr hreach => h r hr.1 ⟨hr.2.1, hr.2.2.1, hr.2.2.2, hreach⟩
  · rw [takePair_of_invalid (transitionOf_both h1 h2)] at hx
    exact ⟨_, hx, ((pairShown_only e (line1, line2) s).grow (m := [.due, .pins, .meter])).step (withMeter_only _ _), rfl⟩

end Sys2Proof.Machine
end

section
/-! SUPPORT. Notes in the OPEN record and the tallies of a node without COIL (R146 to R148): what a note and its offset do, the mark of a
splice, the forming tallies and their parts, and the claims about them. -/

-- One declaration at a time, as in the frames: side by side these proofs ask for more threads than the memory limit allows.
set_option Elab.async false

namespace Sys2Proof.Machine

/-! ### The offset of an entry and its flag (R30, R146, R147) -/

/-- The arithmetic status after an entry of a list that holds `n` was taken by a record: an offset that is negative and finds room
sets RNG with origin CONVERT, and any other leaves the metering unit. -/
def OffsetTaken (r : CoilRecord) (n : Nat) (s t : State) : Prop :=
  (r.state.logs = true → n < 8 → s.lineLength < r.startMicrometres → Flagged .rng .convert s t) ∧
    (r.state.logs = false ∨ 8 ≤ n ∨ r.startMicrometres ≤ s.lineLength → t.meter = s.meter)

section
variable {r : CoilRecord} {n : Nat} {s t : State}

theorem OffsetTaken.of_meter (hl : r.state.logs = false) (h : t.meter = s.meter) : OffsetTaken r n s t :=
  ⟨fun hl' => absurd hl' (by simp [hl]), fun _ => h⟩

theorem offsetFlag_taken {s0 : State} (hl : r.state.logs = true) (h0 : s0.meter = s.meter) (hs : s0.settings = s.settings)
    (hm : t.meter = (offsetFlag n (s0.segmentOf r) s0).meter) (hd : (offsetFlag n (s0.segmentOf r) s0).due ⊆ t.due) :
    OffsetTaken r n s t := by
  have line : s0.lineLength = s.lineLength := by rw [State.lineLength, State.lineLength, h0, hs]
  refine ⟨fun _ hn hx => ?_, fun h => ?_⟩
  · rw [offsetFlag, if_pos hn] at hm hd
    have negative : s0.segmentOf r < 0 := by rw [State.segmentOf, line]; omega
    exact ((convertFlag_flagged negative s0).kept (congrArg Metering.flags hm) (congrArg Metering.origin hm) fun _ he => hd he).before h0 hs
  · rw [hm, ← h0]
    by_cases hn : n < 8
    · have start : r.startMicrometres ≤ s.lineLength := (h.resolve_left (by simp [hl])).resolve_left (Nat.not_le.2 hn)
      rw [offsetFlag, if_pos hn, convertFlag_of_nonneg (by rw [State.segmentOf, line]; omega)]
    · rw [offsetFlag, if_neg hn]

end

/-! ### A note in the OPEN record (R146, R147) -/

section
variable (code : Byte) (station : Station) (stopped own : Bool) {r : CoilRecord} {s : State} (hr : s.coil.openSlot = some r)
include hr

theorem logOpen_of_not (hl : r.state.logs = false) : logOpen code station stopped own s = s := by
  unfold logOpen
  rw [hr]
  exact if_neg (by simp [hl])

theorem logOpen_of (hl : r.state.logs = true) : logOpen code station stopped own s =
    (offsetFlag r.halts.length (s.segmentOf r) s).setOpen (some { logNote code station (mmOf (s.segmentOf r)) stopped r with
      ownHalts := if own then holdInc 255 r.ownHalts else r.ownHalts }) := by
  unfold logOpen
  rw [hr]
  exact if_pos hl

theorem logOpen_coil : (logOpen code station stopped own s).coil =
    if r.state.logs = true then { s.coil with openSlot := some { logNote code station (mmOf (s.segmentOf r)) stopped r with
      ownHalts := if own then holdInc 255 r.ownHalts else r.ownHalts } } else s.coil := by
  cases hl : r.state.logs with
  | true =>
    rw [logOpen_of code station stopped own hr hl, State.setOpen_coil, (offsetFlag_only s _ _).coil_eq]
    rfl
  | false =>
    rw [logOpen_of_not code station stopped own hr hl]
    rfl

theorem logOpen_taken : OffsetTaken r r.halts.length s (logOpen code station stopped own s) := by
  cases hl : r.state.logs with
  | true =>
    rw [logOpen_of code station stopped own hr hl]
    exact offsetFlag_taken hl rfl rfl rfl fun _ he => he
  | false =>
    rw [logOpen_of_not code station stopped own hr hl]
    exact .of_meter hl rfl

end

/-- A change that keeps the metering unit, the settings and the coil builder may come first. -/
theorem OffsetTaken.before {r : CoilRecord} {n : Nat} {s s0 t : State} (h : OffsetTaken r n s0 t) (hm : s0.meter = s.meter)
    (hs : s0.settings = s.settings) : OffsetTaken r n s t := by
  have line : s0.lineLength = s.lineLength := by rw [State.lineLength, State.lineLength, hm, hs]
  rw [OffsetTaken, line] at h
  exact ⟨fun hl hn hx => (h.1 hl hn hx).before hm hs, fun hc => (h.2 hc).trans hm⟩

theorem State.ownGroupWide_iff {s : State} {code : Byte} {station : Station} :
    s.ownGroupWide code station = true ↔ station = s.station ∧ 1 ≤ code.toNat ∧ code.toNat ≤ 13 := by
  simp [State.ownGroupWide, and_assoc]

/-! ### SPLICE (R147) -/

/-- The note of a splice that was made, in the OPEN record of a COIL node. -/
def logSplice (r : CoilRecord) (s : State) : State :=
  if r.state.logs = true then
    (offsetFlag r.splices.length (s.segmentOf r) s).setOpen (some { r with
      spliceCount := holdInc 65535 r.spliceCount
      splices := if r.splices.length < 8 then r.splices ++ [mmOf (s.segmentOf r)] else r.splices })
  else s

section
variable {r : CoilRecord} {s : State}

theorem logSplice_only (r : CoilRecord) (s : State) : Only [.due, .meter, .coil] s (logSplice r s) :=
  .ite ((offsetFlag_only s _ _).after (l := [.due, .meter, .coil]) (setOpen_only _ _).grow) (.refl _ s)

theorem logSplice_coil (r : CoilRecord) (s : State) : (logSplice r s).coil =
    if r.state.logs = true then { s.coil with openSlot := some { r with
      spliceCount := holdInc 65535 r.spliceCount
      splices := if r.splices.length < 8 then r.splices ++ [mmOf (s.segmentOf r)] else r.splices } } else s.coil := by
  unfold logSplice
  split
  · rw [State.setOpen_coil, (offsetFlag_only s _ _).coil_eq]
  · rfl

theorem logSplice_taken {s0 : State} (hm : s0.meter = s.meter) (hs : s0.settings = s.settings) :
    OffsetTaken r r.splices.length s (logSplice r s0) := by
  unfold logSplice
  split
  · rename_i hl
    exact offsetFlag_taken hl hm hs rfl fun _ he => he
  · rename_i hl
    exact .of_meter (by simpa using hl) hm

theorem logSplice_flagged {s0 : State} (h : Flagged .rng .convert s s0) : Flagged .rng .convert s (logSplice r s0) := by
  unfold logSplice offsetFlag
  split
  · split
    · exact (h.convert _).kept rfl rfl fun _ he => he
    · exact h.kept rfl rfl fun _ he => he
  · exact h

/-! ### The MARK (R144, R147) -/

theorem sendMark_joined (kind : MarkKind) (coil : BitVec 32) (s : State) :
    Joined (.mark kind coil (mmField s.lineLength)) s (sendMark kind coil s) := by
  have h := sendFrame_joined (convertFlag s.lineLength s) (.mark kind coil (mmField s.lineLength)) rfl (.inl (by simp))
  rw [Joined, convertFlag_contents, convertFlag_line] at h
  exact h

theorem sendMark_flagged (kind : MarkKind) (coil : BitVec 32) (h : s.lineLength < 0) :
    Flagged .rng .convert s (sendMark kind coil s) :=
  (convertFlag_flagged h s).sendFrame _

theorem sendMark_meter (kind : MarkKind) (coil : BitVec 32) (h : 0 ≤ s.lineLength) : (sendMark kind coil s).meter = s.meter := by
  rw [sendMark, convertFlag_of_nonneg h]
  exact sendFrame_meter _ (.inl h)

theorem MeterKept.lineLength {t : State} (h : MeterKept s t) (hs : t.settings = s.settings) : t.lineLength = s.lineLength := by
  obtain ⟨_, _, hm⟩ := h.meter
  rw [State.lineLength, State.lineLength, hs, hm]

theorem sendMark_meterKept (kind : MarkKind) (coil : BitVec 32) (s : State) : MeterKept s (sendMark kind coil s) :=
  (convertFlag_meterKept _ s).trans (sendFrame_meterKept _ _)

theorem sendMark_lineLength (kind : MarkKind) (coil : BitVec 32) (s : State) : (sendMark kind coil s).lineLength = s.lineLength :=
  (sendMark_meterKept kind coil s).lineLength (sendMark_only s kind coil).settings_eq

end

theorem exec_splice_running {s : State} (hp : s.prot.permit = .running) : exec .splice s = .next (s.take .splice) :=
  congrArg Host.Outcome.next (if_pos (.inr hp))

theorem exec_splice {r : CoilRecord} {s : State} (hb : s.begun = true) (hc : s.settings.coil = true) (hr : s.coil.openSlot = some r)
    (hp : s.prot.permit ≠ .running) :
    exec .splice s = .next (logSplice r (sendMark .splice s.currentCoil (s.take .splice))) := by
  have only := sendMark_only (s.take .splice) .splice s.currentCoil
  have hx : exec .splice s = .next (match (sendMark .splice s.currentCoil (s.take .splice)).coil.openSlot with
      | some r => if (sendMark .splice s.currentCoil (s.take .splice)).settings.coil ∧ r.state.logs then _ else _
      | none => _) := congrArg Host.Outcome.next (if_neg (by simp [hb, hp]))
  rw [hx, only.coil_eq, State.take_coil, hr, only.settings_eq]
  simp only [State.take_settings, hc, true_and]
  rfl

/-- Settles O51: a note and a splice are logged by the rule of the OPEN record's list, with the flag of the offset. -/
theorem reasonsAndSplicesAreLogged : Obligations.ReasonsAndSplicesAreLogged := by
  intro code station stopped r s hb hc hr offset noted flagged
  have node : s.coilNode = true := by simp [State.coilNode, hb, hc]
  refine ⟨?_, ?_, ?_⟩
  · set s0 := s.take (.reasonNotice code station stopped)
    set own := s.ownGroupWide code station with hown
    have hx : exec (.reasonNotice code station stopped) s = .next (logOpen code station stopped own s0) := by
      change execReasonNotice code station stopped s = _
      simp [execReasonNotice, hb, hc, hown, s0, State.ownGroupWide]
    have coil := logOpen_coil code station stopped own (s := s0) hr
    refine ⟨_, hx, ?_, (logOpen_taken code station stopped own (s := s0) hr).before rfl rfl, ?_, ?_, ?_⟩
    · exact (take_only s _).after (logOpen_only _ _ _ _ _)
    · intro hl h1 h2 h3
      rw [coil, if_pos hl, hown.trans (State.ownGroupWide_iff.2 ⟨h1, h2, h3⟩)]
      rfl
    · intro hl h
      have none : own = false := by
        rw [← Bool.not_eq_true, hown, State.ownGroupWide_iff]
        rintro ⟨h1, h2, h3⟩
        exact h.elim (· h1) (by omega)
      rw [coil, if_pos hl, none]
      rfl
    · intro hl
      rw [coil, if_neg (by simp [hl])]
      rfl
  · set s0 := s.take (.markSpliceReceived station)
    have hx : exec (.markSpliceReceived station) s = .next (logOpen spliceNote station false false s0) :=
      congrArg Host.Outcome.next (if_pos node)
    refine ⟨_, hx, ?_, (logOpen_taken _ _ _ _ (s := s0) hr).before rfl rfl, logOpen_coil _ _ _ _ (s := s0) hr⟩
    exact (take_only s _).after (logOpen_only _ _ _ _ _)
  · by_cases hp : s.prot.permit = .running
    · exact ⟨_, exec_splice_running hp, (take_only s _).grow, fun _ => ⟨rfl, rfl, rfl⟩, fun h => absurd hp h⟩
    · set s0 := s.take .splice
      set s1 := sendMark .splice s.currentCoil s0
      have only : Only [.due, .meter, .line] s s1 := (take_only s _).after (sendMark_only s0 _ _)
      have only2 := logSplice_only r s1
      have line : (logSplice r s1).line = s1.line := only2.line_eq
      have joined : Joined (.mark .splice s.currentCoil (mmField s.lineLength)) s s1 := sendMark_joined _ _ s0
      refine ⟨_, exec_splice hb hc hr hp, (only.grow (m := [.due, .meter, .line, .coil])).step only2, fun h => absurd h hp,
        fun _ => ⟨?_, fun h => ?_, fun h => ?_, ?_⟩⟩
      · rw [Joined, State.contents, line]
        exact joined
      · exact logSplice_taken (sendMark_meter _ _ (s := s0) h) only.settings_eq
      · exact logSplice_flagged ((sendMark_flagged .splice s.currentCoil (s := s0) h).before rfl rfl)
      · rw [logSplice_coil, only.coil_eq]
        have segment : s1.segmentOf r = s.segmentOf r := congrArg (· - _) (sendMark_lineLength _ _ s0)
        rw [segment]
        rfl
end Sys2Proof.Machine
end

section
/-! SUPPORT. The tallies of a node without COIL (R148): the one that takes a part, the ones that are handed over, a MARK CUT, and the
claim about them. -/

-- One declaration at a time, as in the frames: side by side these proofs ask for more threads than the memory limit allows.
set_option Elab.async false

namespace Sys2Proof.Machine

/-! ### Forming tallies -/

section
variable (p : SegmentPart) {f : FormingTally} {early late : List FormingTally} {s : State}

/-- A forming tally waits for a part of this kind. -/
def FormingTally.wants (p : SegmentPart) (f : FormingTally) : Bool :=
  match p with
  | .twist _ => f.needTwist
  | .knot _ => f.needKnot

/-- A forming tally that has taken a part. -/
def FormingTally.fill (p : SegmentPart) (f : FormingTally) : FormingTally :=
  match p with
  | .twist t => { f with needTwist := false, tally := { f.tally with twist := some t } }
  | .knot k => { f with needKnot := false, tally := { f.tally with knot := some k } }

theorem fillTally_cons (f : FormingTally) (fs : List FormingTally) :
    fillTally p (f :: fs) = if f.wants p = true then f.fill p :: fs else f :: fillTally p fs := by
  cases p <;> rfl

/-- The oldest that waits for a part of the kind takes it. -/
theorem fillTally_append (hf : f.wants p = true) (he : ∀ g ∈ early, g.wants p = false) :
    fillTally p (early ++ f :: late) = early ++ f.fill p :: late := by
  induction early with
  | nil => rw [List.nil_append, fillTally_cons, if_pos hf, List.nil_append]
  | cons g early ih =>
    rw [List.cons_append, fillTally_cons, if_neg (by simp [he g List.mem_cons_self]), List.cons_append,
      ih fun g' hg => he g' (List.mem_cons_of_mem _ hg)]

theorem FormingTally.ready_eq_false : f.ready = false ↔ f.needTwist = true ∨ f.needKnot = true := by
  cases ht : f.needTwist <;> cases hk : f.needKnot <;> simp [FormingTally.ready, ht, hk]

theorem releaseTallies_of_waiting (h : ∀ g ∈ s.coil.forming, g.ready = false) : releaseTallies s = s := by
  have none : s.coil.forming.filter FormingTally.ready = [] := List.filter_eq_nil_iff.2 fun g hg => by simp [h g hg]
  have all : s.coil.forming.filter (fun f => !f.ready) = s.coil.forming := List.filter_eq_self.2 fun g hg => by simp [h g hg]
  unfold releaseTallies
  rw [none, all]
  rfl

theorem releaseTallies_of_ready (hs : s.coil.forming = early ++ f :: late) (hf : f.ready = true)
    (h : ∀ g ∈ early ++ late, g.ready = false) :
    releaseTallies s = sendFrame (.tally f.destination f.tally) (s.withCoil { s.coil with forming := early ++ late }) := by
  have none (l : List FormingTally) (hl : ∀ g ∈ l, g.ready = false) : l.filter FormingTally.ready = [] :=
    List.filter_eq_nil_iff.2 fun g hg => by simp [hl g hg]
  have all (l : List FormingTally) (hl : ∀ g ∈ l, g.ready = false) : l.filter (fun f => !f.ready) = l :=
    List.filter_eq_self.2 fun g hg => by simp [hl g hg]
  have he : ∀ g ∈ early, g.ready = false := fun g hg => h g (List.mem_append_left _ hg)
  have hl : ∀ g ∈ late, g.ready = false := fun g hg => h g (List.mem_append_right _ hg)
  unfold releaseTallies
  rw [hs, List.filter_append, List.filter_append, List.filter_cons_of_pos hf, List.filter_cons_of_neg (by simp [hf]), none early he,
    none late hl, all early he, all late hl]
  rfl

/-- A change that keeps the line may come first. -/
theorem Joined.before {c : FrameContent} {s t u : State} (h : Joined c t u) (hl : t.line = s.line) : Joined c s u := by
  rw [Joined, State.contents, State.contents, hl] at h
  exact h

theorem releaseTallies_due_subset (s : State) : s.due ⊆ (releaseTallies s).due := by
  unfold releaseTallies
  generalize s.coil.forming.filter FormingTally.ready = l
  dsimp only
  generalize hs1 : s.withCoil _ = s1
  have h1 : s1.due = s.due := by rw [← hs1]; rfl
  rw [← h1]
  clear h1 hs1
  induction l generalizing s1 with
  | nil => exact fun _ he => he
  | cons f l ih => exact List.Subset.trans (sendFrame_due_subset _ _) (ih _)

/-- After `g` has taken its part, it is handed over once it wants no other (R148 step 3). -/
theorem releaseTallies_effect {g : FormingTally} (hs : s.coil.forming = early ++ g :: late)
    (h : ∀ g ∈ early ++ late, g.ready = false) :
    (g.needTwist = true ∨ g.needKnot = true → releaseTallies s = s) ∧
    (g.needTwist = false → g.needKnot = false → (releaseTallies s).coil = { s.coil with forming := early ++ late } ∧
      Joined (.tally g.destination g.tally) s (releaseTallies s) ∧ (Quiet s → (releaseTallies s).meter = s.meter)) := by
  refine ⟨fun hg => releaseTallies_of_waiting ?_, fun ht hk => ?_⟩
  · rw [hs]
    intro x hx
    obtain hx | rfl | hx := (List.mem_append.1 hx).imp_right List.mem_cons.1
    · exact h x (List.mem_append_left _ hx)
    · exact FormingTally.ready_eq_false.2 hg
    · exact h x (List.mem_append_right _ hx)
  · rw [releaseTallies_of_ready hs (by simp [FormingTally.ready, ht, hk]) h]
    have joined := sendFrame_joined (s.withCoil { s.coil with forming := early ++ late }) (.tally g.destination g.tally) rfl
      (.inl (by simp))
    exact ⟨(sendFrame_only _ _).coil_eq, joined, fun hq => sendFrame_meter _ (hq.kept rfl rfl rfl)⟩

end

/-! ### The commands -/

section
variable {s : State} (hb : s.begun = true) (hc : s.settings.coil = false)
include hb hc

theorem exec_segmentStatisticsAnswer_tally (answer : BitVec 32) (p : SegmentPart) : exec (.segmentStatisticsAnswer answer p) s =
    .next (releaseTallies ((s.take (.segmentStatisticsAnswer answer p)).withCoil
      { s.coil with forming := fillTally p s.coil.forming })) := by
  change execSegmentStatisticsAnswer answer p s = _
  simp [execSegmentStatisticsAnswer, hb, hc]

/-- A part taken by the tally `f` (R148 step 3; log entry 49). -/
theorem segmentStatisticsAnswer_effect (answer : BitVec 32) (p : SegmentPart) {early late : List FormingTally} {f : FormingTally}
    (hs : s.coil.forming = early ++ f :: late) (hw : ∀ g ∈ early ++ late, g.needTwist = true ∨ g.needKnot = true)
    (hf : f.wants p = true) (he : ∀ g ∈ early, g.wants p = false) :
    Completes (.segmentStatisticsAnswer answer p) s fun t => Only [.due, .meter, .line, .coil] s t ∧
      ((f.fill p).needTwist = true ∨ (f.fill p).needKnot = true →
        t.coil = { s.coil with forming := early ++ f.fill p :: late } ∧ t.line = s.line) ∧
      ((f.fill p).needTwist = false → (f.fill p).needKnot = false → t.coil = { s.coil with forming := early ++ late } ∧
        Joined (.tally f.destination (f.fill p).tally) s t) := by
  have hx := exec_segmentStatisticsAnswer_tally hb hc answer p
  rw [hs, fillTally_append p hf he] at hx
  set s1 := (s.take (.segmentStatisticsAnswer answer p)).withCoil { s.coil with forming := early ++ f.fill p :: late } with hs1
  have destination : (f.fill p).destination = f.destination := by cases p <;> rfl
  obtain ⟨waits, goes⟩ := releaseTallies_effect (s := s1) rfl fun g hg => FormingTally.ready_eq_false.2 (hw g hg)
  refine ⟨_, hx, ?_, fun hn => ?_, fun ht hk => ?_⟩
  · exact (((take_only s _).grow (m := [.due, .meter, .line, .coil])).step (withCoil_only _ _)).trans (releaseTallies_only _)
  · rw [waits hn]
    exact ⟨rfl, rfl⟩
  · rw [← destination]
    exact ⟨(goes ht hk).1, (goes ht hk).2.1⟩

/-- A reason notice on a node without COIL (R148). -/
theorem reasonNotice_effect (code : Byte) (station : Station) (stopped : Bool) :
    Completes (.reasonNotice code station stopped) s (fun t => Only [.due, .coil] s t ∧
      t.coil = if s.coil.tally.begun = true ∧ station = s.station ∧ 1 ≤ code.toNat ∧ code.toNat ≤ 13 then
        { s.coil with tally := { s.coil.tally with halts := holdInc 255 s.coil.tally.halts } } else s.coil) := by
  set s0 := s.take (.reasonNotice code station stopped)
  have hx : exec (.reasonNotice code station stopped) s = .next (if s.coil.tally.begun && s.ownGroupWide code station then
      s0.withCoil { s.coil with tally := { s.coil.tally with halts := holdInc 255 s.coil.tally.halts } } else s0) := by
    change execReasonNotice code station stopped s = _
    simp [execReasonNotice, hb, hc, s0, State.ownGroupWide]
  refine ⟨_, hx, .ite (((take_only s _).grow (m := [.due, .coil])).step (withCoil_only _ _)) (take_only s _).grow, ?_⟩
  simp only [Bool.and_eq_true, State.ownGroupWide_iff]
  split
  · rfl
  · rfl

/-! ### A MARK CUT (R148) -/

/-- The arithmetic status of a segment is judged, and the monitors are asked (R30, R148). -/
def segmentCut (coil : BitVec 32) (s : State) : State :=
  (convertFlag (s.lineLength - s.coil.tally.startLength) s).emit (askOwn s.settings coil.toNat)

/-- The node with the TALLY of a segment formed, the arithmetic status cleared and the next segment begun (R148). -/
def tallyFormed (station : Station) (coil : BitVec 32) (s : State) : State :=
  (clearStatus (segmentCut coil s)).withCoil { s.coil with
    forming := s.coil.forming ++ [⟨station, formTally coil (segmentCut coil s), s.settings.twist, s.settings.knot⟩]
    tally := ⟨true, s.lineLength, 0, coil, mmOf (s.lineLength - s.coil.tally.startLength)⟩ }

theorem exec_markCutReceived_idle (station : Station) (coil : BitVec 32) (ht : s.coil.tally.begun = false) :
    exec (.markCutReceived station coil) s = .next ((s.take (.markCutReceived station coil)).withCoil
      { s.coil with tally := { s.coil.tally with lastCoil := coil } }) := by
  change execMarkCutReceived station coil s = _
  simp [execMarkCutReceived, hb, hc, ht]

theorem exec_markCutReceived (station : Station) (coil : BitVec 32) (ht : s.coil.tally.begun = true) :
    exec (.markCutReceived station coil) s = .next (releaseTallies (tallyFormed station coil (s.take (.markCutReceived station coil)))) := by
  change execMarkCutReceived station coil s = _
  have only := convertFlag_only (s.take (.markCutReceived station coil)) (s.lineLength - s.coil.tally.startLength)
  have coilEq : (convertFlag (s.lineLength - s.coil.tally.startLength) (s.take (.markCutReceived station coil))).coil = s.coil :=
    only.coil_eq
  simp [execMarkCutReceived, hb, hc, ht, tallyFormed, segmentCut, coilEq]

end

/-! ### What a MARK CUT forms -/

theorem convertFlag_meter (x : Int) (s : State) : (convertFlag x s).meter = if x < 0 then
    { s.meter with flags := s.meter.flags.set .rng, origin := if s.meter.flags.any = true then s.meter.origin else .convert }
    else s.meter := by
  unfold convertFlag
  split
  · exact setFlag_meter _ _ _
  · rfl

theorem twistSegmentRequest_mem_askOwn {g : Settings} (h : g.twist = true) (coil : Nat) :
    .twistSegmentRequest (BitVec.ofNat 32 coil) ∈ askOwn g coil := by simp [askOwn, h]

theorem knotSegmentRequest_mem_askOwn {g : Settings} (h : g.knot = true) (coil : Nat) :
    .knotSegmentRequest (BitVec.ofNat 32 coil) ∈ askOwn g coil := by simp [askOwn, h]

section
variable (station : Station) (coil : BitVec 32) (s : State)

theorem segmentCut_only : Only [.due, .meter] s (segmentCut coil s) := (convertFlag_only s _).step (emit_only _ _)

theorem tallyFormed_only : Only [.due, .meter, .coil] s (tallyFormed station coil s) :=
  (((segmentCut_only coil s).step (clearStatus_only _)).grow (m := [.due, .meter, .coil])).step (withCoil_only _ _)

theorem tallyFormed_meter : (tallyFormed station coil s).meter = { s.meter with flags := clearFlags, origin := .none } := by
  obtain ⟨_, _, h⟩ := (convertFlag_meterKept (s.lineLength - s.coil.tally.startLength) s).meter
  change { (convertFlag (s.lineLength - s.coil.tally.startLength) s).meter with flags := clearFlags, origin := Origin.none } = _
  rw [h]

theorem askOwn_subset_tallyFormed : askOwn s.settings coil.toNat ⊆ (tallyFormed station coil s).due :=
  List.subset_append_right _ _

/-- The TALLY carries the arithmetic status in which a negative segment has set RNG (R30, R148). -/
theorem formTally_segmentCut : formTally coil (segmentCut coil s) = {
    coil := coil
    halts := BitVec.ofNat 8 s.coil.tally.halts
    flags := if s.lineLength < s.coil.tally.startLength then s.meter.flags.set .rng else s.meter.flags
    origin := BitVec.ofNat 8 (if s.lineLength < s.coil.tally.startLength ∧ s.meter.flags.any = false then Origin.convert
      else s.meter.origin).code
    twist := none
    knot := none } := by
  unfold formTally
  rw [(segmentCut_only coil s).coil_eq, show (segmentCut coil s).meter = _ from convertFlag_meter _ s]
  by_cases h : s.lineLength < s.coil.tally.startLength <;> cases ha : s.meter.flags.any <;> simp [h]

end

/-- Settles O52: a MARK CUT forms a TALLY from the status of the cut segment, and the oldest that wants a part takes it. -/
theorem markCutFormsATally : Obligations.MarkCutFormsATally := by
  refine ⟨fun station coil code stopped s hb hc hf => ?_, fun answer early late f u k s hb hc hs hw => ?_⟩
  · intro short origin y parts
    refine ⟨?_, reasonNotice_effect hb hc code station stopped⟩
    set s0 := s.take (.markCutReceived station coil) with hs0
    cases ht : s.coil.tally.begun with
    | false =>
      refine ⟨_, exec_markCutReceived_idle hb hc station coil ht, ?_, fun _ => ⟨rfl, rfl, rfl⟩, nofun, nofun, nofun⟩
      exact ((take_only s _).grow (m := [.due, .meter, .line, .coil])).step (withCoil_only _ _)
    | true =>
      have formed : formTally coil (segmentCut coil s0) = y := formTally_segmentCut coil s0
      set t := tallyFormed station coil s0 with htf
      have only : Only [.due, .meter, .coil] s t := (take_only s _).after (tallyFormed_only station coil s0)
      have meter : t.meter = { s.meter with flags := clearFlags, origin := .none } := tallyFormed_meter station coil s0
      have forming : t.coil.forming = [] ++ (⟨station, y, s.settings.twist, s.settings.knot⟩ : FormingTally) :: [] := by
        change s.coil.forming ++ [_] = _
        rw [hf, formed]
        rfl
      have tally : t.coil.tally = ⟨true, s.lineLength, 0, coil, mmOf (s.lineLength - s.coil.tally.startLength)⟩ := rfl
      have only2 := releaseTallies_only t
      obtain ⟨waits, goes⟩ := releaseTallies_effect forming (fun g hg => absurd hg List.not_mem_nil)
      have due : askOwn s.settings coil.toNat ⊆ (releaseTallies t).due :=
        List.Subset.trans (askOwn_subset_tallyFormed station coil s0) (releaseTallies_due_subset t)
      have hcoil : BitVec.ofNat 32 coil.toNat = coil := by simp
      refine ⟨_, exec_markCutReceived hb hc station coil ht, ?_, nofun, fun _ => ⟨?_, fun h => ?_, fun h => ?_⟩, fun _ h => ?_,
        fun _ h => ?_⟩
      · exact (only.grow (m := [.due, .meter, .line, .coil])).trans only2
      · by_cases hp : s.settings.twist = true ∨ s.settings.knot = true
        · rw [waits hp]
          exact tally
        · obtain ⟨htwist, hknot⟩ : s.settings.twist = false ∧ s.settings.knot = false := by simpa using hp
          rw [(goes htwist hknot).1]
          exact tally
      · have := due (twistSegmentRequest_mem_askOwn h _)
        rwa [hcoil] at this
      · have := due (knotSegmentRequest_mem_askOwn h _)
        rwa [hcoil] at this
      · rw [waits h]
        exact ⟨forming, only.line_eq, meter⟩
      · obtain ⟨htwist, hknot⟩ : s.settings.twist = false ∧ s.settings.knot = false := by simpa [parts] using h
        obtain ⟨coilEq, joined, kept⟩ := goes htwist hknot
        refine ⟨?_, ?_, fun hq => ?_⟩
        · exact joined.before only.line_eq
        · rw [coilEq]
          rfl
        · have line : t.lineLength = s.lineLength := MeterKept.lineLength (s := s) (by rw [MeterKept, meter]) only.settings_eq
          have quiet : Quiet t := by
            rw [Quiet, line, State.publishes, only.settings_eq]
            exact hq.imp_right fun h => by simp [h]
          rw [kept quiet, meter]
  · exact ⟨fun hf he => segmentStatisticsAnswer_effect hb hc answer (.twist u) hs hw hf he,
      fun hf he => segmentStatisticsAnswer_effect hb hc answer (.knot k) hs hw hf he⟩

end Sys2Proof.Machine
end

section
/-! SUPPORT. Operations that stay with the store while others are handed to it (R153, R159, R161), a record as a seal leaves it, and the
two slots' seals (R153, R155). -/

-- One declaration at a time, as in the frames: side by side these proofs ask for more threads than the memory limit allows.
set_option Elab.async false

namespace Sys2Proof.Machine

/-! ### An operation handed to the store stays there (R159, R161) -/

section
variable {s t : State} {op : StoreOp}

theorem HandedToStore.of_store (h : HandedToStore op s) (ht : t.store = s.store) : HandedToStore op t := by
  rw [HandedToStore, ht]
  exact h

variable (hop : ∀ b source, op ≠ .eraseBank b source)
include hop

/-- Of the operations that wait, one that is no requested erase begins or still waits when the next one is begun. -/
theorem startNext_handed {ops : List StoreOp} (s : State) (hm : op ∈ ops) : HandedToStore op (startNext ops s) := by
  induction ops generalizing s with
  | nil => exact absurd hm List.not_mem_nil
  | cons x ops ih =>
    have begins : HandedToStore op (beginOp x (s.withStore { s.store with waiting := ops })) := by
      obtain ⟨inFlight, waiting⟩ := beginOp_inFlight (s.withStore { s.store with waiting := ops }) x
      obtain rfl | hm := List.mem_cons.1 hm
      · exact .inl inFlight
      · exact .inr (by rw [waiting]; exact hm)
    cases x with
    | eraseBank b source =>
      rw [startNext]
      split
      · exact ih _ ((List.mem_cons.1 hm).resolve_left (hop b source))
      · exact begins
    | _ => exact begins

theorem HandedToStore.enqueue (h : HandedToStore op s) (x : StoreOp) : HandedToStore op (enqueue x s) := by
  unfold Machine.enqueue
  split
  · rename_i idle
    have none : s.store.inFlight = none := by simpa [State.storeIdle] using idle
    refine startNext_handed hop s (List.mem_append_left _ (h.resolve_left ?_))
    rintro ⟨f, hf, -⟩
    rw [none] at hf
    cases hf
  · exact h.imp id fun hm => List.mem_append_left _ hm

omit hop in
theorem mem_offerInto {ops : List StoreOp} (hm : op ∈ ops) (x : StoreOp) : op ∈ offerInto ops x := by
  unfold offerInto
  split
  · exact List.mem_cons_of_mem _ hm
  · have h : op ∈ ops.take 4 ++ ops.drop 4 := by rwa [List.take_append_drop]
    exact (List.mem_append.1 h).elim (List.mem_append_left _) fun h => List.mem_append_right _ (List.mem_cons_of_mem _ h)

omit hop in
theorem mem_offerHeld (hm : op ∈ s.store.waiting) : op ∈ s.offerHeld := by
  unfold State.offerHeld
  split
  · split
    · exact hm
    · exact mem_offerInto hm _
  · exact hm

theorem HandedToStore.queueOffer (h : HandedToStore op s) : HandedToStore op (queueOffer s) := by
  unfold Machine.queueOffer
  dsimp only
  split
  · rename_i idle
    have none : s.store.inFlight = none := by simpa [State.storeIdle] using idle
    refine startNext_handed hop s (mem_offerHeld (h.resolve_left ?_))
    rintro ⟨f, hf, -⟩
    rw [none] at hf
    cases hf
  · exact h.imp id fun hm => mem_offerHeld hm

theorem HandedToStore.handSeal (h : HandedToStore op s) (coil : Nat) : HandedToStore op (handSeal coil s) :=
  (h.queueOffer hop).enqueue hop _

end

theorem handSeal_handed (coil : Nat) (s : State) : HandedToStore (.keep coil) (handSeal coil s) := enqueue_handed _ _ trivial

/-! ### What handing over leaves: the events and the counts of the metering unit -/

section
variable (s : State)

theorem startNext_kept (ops : List StoreOp) : s.due ⊆ (startNext ops s).due ∧ MeterKept s (startNext ops s) := by
  have begins (x : StoreOp) (l : List StoreOp) (s : State) :
      s.due ⊆ (beginOp x (s.withStore { s.store with waiting := l })).due ∧
        MeterKept s (beginOp x (s.withStore { s.store with waiting := l })) := by
    rw [beginOp_due]
    exact ⟨fun _ he => he, .of_eq (beginOp_meter _ _)⟩
  induction ops generalizing s with
  | nil => exact ⟨fun _ he => he, rfl⟩
  | cons x ops ih =>
    cases x with
    | eraseBank b source =>
      rw [startNext]
      split
      · obtain ⟨due, meter⟩ := ih (sendReply .erase source [Result.state.byte] s)
        exact ⟨List.Subset.trans (sendFrame_due_subset _ s) due, (sendFrame_meterKept _ s).trans meter⟩
      · exact begins _ _ s
    | _ => exact begins _ _ s

theorem enqueue_kept (op : StoreOp) : s.due ⊆ (enqueue op s).due ∧ MeterKept s (enqueue op s) := by
  unfold enqueue
  split
  · exact startNext_kept s _
  · exact ⟨fun _ he => he, rfl⟩

theorem queueOffer_kept : s.due ⊆ (queueOffer s).due ∧ MeterKept s (queueOffer s) := by
  unfold queueOffer
  dsimp only
  split
  · exact startNext_kept s _
  · exact ⟨fun _ he => he, rfl⟩

theorem handSeal_kept (coil : Nat) : s.due ⊆ (handSeal coil s).due ∧ MeterKept s (handSeal coil s) := by
  obtain ⟨due, meter⟩ := queueOffer_kept s
  obtain ⟨due', meter'⟩ := enqueue_kept (queueOffer s) (.keep coil)
  exact ⟨List.Subset.trans due due', meter.trans meter'⟩

end

/-! ### A record as a seal leaves it (R152, R153, R155) -/

section
variable (r : CoilRecord) (s : State)

theorem sealedBy_status {p : ContributorStatus → Prop} (h : ∀ c ∈ r.contributors, p c.status) :
    ∀ c ∈ (r.sealedBy s).contributors, p c.status := by
  intro c hc
  obtain ⟨d, hd, rfl⟩ := List.mem_map.1 hc
  split
  · exact h d hd
  · exact h d hd

theorem expire_status : ∀ c ∈ r.expire.contributors, c.status ≠ .expected := by
  intro c hc
  obtain ⟨d, -, rfl⟩ := List.mem_map.1 hc
  split
  · exact nofun
  · assumption

theorem sealedBy_rng (h : s.meter.flags.rng = true) : (r.sealedBy s).flags.rng = true := by
  simp [CoilRecord.sealedBy, CoilRecord.withOwnFlags, ArithFlags.union, h]

/-- What a seal does beside its slot: the record's keep is at the store, the arithmetic status is clear where no pace part of a negative
length can go out, and neither an event nor a count is lost (R36, R153). -/
structure Sealed (coil : Nat) (s t : State) : Prop where
  kept : HandedToStore (.keep coil) t
  store : ∀ {op}, (∀ b source, op ≠ .eraseBank b source) → HandedToStore op s → HandedToStore op t
  due : s.due ⊆ t.due
  meter : MeterKept s t
  clear : Quiet s → t.meter.flags = clearFlags ∧ t.meter.origin = .none

/-- A record sealed in a slot that the coil builder `x` has. -/
theorem handSeal_sealed (coil : Nat) (x : CoilBuilder) : Sealed coil s (handSeal coil (clearStatus (s.withCoil x))) where
  kept := handSeal_handed _ _
  store hop h := HandedToStore.handSeal hop (s := clearStatus (s.withCoil x)) (h.of_store rfl) coil
  due := (handSeal_kept (clearStatus (s.withCoil x)) coil).1
  meter := (clearStatus_meterKept (s.withCoil x)).trans (handSeal_kept _ coil).2
  clear h := by
    have quiet : Quiet (clearStatus (s.withCoil x)) := h
    rw [handSeal_meter _ quiet]
    exact ⟨rfl, rfl⟩

theorem sealClosing_sealed : Sealed r.coil s (sealClosing r s) := handSeal_sealed s r.coil _

theorem sealClosing_coil : (sealClosing r s).coil = { s.coil with closingSlot := some (r.sealedBy s) } :=
  (handSeal_only _ r.coil).coil_eq

theorem sealOpen_sealed : Sealed r.coil s (sealOpen r s) :=
  have h := handSeal_sealed s r.coil { s.coil with openSlot := some (r.sealedBy s) }
  ⟨h.kept, h.store, List.Subset.trans h.due (List.subset_append_left _ _), h.meter, h.clear⟩

theorem sealOpen_coil : (sealOpen r s).coil = { s.coil with openSlot := some (r.sealedBy s) } :=
  (handSeal_only _ r.coil).coil_eq

theorem coilHoldSet_mem_sealOpen : .coilHoldSet ∈ (sealOpen r s).due := List.mem_append_right _ (List.mem_singleton_self _)

end

end Sys2Proof.Machine
end

section
/-! SUPPORT. The supply notice (R155) step by step, the two questions of the protection unit (R143, R154), and the claim about them. -/

-- One declaration at a time, as in the frames: side by side these proofs ask for more threads than the memory limit allows.
set_option Elab.async false

namespace Sys2Proof.Machine

/-! ### The questions (R143, R154) -/

section
variable {s : State} (hb : s.begun = true)
include hb

theorem exec_cutEndedQuestion : exec .cutEndedQuestion s = .next ((s.take .cutEndedQuestion).emit
    [.cutEndedAnswer (!s.coil.openSlot.any (fun r => r.state == .cutting))]) := congrArg Host.Outcome.next (if_pos hb)

theorem exec_heldBackQuestion : exec .heldBackQuestion s = .next ((s.take .heldBackQuestion).emit
    [.heldBackAnswer (s.records.any CoilRecord.heldBack)]) := congrArg Host.Outcome.next (if_pos hb)

end

/-! ### The steps of the supply notice (R155) -/

section
variable {r : CoilRecord} {s : State}

theorem segmentFixed_frame (s : State) (r : CoilRecord) : (fixSegment s r).coil = r.coil ∧ (fixSegment s r).state = r.state ∧
    (fixSegment s r).segment = some (mmOf (s.segmentOf r)) ∧ (fixSegment s r).flags = r.flags := by
  unfold fixSegment settleOwn
  split <;> exact ⟨rfl, rfl, rfl, rfl⟩

/-- The node once a coil in the making has ended with SUPPLY (R155 step 2). -/
def endedBySupply (r : CoilRecord) (s : State) : State :=
  ((convertFlag (s.segmentOf r) s).withCoil { s.coil with
    openSlot := some { fixSegment s r with endReason := some .supply }
    restLeft := none
    cutLeft := none }).emit (.channelStopRequest 7 :: askOwn s.settings r.coil)

/-- The states of a coil in the making. -/
def CoilRecord.making (r : CoilRecord) : Prop := r.state = .opened ∨ r.state = .ending ∨ r.state = .cutting

theorem sealGathering_of (hr : s.coil.closingSlot = some r) (hg : r.state = .gathering) :
    execSupplyNotice.sealGathering s = sealClosing r.expire (s.emit [.channelStopRequest 7]) := by
  unfold execSupplyNotice.sealGathering
  rw [hr]
  exact if_pos hg

theorem sealGathering_of_not (h : ∀ r, s.coil.closingSlot = some r → r.state ≠ .gathering) :
    execSupplyNotice.sealGathering s = s := by
  unfold execSupplyNotice.sealGathering
  split
  · exact if_neg (h _ ‹_›)
  · rfl

theorem endSupply_of (hr : s.coil.openSlot = some r) (hm : r.making) : execSupplyNotice.endSupply s = endedBySupply r s := by
  unfold execSupplyNotice.endSupply
  rw [hr]
  exact if_pos hm

theorem endSupply_of_not (h : ∀ r, s.coil.openSlot = some r → ¬ r.making) : execSupplyNotice.endSupply s = s := by
  unfold execSupplyNotice.endSupply
  split
  · exact if_neg (h _ ‹_›)
  · rfl

theorem sealSupply_of (hr : s.coil.openSlot = some r) (hl : r.state.logs = true) :
    execSupplyNotice.sealSupply s = sealOpen r.expire s := by
  unfold execSupplyNotice.sealSupply
  rw [hr]
  exact if_pos hl

theorem sealSupply_of_not (h : ∀ r, s.coil.openSlot = some r → r.state.logs = false) : execSupplyNotice.sealSupply s = s := by
  unfold execSupplyNotice.sealSupply
  split
  · exact if_neg (by simp [h _ ‹_›])
  · rfl

theorem CoilRecord.making.logs (h : r.making) : r.state.logs = true := by
  obtain h | h | h := h <;> rw [h] <;> rfl

/-! ### What each step leaves -/

/-- A step of the supply notice that ends no gathering: the store, the CLOSING slot and the counts of the metering unit stay, and no event
is lost. -/
structure SupplyStep (s t : State) : Prop where
  only : Only [.due, .meter, .line, .coil, .store] s t
  due : s.due ⊆ t.due
  meter : MeterKept s t
  store : ∀ {op}, (∀ b source, op ≠ .eraseBank b source) → HandedToStore op s → HandedToStore op t

theorem SupplyStep.trans {t u : State} (h : SupplyStep s t) (k : SupplyStep t u) : SupplyStep s u :=
  ⟨h.only.trans k.only, List.Subset.trans h.due k.due, h.meter.trans k.meter, fun hop x => k.store hop (h.store hop x)⟩

theorem SupplyStep.refl (s : State) : SupplyStep s s := ⟨.refl _ s, fun _ h => h, rfl, fun _ h => h⟩

theorem SupplyStep.line {t : State} (h : SupplyStep s t) : t.lineLength = s.lineLength := h.meter.lineLength h.only.settings_eq

theorem sealGathering_step (s : State) : SupplyStep s (execSupplyNotice.sealGathering s) := by
  by_cases h : ∃ r, s.coil.closingSlot = some r ∧ r.state = .gathering
  · obtain ⟨r, hr, hg⟩ := h
    have sealing := sealClosing_sealed r.expire (s.emit [.channelStopRequest 7])
    rw [sealGathering_of hr hg]
    refine ⟨(emit_only s _).after (sealClosing_only _ _), ?_, sealing.meter, fun hop x => sealing.store hop x⟩
    exact List.Subset.trans (List.subset_append_left _ _) sealing.due
  · rw [sealGathering_of_not fun r hr hg => h ⟨r, hr, hg⟩]
    exact .refl s

theorem endedBySupply_step (r : CoilRecord) (s : State) : SupplyStep s (endedBySupply r s) where
  only := (((convertFlag_only s _).grow (m := [.due, .meter, .line, .coil, .store])).step (withCoil_only _ _)).step (emit_only _ _)
  due := List.Subset.trans (convertFlag_due_subset _ s) (List.subset_append_left _ _)
  meter := convertFlag_meterKept _ s
  store _ h := h.of_store ((convertFlag_only s (s.segmentOf r)).2 .store (by decide))

theorem endSupply_step (s : State) : SupplyStep s (execSupplyNotice.endSupply s) := by
  by_cases h : ∃ r, s.coil.openSlot = some r ∧ r.making
  · obtain ⟨r, hr, hm⟩ := h
    rw [endSupply_of hr hm]
    exact endedBySupply_step r s
  · rw [endSupply_of_not fun r hr hm => h ⟨r, hr, hm⟩]
    exact .refl s

theorem clearCoilEnd_extends (s : State) : Extends [.due] s (execSupplyNotice.clearCoilEnd s) :=
  .ite (emit_extends s _) (.refl _ s)

theorem clearCoilEnd_step (s : State) : SupplyStep s (execSupplyNotice.clearCoilEnd s) where
  only := (clearCoilEnd_extends s).1.grow
  due := (clearCoilEnd_extends s).2
  meter := .of_eq (clearCoilEnd_extends s).1.meter_eq
  store _ h := h.of_store ((clearCoilEnd_extends s).1.2 .store (by decide))

theorem clear_mem_clearCoilEnd (h : .coilEnd ∈ s.prot.causes) : .clearCause .coilEnd ∈ (execSupplyNotice.clearCoilEnd s).due := by
  have hx : execSupplyNotice.clearCoilEnd s = s.emit [.clearCause .coilEnd] := if_pos (List.contains_iff_mem.2 h)
  rw [hx]
  exact List.mem_append_right _ (List.mem_singleton_self _)

theorem sealSupply_step (s : State) : SupplyStep s (execSupplyNotice.sealSupply s) := by
  by_cases h : ∃ r, s.coil.openSlot = some r ∧ r.state.logs = true
  · obtain ⟨r, hr, hl⟩ := h
    have sealing := sealOpen_sealed r.expire s
    rw [sealSupply_of hr hl]
    exact ⟨sealOpen_only s _, sealing.due, sealing.meter, sealing.store⟩
  · rw [sealSupply_of_not fun r hr => by simpa using fun hl => h ⟨r, hr, hl⟩]
    exact .refl s

end

/-- The node after the first three steps of the supply notice (R155). -/
def supplyEnded (s : State) : State := execSupplyNotice.clearCoilEnd (execSupplyNotice.endSupply (execSupplyNotice.sealGathering s))

theorem exec_supplyNotice {s : State} (h : s.coilNode = true) :
    exec .supplyNotice s = .next (execSupplyNotice.sealSupply (supplyEnded (s.take .supplyNotice))) :=
  congrArg Host.Outcome.next (if_neg (by simp [h]))

section
variable {r : CoilRecord} (s : State)

theorem supplyEnded_step : SupplyStep s (supplyEnded s) :=
  ((sealGathering_step s).trans (endSupply_step _)).trans (clearCoilEnd_step _)

theorem sealGathering_others : (execSupplyNotice.sealGathering s).coil =
    { s.coil with closingSlot := (execSupplyNotice.sealGathering s).coil.closingSlot } := by
  by_cases h : ∃ r, s.coil.closingSlot = some r ∧ r.state = .gathering
  · obtain ⟨r, hr, hg⟩ := h
    rw [sealGathering_of hr hg, sealClosing_coil]
    rfl
  · rw [sealGathering_of_not fun r hr hg => h ⟨r, hr, hg⟩]

theorem endSupply_closingSlot : (execSupplyNotice.endSupply s).coil.closingSlot = s.coil.closingSlot := by
  unfold execSupplyNotice.endSupply
  split
  · split <;> rfl
  · rfl

theorem sealSupply_closingSlot : (execSupplyNotice.sealSupply s).coil.closingSlot = s.coil.closingSlot := by
  unfold execSupplyNotice.sealSupply
  split
  · split
    · rw [sealOpen_coil]
    · rfl
  · rfl

theorem supplyEnded_closingSlot : (supplyEnded s).coil.closingSlot = (execSupplyNotice.sealGathering s).coil.closingSlot := by
  rw [supplyEnded, (clearCoilEnd_extends _).1.coil_eq, endSupply_closingSlot]

theorem sealGathering_openSlot : (execSupplyNotice.sealGathering s).coil.openSlot = s.coil.openSlot := by rw [sealGathering_others]

theorem sealGathering_segmentOf (r : CoilRecord) : (execSupplyNotice.sealGathering s).segmentOf r = s.segmentOf r :=
  congrArg (· - _) (sealGathering_step s).line

theorem supplyEnded_of_not (h : ∀ r, s.coil.openSlot = some r → ¬ r.making) :
    supplyEnded s = execSupplyNotice.clearCoilEnd (execSupplyNotice.sealGathering s) := by
  rw [supplyEnded, endSupply_of_not (by rwa [sealGathering_openSlot])]

/-- A GATHERING record is sealed with what has come (R155 step 1). -/
theorem supply_gathering (hr : s.coil.closingSlot = some r) (hg : r.state = .gathering) :
    let t := execSupplyNotice.sealSupply (supplyEnded s)
    HandedToStore (.keep r.coil) t ∧ .channelStopRequest 7 ∈ t.due ∧
      ∃ q, t.coil.closingSlot = some q ∧ q.state = .sealing ∧ q.coil = r.coil ∧ ∀ c ∈ q.contributors, c.status ≠ .expected := by
  intro t
  have after : SupplyStep (execSupplyNotice.sealGathering s) t :=
    ((endSupply_step _).trans (clearCoilEnd_step _)).trans (sealSupply_step _)
  have sealing := sealClosing_sealed r.expire (s.emit [.channelStopRequest 7])
  have slot : t.coil.closingSlot = some (r.expire.sealedBy (s.emit [.channelStopRequest 7])) := by
    rw [show t = _ from rfl, sealSupply_closingSlot, supplyEnded_closingSlot, sealGathering_of hr hg, sealClosing_coil]
  rw [sealGathering_of hr hg] at after
  refine ⟨after.store (by simp) sealing.kept, after.due (sealing.due (List.mem_append_right _ (List.mem_singleton_self _))), _, slot,
    rfl, rfl, sealedBy_status _ _ (p := (· ≠ .expected)) (expire_status r)⟩

/-- The OPEN record of a logging state is sealed without gathering (R155 step 4). -/
theorem supply_sealed {q : CoilRecord} (hq : (supplyEnded s).coil.openSlot = some q) (hl : q.state.logs = true) :
    let t := execSupplyNotice.sealSupply (supplyEnded s)
    HandedToStore (.keep q.coil) t ∧ .coilHoldSet ∈ t.due ∧
      t.coil = { (supplyEnded s).coil with openSlot := some (q.expire.sealedBy (supplyEnded s)) } ∧
      (0 ≤ s.lineLength → t.meter.flags = clearFlags ∧ t.meter.origin = .none) := by
  intro t
  have ht : t = sealOpen q.expire (supplyEnded s) := sealSupply_of hq hl
  have sealing := sealOpen_sealed q.expire (supplyEnded s)
  rw [ht]
  exact ⟨sealing.kept, coilHoldSet_mem_sealOpen _ _, sealOpen_coil _ _,
    fun h => sealing.clear (.inl (by rw [(supplyEnded_step s).line]; exact h))⟩

/-- A coil in the making ends with SUPPLY, its segment fixed and its timers stopped (R155 step 2). -/
theorem supplyEnded_making (hr : s.coil.openSlot = some r) (hm : r.making) :
    ∃ q, (supplyEnded s).coil.openSlot = some q ∧ q.coil = r.coil ∧ q.state = r.state ∧ q.endReason = some .supply ∧
      q.segment = some (mmOf (s.segmentOf r)) ∧ (supplyEnded s).coil.restLeft = none ∧ (supplyEnded s).coil.cutLeft = none ∧
      (s.segmentOf r < 0 → (supplyEnded s).meter.flags.rng = true) ∧
      (.channelStopRequest 7 :: askOwn s.settings r.coil) ⊆ (supplyEnded s).due := by
  set s1 := execSupplyNotice.sealGathering s with hs1
  have h : supplyEnded s = execSupplyNotice.clearCoilEnd (endedBySupply r s1) := by
    rw [supplyEnded, endSupply_of (by rw [sealGathering_openSlot]; exact hr) hm]
  have only := (clearCoilEnd_extends (endedBySupply r s1)).1
  have segment : s1.segmentOf r = s.segmentOf r := sealGathering_segmentOf s r
  have settings : s1.settings = s.settings := (sealGathering_step s).only.settings_eq
  obtain ⟨coil, state, fixed, -⟩ := segmentFixed_frame s1 r
  rw [h, only.coil_eq, only.meter_eq]
  refine ⟨{ fixSegment s1 r with endReason := some .supply }, rfl, coil, state, rfl, by rw [← segment]; exact fixed, rfl, rfl,
    fun hn => ?_, ?_⟩
  · have flagged := convertFlag_flagged (segment.trans_lt hn) s1
    change (convertFlag (s1.segmentOf r) s1).meter.flags.rng = true
    rw [flagged.1]
    rfl
  · rw [← settings]
    exact fun e he => (clearCoilEnd_extends (endedBySupply r s1)).2 (List.mem_append_right _ he)

end

/-- Settles O54: the two questions in their own events, and the supply notice step by step. -/
theorem supplySealsAndQuestionsAreAnswered : Obligations.SupplySealsAndQuestionsAreAnswered := by
  intro s hb hc
  refine ⟨⟨_, exec_cutEndedQuestion hb, (take_only s _).step (emit_only _ _), _, rfl, ?_⟩,
    ⟨_, exec_heldBackQuestion hb, (take_only s _).step (emit_only _ _), _, rfl, ?_⟩, ?_⟩
  · cases s.coil.openSlot <;> simp
  · exact List.any_eq_true
  · set s0 := s.take .supplyNotice with hs0
    have node : s.coilNode = true := by simp [State.coilNode, hb, hc]
    set u := supplyEnded s0 with hu
    have step : SupplyStep s0 u := supplyEnded_step s0
    have last : SupplyStep u (execSupplyNotice.sealSupply u) := sealSupply_step u
    have whole := step.trans last
    have kept (h : ∀ r, s.coil.openSlot = some r → ¬ r.making) : u.coil.openSlot = s.coil.openSlot := by
      rw [hu, supplyEnded_of_not s0 h, (clearCoilEnd_extends _).1.coil_eq, sealGathering_openSlot]
      rfl
    have making {r : CoilRecord} (hr : s.coil.openSlot = some r) (hm : r.making) := supplyEnded_making s0 (r := r) hr hm
    refine ⟨_, exec_supplyNotice node, (take_only s _).grow.trans whole.only, fun h => ?_, fun r hr hg => supply_gathering s0 hr hg,
      fun r hr hm => ?_, fun r hr he => ?_, fun r hr hl => ?_, fun hn h => ?_⟩
    · have prot : (execSupplyNotice.endSupply (execSupplyNotice.sealGathering s0)).prot = s.prot :=
        ((sealGathering_step s0).only.trans (endSupply_step _).only).prot_eq
      exact last.due (clear_mem_clearCoilEnd (by rw [prot]; exact h))
    · obtain ⟨q, hq, coil, state, reason, segment, rest, cut, rng, due⟩ := making hr hm
      obtain ⟨handed, hold, after, -⟩ := supply_sealed s0 hq (by rw [state]; exact CoilRecord.making.logs hm)
      rw [coil] at handed
      refine ⟨handed, last.due (due List.mem_cons_self), hold, ?_, ?_, fun ht => ?_, fun hk => ?_, _, congrArg CoilBuilder.openSlot after,
        rfl, coil, reason, segment, fun hx => sealedBy_rng _ _ (rng (sub_neg.2 hx)),
        sealedBy_status _ _ (p := (· ≠ .expected)) (expire_status q)⟩
      · rw [after]
        exact rest
      · rw [after]
        exact cut
      · exact last.due (due (List.mem_cons_of_mem _ (twistSegmentRequest_mem_askOwn ht _)))
      · exact last.due (due (List.mem_cons_of_mem _ (knotSegmentRequest_mem_askOwn hk _)))
    · have hq := (kept fun q hq hm => ?_).trans hr
      · obtain ⟨handed, -, after, -⟩ := supply_sealed s0 hq (by rw [he]; rfl)
        exact ⟨handed, _, congrArg CoilBuilder.openSlot after, rfl, rfl, rfl, rfl⟩
      · cases hr.symm.trans hq
        simp [CoilRecord.making, he] at hm
    · have hq := (kept fun q hq hm => ?_).trans hr
      · rw [sealSupply_of_not fun q hq' => by cases hq.symm.trans hq'; rw [hl]; rfl]
        exact hq
      · cases hr.symm.trans hq
        simp [CoilRecord.making, hl] at hm
    · by_cases hl : ∃ q, u.coil.openSlot = some q ∧ q.state.logs = true
      · obtain ⟨q, hq, hl⟩ := hl
        exact (supply_sealed s0 hq hl).2.2.2 hn
      · have idle : ∀ r, s.coil.openSlot = some r → ¬ r.making := fun r hr hm => by
          obtain ⟨q, hq, -, state, -⟩ := making hr hm
          exact hl ⟨q, hq, by rw [state]; exact hm.logs⟩
        obtain ⟨r, hr, hg⟩ | ⟨r, hr, hs⟩ := h
        · rw [sealSupply_of_not fun q hq => by simpa using fun h => hl ⟨q, hq, h⟩, supplyEnded_of_not (s.take .supplyNotice) idle,
            (clearCoilEnd_extends _).1.meter_eq, sealGathering_of (s := s.take .supplyNotice) hr hg]
          exact (sealClosing_sealed _ _).clear (.inl hn)
        · have ended : r.state = .ended := by
            by_contra he
            exact idle r hr (by unfold CoilRecord.making; tauto)
          exact absurd ⟨r, (kept idle).trans hr, by rw [ended]; rfl⟩ hl

end Sys2Proof.Machine
end

section
/-! SUPPORT. CUT-DONE (R144, R149): what waits in the transmit queue while operations are handed to the store, the open that follows a cut,
the contributors listed, and the claim about it. -/

-- One declaration at a time, as in the frames: side by side these proofs ask for more threads than the memory limit allows.
set_option Elab.async false

namespace Sys2Proof.Machine

/-! ### Frames stay in the queue (R102) -/

section
variable (s : State)

theorem sendReply_contents_subset (k : ServiceKind) (d : Station) (b : List Byte) : s.contents ⊆ (sendReply k d b s).contents := by
  have h := sendReply_joined s k d b
  rcases Nat.lt_or_ge s.line.queue.length 8 with hl | hl
  · rw [(h.1 hl).1]
    exact List.subset_append_left _ _
  · rw [(h.2 hl).1]
    exact fun _ hc => hc

theorem startNext_contents_subset (ops : List StoreOp) : s.contents ⊆ (startNext ops s).contents := by
  have begins (x : StoreOp) (l : List StoreOp) (s : State) :
      s.contents ⊆ (beginOp x (s.withStore { s.store with waiting := l })).contents := by
    rw [State.contents, State.contents, (beginOp_only _ _).line_eq]
    exact fun _ hc => hc
  induction ops generalizing s with
  | nil => exact fun _ hc => hc
  | cons x ops ih =>
    cases x with
    | eraseBank b source =>
      rw [startNext]
      split
      · exact List.Subset.trans (sendReply_contents_subset s _ _ _) (ih _)
      · exact begins _ _ s
    | _ => exact begins _ _ s

theorem enqueue_contents_subset (op : StoreOp) : s.contents ⊆ (enqueue op s).contents := by
  unfold enqueue
  split
  · exact startNext_contents_subset s _
  · exact fun _ hc => hc

theorem handSeal_contents_subset (coil : Nat) : s.contents ⊆ (handSeal coil s).contents := by
  refine List.Subset.trans ?_ (enqueue_contents_subset _ _)
  unfold queueOffer
  dsimp only
  split
  · exact startNext_contents_subset s _
  · exact fun _ hc => hc

theorem sealClosing_contents_subset (r : CoilRecord) : s.contents ⊆ (sealClosing r s).contents :=
  handSeal_contents_subset (clearStatus (s.setClosing (some (r.sealedBy s)))) r.coil

end

/-! ### The open that follows a cut (R138, R139) -/

/-- A coil opens, the hold is cleared, and COIL-END, if present, is to clear (R144 steps 5 and 6). -/
def openedAfterCut (s : State) : State := execSupplyNotice.clearCoilEnd (clearHold (openCoil s))

section
variable (s : State)

theorem clearHold_extends : Extends [.due] s (clearHold s) := .ite (emit_extends s _) (.refl _ s)

theorem afterOpen_extends : Extends [.due] (openCoil s) (openedAfterCut s) :=
  (clearHold_extends (openCoil s)).trans (clearCoilEnd_extends _)

theorem openedAfterCut_only : Only [.due, .meter, .line, .coil, .store] s (openedAfterCut s) :=
  (openCoil_only s).step (afterOpen_extends s).1

/-- An open loses no event, no count and no frame. -/
theorem openCoil_kept : s.due ⊆ (openCoil s).due ∧ MeterKept s (openCoil s) ∧ s.contents ⊆ (openCoil s).contents := by
  unfold openCoil
  split
  · exact ⟨List.subset_append_left _ _, rfl, fun _ hc => hc⟩
  · rename_i n _
    set s1 := (convertFlag s.lineLength s).withCoil { s.coil with openSlot := some (newRecord s n), next := nextCoil n } with hs1
    obtain ⟨due, meter⟩ := enqueue_kept s1 (.programHeader n (headerBytes (newRecord s n)))
    have contents : s1.contents = s.contents := convertFlag_contents s _
    exact ⟨List.Subset.trans (convertFlag_due_subset _ s) due, (convertFlag_meterKept s.lineLength s).trans meter,
      contents ▸ enqueue_contents_subset s1 _⟩

theorem openedAfterCut_kept :
    s.due ⊆ (openedAfterCut s).due ∧ MeterKept s (openedAfterCut s) ∧ s.contents ⊆ (openedAfterCut s).contents := by
  obtain ⟨due, meter, contents⟩ := openCoil_kept s
  have after := afterOpen_extends s
  refine ⟨List.Subset.trans due after.2, meter.trans (.of_eq after.1.meter_eq), ?_⟩
  rw [State.contents, State.contents, after.1.line_eq]
  exact contents

theorem openedAfterCut_flagged {s0 : State} (h : Flagged .rng .convert s0 s) : Flagged .rng .convert s0 (openedAfterCut s) := by
  have after := afterOpen_extends s
  refine Flagged.kept (t := openCoil s) ?_ (congrArg Metering.flags after.1.meter_eq) (congrArg Metering.origin after.1.meter_eq)
    fun _ he => after.2 he
  unfold openCoil
  split
  · exact h.kept rfl rfl fun _ he => List.mem_append_left _ he
  · refine Flagged.enqueue (t := (convertFlag s.lineLength s).withCoil _) ?_ _
    exact (h.convert _).kept rfl rfl fun _ he => he

theorem openedAfterCut_meter (h : 0 ≤ s.lineLength) : (openedAfterCut s).meter = s.meter := by
  rw [(afterOpen_extends s).1.meter_eq]
  unfold openCoil
  split
  · rfl
  · rw [convertFlag_of_nonneg h]
    exact enqueue_meter _ (.inl h)

theorem openCoil_coil : (openCoil s).coil = { s.coil with
    openSlot := (openCoil s).coil.openSlot, next := (openCoil s).coil.next } := by
  unfold openCoil
  split
  · rfl
  · rw [(enqueue_only _ _).coil_eq]
    rfl

theorem openedAfterCut_coil : (openedAfterCut s).coil = { s.coil with
    openSlot := (openedAfterCut s).coil.openSlot, next := (openedAfterCut s).coil.next } := by
  rw [(afterOpen_extends s).1.coil_eq]
  exact openCoil_coil s

theorem clear_mem_openedAfterCut (h : .coilEnd ∈ s.prot.causes) : .clearCause .coilEnd ∈ (openedAfterCut s).due :=
  clear_mem_clearCoilEnd (by rw [((openCoil_only s).step (clearHold_only _)).prot_eq]; exact h)

variable {s} {n : Nat}

/-- A coil that opens with a number that is not the last (R138, R139). -/
theorem openedAfterCut_opens (hn : s.coil.next = some n) (hlast : n < 4294967295) :
    .coilHoldClear ∈ (openedAfterCut s).due ∧ (openedAfterCut s).coil.next = some (n + 1) ∧
      (openedAfterCut s).coil.openSlot = some (newRecord s n) ∧
      HandedToStore (.programHeader n (headerBytes (newRecord s n))) (openedAfterCut s) := by
  set s1 := (convertFlag s.lineLength s).withCoil { s.coil with openSlot := some (newRecord s n), next := nextCoil n } with hs1
  have hx : openCoil s = enqueue (.programHeader n (headerBytes (newRecord s n))) s1 := by
    unfold openCoil
    rw [hn]
  have coil : (openCoil s).coil = { s.coil with openSlot := some (newRecord s n), next := some (n + 1) } := by
    rw [hx, (enqueue_only _ _).coil_eq, hs1, nextCoil, if_pos hlast]
    rfl
  have handed : HandedToStore (.programHeader n (headerBytes (newRecord s n))) (openCoil s) := by
    rw [hx]
    exact enqueue_handed _ _ trivial
  have after := (afterOpen_extends s).1
  have hold : clearHold (openCoil s) = (openCoil s).emit [.coilHoldClear] := if_pos (by rw [coil]; rfl)
  refine ⟨(clearCoilEnd_extends _).2 ?_, ?_, ?_, handed.of_store (after.2 .store (by decide))⟩
  · rw [hold]
    exact List.mem_append_right _ (List.mem_singleton_self _)
  · rw [after.coil_eq, coil]
  · rw [after.coil_eq, coil]

end

/-! ### The contributors (R144, R149) -/

/-- A HEARD peer with TWIST or KNOT (R149). -/
def Peer.Contributes (p : Peer) : Prop := p.heard = true ∧ (p.roles.getLsbD 7 = true ∨ p.roles.getLsbD 6 = true)

section
variable {r : CoilRecord} {s t : State}

theorem heardPeers_mem {p : Peer} : p ∈ t.peers.filter (fun p => p.heard && (p.roles.getLsbD 7 || p.roles.getLsbD 6)) ↔
    p ∈ t.peers ∧ p.Contributes := by
  simp [Peer.Contributes]

theorem listContributors_mem (h : t.peers.length ≤ 14) (hr : r.contributors.length = 1) {p : Peer} (hp : p ∈ t.peers)
    (hc : p.Contributes) : ownContributor p.station ∈ (listContributors t r).contributors := by
  have short : (r.contributors ++ (t.peers.filter fun p => p.heard && (p.roles.getLsbD 7 || p.roles.getLsbD 6)).map
      fun p => ownContributor p.station).length ≤ 15 := by
    have := List.length_filter_le (fun p : Peer => p.heard && (p.roles.getLsbD 7 || p.roles.getLsbD 6)) t.peers
    rw [List.length_append, List.length_map, hr]
    omega
  change _ ∈ List.take 15 _
  rw [List.take_of_length_le short]
  exact List.mem_append_right _ (List.mem_map_of_mem (heardPeers_mem.2 ⟨hp, hc⟩))

variable (own : r.contributors = [ownContributor s.station])
include own

theorem fixSegment_contributors : (fixSegment s r).contributors =
    [if s.settings.twist = true ∨ s.settings.knot = true then ownContributor s.station
      else { ownContributor s.station with halts := r.ownHalts, status := .received }] := by
  unfold fixSegment settleOwn
  dsimp only
  by_cases h : s.settings.twist = true ∨ s.settings.knot = true
  · rw [if_pos (by simpa using h), if_pos h]
    exact own
  · rw [if_neg (by simpa using h), if_neg h, changeContributor]
    dsimp only
    rw [own]
    simp [ownContributor]

/-- The record is sealed at once exactly where no contribution is expected (R144 step 8, R149). -/
theorem complete_iff (state : RecordState) (hpeers : t.peers = s.peers) :
    (listContributors t { fixSegment s r with state := state }).complete = true ↔
      s.settings.twist = false ∧ s.settings.knot = false ∧ ∀ p ∈ s.peers, ¬ p.Contributes := by
  have list : (listContributors t { fixSegment s r with state := state }).contributors =
      ((fixSegment s r).contributors ++ (t.peers.filter fun p => p.heard && (p.roles.getLsbD 7 || p.roles.getLsbD 6)).map
        fun p => ownContributor p.station).take 15 := rfl
  have none (l : List Peer) : ((l.map fun p => ownContributor p.station).take 14).all (fun c => c.status == .received) = true ↔ l = [] := by
    cases l <;> simp [ownContributor]
  have idle : (t.peers.filter fun p => p.heard && (p.roles.getLsbD 7 || p.roles.getLsbD 6)) = [] ↔ ∀ p ∈ s.peers, ¬ p.Contributes := by
    rw [List.eq_nil_iff_forall_not_mem, ← hpeers]
    exact forall_congr' fun p => (not_congr heardPeers_mem).trans not_and
  rw [CoilRecord.complete, list, fixSegment_contributors own, List.singleton_append, List.take_succ_cons, List.all_cons,
    Bool.and_eq_true, none, idle]
  by_cases h : s.settings.twist = true ∨ s.settings.knot = true
  · rw [if_pos h]
    refine iff_of_false (fun hc => absurd hc.1 (by simp [ownContributor])) fun hc => ?_
    exact h.elim (by simp [hc.1]) (by simp [hc.2.1])
  · rw [if_neg h]
    have both : s.settings.twist = false ∧ s.settings.knot = false := by simpa using h
    simp [both]

end

/-! ### The steps of CUT-DONE (R144) -/

section
variable (r : CoilRecord) (s : State)

/-- The segment's flag is set, the cut timer stops, and the monitors are asked (R144 steps 1 and 2). -/
def segmentEnded : State :=
  ((convertFlag (s.segmentOf r) s).withCoil { s.coil with cutLeft := none }).emit (askOwn s.settings r.coil)

/-- The record moves into the CLOSING slot and the MARK CUT is handed over (R144 steps 3 and 4). -/
def cutMarked : State :=
  sendMark .cut (BitVec.ofNat 32 r.coil) (s.withCoil { s.coil with openSlot := none, closingSlot := some r })

/-- The record gathers, or is sealed where no contribution is expected (R144 steps 7 and 8). -/
def gatheredOrSealed (q : CoilRecord) (s : State) : State :=
  if q.complete then sealClosing q s
  else (s.setClosing (some q)).emit [.channelStartRequest 7 (delayRequest .ms1 s.settings.tallyWait)]

theorem closeUp_eq : closeUp r s = gatheredOrSealed (listContributors (openedAfterCut (cutMarked r s)) { r with state := .gathering })
    (openedAfterCut (cutMarked r s)) := rfl

section
variable {r s} (hc : s.coilNode = true) (hr : s.coil.openSlot = some r)
include hc hr

omit hc in
theorem exec_cutDone_ignored (h : r.state ≠ .cutting) : exec .cutDone s = .next (s.take .cutDone) := by
  change execCutDone s = _
  simp [execCutDone, hr, h]

theorem exec_cutDone_waiting (h : r.state = .cutting) (hs : s.coil.closingSlot ≠ none) : exec .cutDone s =
    .next (((segmentEnded r (s.take .cutDone)).setOpen (some { fixSegment s r with state := .ended })).emit
      [.channelStopRequest 7, .coilHoldSet]) := by
  change execCutDone s = _
  have some : s.coil.closingSlot.isSome = true := Option.isSome_iff_ne_none.2 hs
  simp [execCutDone, hr, hc, h, some]
  rfl

theorem exec_cutDone_closing (h : r.state = .cutting) (hs : s.coil.closingSlot = none) : exec .cutDone s =
    .next (closeUp (fixSegment s r) (segmentEnded r (s.take .cutDone))) := by
  change execCutDone s = _
  simp [execCutDone, hr, hc, h, hs]
  rfl

end

theorem segmentEnded_only : Only [.due, .meter, .coil] s (segmentEnded r s) :=
  (((convertFlag_only s _).grow (m := [.due, .meter, .coil])).step (withCoil_only _ _)).step (emit_only _ _)

theorem cutMarked_only : Only [.due, .meter, .line, .coil] s (cutMarked r s) :=
  (withCoil_only s _).after (l := [.due, .meter, .line, .coil]) (sendMark_only _ _ _).grow

theorem sendMark_due_subset (kind : MarkKind) (coil : BitVec 32) (s : State) : s.due ⊆ (sendMark kind coil s).due :=
  List.Subset.trans (convertFlag_due_subset _ s) (sendFrame_due_subset _ _)

theorem cutMarked_coil : (cutMarked r s).coil = { s.coil with openSlot := none, closingSlot := some r } :=
  (sendMark_only _ _ _).coil_eq

theorem segmentEnded_lineLength : (segmentEnded r s).lineLength = s.lineLength :=
  (convertFlag_meterKept (s.segmentOf r) s).lineLength (segmentEnded_only r s).settings_eq

theorem segmentEnded_flagged (h : s.segmentOf r < 0) : Flagged .rng .convert s (segmentEnded r s) :=
  (convertFlag_flagged h s).kept rfl rfl fun _ he => List.mem_append_left _ he

theorem segmentEnded_meter (h : 0 ≤ s.segmentOf r) : (segmentEnded r s).meter = s.meter := by
  change (convertFlag (s.segmentOf r) s).meter = _
  rw [convertFlag_of_nonneg h]

/-- A segment or a line length below 0 sets RNG (R29, R30, R144). -/
theorem cut_flagged (q : CoilRecord) (h : s.segmentOf r < 0 ∨ s.lineLength < 0) :
    Flagged .rng .convert s (openedAfterCut (cutMarked q (segmentEnded r s))) := by
  refine openedAfterCut_flagged _ ?_
  rcases lt_or_ge (s.segmentOf r) 0 with hx | hx
  · refine Flagged.sendFrame (Flagged.convert ?_ _) _
    exact (segmentEnded_flagged r s hx).kept rfl rfl fun _ he => he
  · refine Flagged.before (t := (segmentEnded r s).withCoil { (segmentEnded r s).coil with openSlot := none, closingSlot := some q })
      ?_ (segmentEnded_meter r s hx) (segmentEnded_only r s).settings_eq
    exact sendMark_flagged _ _ ((segmentEnded_lineLength r s).trans_lt (h.resolve_left (not_lt.2 hx)))

theorem cutMarked_lineLength : (cutMarked r s).lineLength = s.lineLength := sendMark_lineLength _ _ _

theorem cutMarked_meter (h : 0 ≤ s.lineLength) : (cutMarked r s).meter = s.meter := sendMark_meter _ _ (s := s.withCoil _) h

theorem cut_meter (q : CoilRecord) (hx : 0 ≤ s.segmentOf r) (hl : 0 ≤ s.lineLength) :
    (openedAfterCut (cutMarked q (segmentEnded r s))).meter = s.meter := by
  have line : 0 ≤ (segmentEnded r s).lineLength := (segmentEnded_lineLength r s).ge.trans' hl
  rw [openedAfterCut_meter _ ((cutMarked_lineLength q _).ge.trans' line), cutMarked_meter q _ line, segmentEnded_meter r s hx]

/-- The last steps change the CLOSING slot and keep what the earlier ones gave. -/
theorem gatheredOrSealed_kept (q : CoilRecord) (s : State) : let t := gatheredOrSealed q s
    Only [.due, .meter, .line, .coil, .store] s t ∧ s.due ⊆ t.due ∧ s.contents ⊆ t.contents ∧
      t.coil = { s.coil with closingSlot := t.coil.closingSlot } ∧
      ∀ {op}, (∀ b source, op ≠ .eraseBank b source) → HandedToStore op s → HandedToStore op t := by
  unfold gatheredOrSealed
  dsimp only
  split
  · have sealing := sealClosing_sealed q s
    refine ⟨sealClosing_only s q, sealing.due, sealClosing_contents_subset s q, ?_, sealing.store⟩
    rw [sealClosing_coil]
  · exact ⟨((setClosing_only s _).grow (m := [.due, .meter, .line, .coil, .store])).step (emit_only _ _),
      List.subset_append_left _ _, fun _ hc => hc, rfl, fun _ h => h⟩

end

/-! ### The node after the open that follows a cut -/

/-- The node before the record gathers or is sealed (R144 steps 1 to 6). -/
def cutOpened (r : CoilRecord) (s : State) : State := openedAfterCut (cutMarked (fixSegment s r) (segmentEnded r s))

section
variable (r : CoilRecord) (s : State)

theorem cutMarked_segmentEnded_only : Only [.due, .meter, .line, .coil] s (cutMarked (fixSegment s r) (segmentEnded r s)) :=
  ((segmentEnded_only r s).grow (m := [.due, .meter, .line, .coil])).step (cutMarked_only _ _)

theorem cutOpened_only : Only [.due, .meter, .line, .coil, .store] s (cutOpened r s) :=
  (cutMarked_segmentEnded_only r s).after (openedAfterCut_only _)

theorem cutMarked_segmentEnded_lineLength : (cutMarked (fixSegment s r) (segmentEnded r s)).lineLength = s.lineLength :=
  (cutMarked_lineLength _ _).trans (segmentEnded_lineLength r s)

theorem cutOpened_lineLength : (cutOpened r s).lineLength = s.lineLength :=
  ((openedAfterCut_kept _).2.1.lineLength (openedAfterCut_only _).settings_eq).trans (cutMarked_segmentEnded_lineLength r s)

theorem askOwn_subset_cutOpened : askOwn s.settings r.coil ⊆ (cutOpened r s).due := fun _ he =>
  (openedAfterCut_kept _).1 (sendMark_due_subset _ _ _ (List.mem_append_right _ he))

theorem cutMarked_segmentEnded_coil : (cutMarked (fixSegment s r) (segmentEnded r s)).coil =
    { s.coil with openSlot := none, closingSlot := some (fixSegment s r), cutLeft := none } := cutMarked_coil _ _

theorem cutOpened_cutLeft : (cutOpened r s).coil.cutLeft = none := by
  rw [cutOpened, openedAfterCut_coil, cutMarked_segmentEnded_coil]

theorem mark_mem_cutOpened (h : s.line.queue.length < 8) :
    FrameContent.mark .cut (BitVec.ofNat 32 r.coil) (mmField s.lineLength) ∈ (cutOpened r s).contents := by
  refine (openedAfterCut_kept _).2.2 ?_
  have joined := sendMark_joined .cut (BitVec.ofNat 32 (fixSegment s r).coil) ((segmentEnded r s).withCoil
    { (segmentEnded r s).coil with openSlot := none, closingSlot := some (fixSegment s r) })
  rw [State.withCoil_lineLength, segmentEnded_lineLength, (segmentFixed_frame s r).1] at joined
  have line : (segmentEnded r s).line = s.line := (segmentEnded_only r s).line_eq
  have mem := joined.mem (by rw [State.withCoil_line, line]; exact h)
  rw [cutMarked, (segmentFixed_frame s r).1]
  exact mem

theorem clear_mem_cutOpened (h : .coilEnd ∈ s.prot.causes) : .clearCause .coilEnd ∈ (cutOpened r s).due :=
  clear_mem_openedAfterCut _ (by rw [(cutMarked_segmentEnded_only r s).prot_eq]; exact h)

variable {s}

/-- The next coil opens with the line length of the cut (R138, R144 step 5). -/
theorem cutOpened_opens {n : Nat} (hn : s.coil.next = some n) (hlast : n < 4294967295) :
    .coilHoldClear ∈ (cutOpened r s).due ∧ (cutOpened r s).coil.next = some (n + 1) ∧
      ∃ q, (cutOpened r s).coil.openSlot = some q ∧ q.coil = n ∧ q.state = .opened ∧ q.startMicrometres = s.lineLength ∧
        HandedToStore (.programHeader n (headerBytes q)) (cutOpened r s) := by
  obtain ⟨hold, next, slot, handed⟩ := openedAfterCut_opens (s := cutMarked (fixSegment s r) (segmentEnded r s))
    (by rw [cutMarked_segmentEnded_coil]; exact hn) hlast
  exact ⟨hold, next, _, slot, rfl, rfl, cutMarked_segmentEnded_lineLength r s, handed⟩

end

/-! ### The record that gathers or is sealed (R144 steps 7 and 8, R149) -/

section
variable {r : CoilRecord} {s : State} (own : r.contributors = [ownContributor s.station])

theorem closeUp_fixSegment : closeUp (fixSegment s r) (segmentEnded r s) =
    gatheredOrSealed (listContributors (cutOpened r s) { fixSegment s r with state := .gathering }) (cutOpened r s) :=
  closeUp_eq (fixSegment s r) (segmentEnded r s)

include own

theorem closeUp_gathers
    (h : ¬ (s.settings.twist = false ∧ s.settings.knot = false ∧ ∀ p ∈ s.peers, ¬ p.Contributes)) :
    closeUp (fixSegment s r) (segmentEnded r s) = ((cutOpened r s).setClosing (some
      (listContributors (cutOpened r s) { fixSegment s r with state := .gathering }))).emit
        [.channelStartRequest 7 (delayRequest .ms1 s.settings.tallyWait)] := by
  have peers : (cutOpened r s).peers = s.peers := (cutOpened_only r s).2 .peers (by decide)
  rw [closeUp_fixSegment, gatheredOrSealed, if_neg (mt (complete_iff own _ peers).1 h), (cutOpened_only r s).settings_eq]

theorem closeUp_seals (h : s.settings.twist = false ∧ s.settings.knot = false ∧ ∀ p ∈ s.peers, ¬ p.Contributes) :
    closeUp (fixSegment s r) (segmentEnded r s) =
      sealClosing (listContributors (cutOpened r s) { fixSegment s r with state := .gathering }) (cutOpened r s) := by
  have peers : (cutOpened r s).peers = s.peers := (cutOpened_only r s).2 .peers (by decide)
  rw [closeUp_fixSegment, gatheredOrSealed, if_pos ((complete_iff own _ peers).2 h)]

theorem gathering_lists (hlen : s.peers.length ≤ 14) {p : Peer} (hp : p ∈ s.peers) (hc : p.Contributes) :
    ownContributor p.station ∈ (listContributors (cutOpened r s) { fixSegment s r with state := .gathering }).contributors := by
  have peers : (cutOpened r s).peers = s.peers := (cutOpened_only r s).2 .peers (by decide)
  refine listContributors_mem (by rw [peers]; exact hlen) ?_ (by rw [peers]; exact hp) hc
  change (fixSegment s r).contributors.length = 1
  rw [fixSegment_contributors own]
  rfl

end

/-- CUT-DONE with the CLOSING slot taken: the record waits in ENDED (R144 step 3). -/
theorem cutDone_waits {r : CoilRecord} {s : State} (node : s.coilNode = true) (hr : s.coil.openSlot = some r)
    (hcut : r.state = .cutting) (hs : s.coil.closingSlot ≠ none) :
    ∃ t, exec .cutDone s = .next t ∧ Only [.due, .meter, .coil] s t ∧
      (.channelStopRequest 7 :: .coilHoldSet :: askOwn s.settings r.coil) ⊆ t.due ∧
      t.coil = { s.coil with openSlot := some { fixSegment s r with state := .ended }, cutLeft := none } ∧
      (s.segmentOf r < 0 → Flagged .rng .convert s t) ∧ (0 ≤ s.segmentOf r → Unflagged s t) := by
  refine ⟨_, exec_cutDone_waiting node hr hcut hs, ?_, ?_, rfl, fun hx => ?_, fun hx => ?_⟩
  · exact (((take_only s _).after (segmentEnded_only r _)).step (setOpen_only _ _)).step (emit_only _ _)
  · rintro e (_ | ⟨_, _ | ⟨_, he⟩⟩)
    · exact List.mem_append_right _ List.mem_cons_self
    · exact List.mem_append_right _ (List.mem_cons_of_mem _ List.mem_cons_self)
    · exact List.mem_append_left _ (List.mem_append_right _ he)
  · exact ((segmentEnded_flagged r (s.take .cutDone) hx).before rfl rfl).kept rfl rfl fun _ he => List.mem_append_left _ he
  · exact .of_meter (segmentEnded_meter r (s.take .cutDone) hx)

/-- Settles O49: the record waits where the CLOSING slot is taken, and else moves there step by step. -/
theorem cutDoneClosesTheCoil : Obligations.CutDoneClosesTheCoil := by
  intro r s hb hc hr own
  have node : s.coilNode = true := by simp [State.coilNode, hb, hc]
  obtain ⟨name, -, segment, -⟩ := segmentFixed_frame s r
  by_cases hcut : r.state = .cutting
  · by_cases hs : s.coil.closingSlot = none
    · set s0 := s.take .cutDone with hs0
      set u := cutOpened r s0 with hu
      set q := listContributors u { fixSegment s0 r with state := .gathering } with hq
      have only : Only [.due, .meter, .line, .coil, .store] s u := (take_only s _).after (cutOpened_only r s0)
      have asked : askOwn s.settings r.coil ⊆ u.due := askOwn_subset_cutOpened r s0
      have cutLeft : u.coil.cutLeft = none := cutOpened_cutLeft r s0
      have mark := mark_mem_cutOpened r s0
      have clear := clear_mem_cutOpened r s0
      have opens := fun n => cutOpened_opens r (s := s0) (n := n)
      have line : u.lineLength = s.lineLength := cutOpened_lineLength r s0
      have flagged (h : s.lineLength < r.startMicrometres ∨ s.lineLength < 0) : Flagged .rng .convert s u :=
        (cut_flagged r s0 _ (h.imp_left sub_neg.2)).before rfl rfl
      have settled (h : ¬ s.lineLength < r.startMicrometres) (hl : 0 ≤ s.lineLength) : u.meter = s.meter :=
        cut_meter r s0 _ (sub_nonneg.2 (not_lt.1 h)) hl
      have fixed : q.coil = r.coil ∧ q.state = .gathering ∧ q.segment = some (mmOf (s.lineLength - r.startMicrometres)) :=
        ⟨name, rfl, segment⟩
      have gathers := closeUp_gathers (s := s0) (r := r) own
      have seals := closeUp_seals (s := s0) (r := r) own
      have lists := fun hlen p => gathering_lists (s := s0) (r := r) own hlen (p := p)
      obtain ⟨only7, due7, contents7, coil7, store7⟩ := gatheredOrSealed_kept q u
      have hx := exec_cutDone_closing node hr hcut hs
      have hx : exec .cutDone s = .next (closeUp (fixSegment s0 r) (segmentEnded r s0)) := hx
      rw [closeUp_fixSegment, ← hu, ← hq] at hx gathers seals
      rw [← hu, ← hq] at lists
      simp only [← hu] at mark clear opens
      clear_value q u
      refine ⟨_, hx, only.trans only7, fun h => absurd hcut h, fun _ => ⟨?_, fun ht => ?_, fun hk => ?_⟩,
        fun _ h => absurd hs h, fun _ _ => ⟨fun hl => contents7 (mark hl), fun hp => due7 (clear hp), fun n hn hlast => ?_,
          fun hsilent => ?_, fun hsilent => ?_⟩⟩
      · rw [coil7]
        exact cutLeft
      · exact due7 (asked (twistSegmentRequest_mem_askOwn ht _))
      · exact due7 (asked (knotSegmentRequest_mem_askOwn hk _))
      · obtain ⟨hold, next, q', slot, coil, state, start, handed⟩ := opens n hn hlast
        refine ⟨due7 hold, ?_, q', ?_, coil, state, start, store7 (by simp) handed⟩
        · rw [coil7]
          exact next
        · rw [coil7]
          exact slot
      · rw [gathers hsilent]
        exact ⟨List.mem_append_right _ List.mem_cons_self,
          fun h => (flagged h).kept rfl rfl fun _ he => List.mem_append_left _ he, fun h hl => .of_meter (settled h hl),
          q, rfl, fixed.2.1, ⟨fixed.1, fixed.2.2⟩, fun p hp hcon hlen => ⟨_, lists hlen p hp hcon, rfl, rfl⟩⟩
      · have sealing := sealClosing_sealed q u
        have coil := sealClosing_coil q u
        rw [seals hsilent]
        refine ⟨fixed.1 ▸ sealing.kept, fun hl => sealing.clear (.inl (line.ge.trans' hl)), q.sealedBy u, ?_, rfl,
          ⟨fixed.1, fixed.2.2⟩, fun h => sealedBy_rng _ _ ?_⟩
        · rw [coil]
        · rw [(flagged h).1]
          rfl
    · obtain ⟨t, hx, only, due, coil, flagged, unflagged⟩ := cutDone_waits node hr hcut hs
      refine ⟨t, hx, only.grow, fun h => absurd hcut h, fun _ => ⟨by rw [coil], fun ht => ?_, fun hk => ?_⟩,
        fun _ _ => ⟨by rw [coil], ⟨{ fixSegment s r with state := .ended }, by rw [coil], rfl, name, segment⟩,
          due List.mem_cons_self, fun hx => flagged (sub_neg.2 hx), fun hx => unflagged (sub_nonneg.2 (not_lt.1 hx)), due (List.mem_cons_of_mem _ List.mem_cons_self), only.2 .store (by decide)⟩,
        fun _ h => absurd h hs⟩
      · exact due (List.mem_cons_of_mem _ (List.mem_cons_of_mem _ (twistSegmentRequest_mem_askOwn ht _)))
      · exact due (List.mem_cons_of_mem _ (List.mem_cons_of_mem _ (knotSegmentRequest_mem_askOwn hk _)))
  · exact ⟨_, exec_cutDone_ignored hr hcut, (take_only s _).grow, fun _ => ⟨rfl, rfl, rfl⟩, fun h => absurd h hcut,
      fun h => absurd h hcut, fun h => absurd h hcut⟩

end Sys2Proof.Machine
end

section
/-! SUPPORT. The requests of a terminal that are answered or queued (R168, R170, R174 to R178), and the claim about them. -/

-- One declaration at a time, as in the frames: side by side these proofs ask for more threads than the memory limit allows.
set_option Elab.async false

namespace Sys2Proof.Machine

section
variable {s : State} (source : Station)

theorem State.answers_of (h1 : s.startRec.started = true) (h2 : s.startRec.station ≠ 0) : s.answers = true := by
  simp [State.answers, State.station, h1, h2]

theorem State.storeBusy_iff : s.storeBusy = true ↔ 4 ≤ s.store.waiting.length := by simp [State.storeBusy]

/-- What a command that only replies does. -/
theorem reply_of_take {c : Instr} {kind : ServiceKind} {payload : List Byte}
    (hx : exec c s = .next (sendReply kind source payload (s.take c))) :
    Completes c s fun t => Only [.due, .meter, .line] s t ∧ Joined (.reply kind source payload) s t ∧ t.store = s.store ∧
      t.coil = s.coil :=
  have only : Only [.due, .meter, .line] s (sendReply kind source payload (s.take c)) :=
    (take_only s c).after (sendReply_only _ _ _ _)
  ⟨_, hx, only, sendReply_joined (s.take c) _ _ _, only.2 .store (by decide), only.coil_eq⟩

/-- What a command that only hands an operation to the store does. -/
theorem enqueue_of_take {c : Instr} {op : StoreOp} (hx : exec c s = .next (enqueue op (s.take c))) (hop : Begins (s.take c) op) :
    Completes c s fun t => Only [.due, .meter, .line, .store] s t ∧ HandedToStore op t :=
  ⟨_, hx, (take_only s c).after (enqueue_only _ _), enqueue_handed _ _ hop⟩

variable (ha : s.answers = true)
include ha

theorem recall_effect (coil : BitVec 32) (parts : Byte) : Completes (.recall source coil parts) s (fun t =>
    Only [.due, .meter, .line, .store] s t ∧ (coil = 0 → Joined (.reply .recall source [5]) s t ∧ t.store = s.store) ∧
    (coil ≠ 0 → 4 ≤ s.store.waiting.length → Joined (.reply .recall source [1]) s t ∧ t.store = s.store) ∧
    (coil ≠ 0 → s.store.waiting.length < 4 → HandedToStore (.readRecord coil.toNat parts source) t)) := by
  set s0 := s.take (.recall source coil parts)
  have hx : exec (.recall source coil parts) s = .next (if coil = 0 then sendReply .recall source [5] s0
      else if s.storeBusy then sendReply .recall source [1] s0 else enqueue (.readRecord coil.toNat parts source) s0) :=
    congrArg Host.Outcome.next (if_neg (by simp [ha]))
  by_cases h0 : coil = 0
  · rw [if_pos h0] at hx
    obtain ⟨t, hx, only, joined, store, -⟩ := reply_of_take source hx
    exact ⟨t, hx, only.grow, fun _ => ⟨joined, store⟩, fun h => absurd h0 h, fun h => absurd h0 h⟩
  · rw [if_neg h0] at hx
    by_cases hb : s.storeBusy = true
    · rw [if_pos hb] at hx
      obtain ⟨t, hx, only, joined, store, -⟩ := reply_of_take source hx
      exact ⟨t, hx, only.grow, fun h => absurd h h0, fun _ _ => ⟨joined, store⟩,
        fun _ h => absurd (State.storeBusy_iff.1 hb) (Nat.not_le.2 h)⟩
    · rw [if_neg hb] at hx
      obtain ⟨t, hx, only, handed⟩ := enqueue_of_take hx trivial
      exact ⟨t, hx, only, fun h => absurd h h0, fun _ h => absurd (State.storeBusy_iff.2 h) hb, fun _ _ => handed⟩

theorem collected_effect (coil : BitVec 32) : Completes (.collected source coil) s (fun t =>
    Only [.due, .meter, .line, .store] s t ∧
    (s.begun = false → Joined (.reply .collected source [4]) s t ∧ t.store = s.store) ∧
    (s.begun = true → coil = 0 → Joined (.reply .collected source [5]) s t ∧ t.store = s.store) ∧
    (s.begun = true → coil ≠ 0 → 4 ≤ s.store.waiting.length → Joined (.reply .collected source [1]) s t ∧ t.store = s.store) ∧
    (s.begun = true → coil ≠ 0 → s.store.waiting.length < 4 → HandedToStore (.markCollected coil.toNat source) t)) := by
  set s0 := s.take (.collected source coil)
  have hx : exec (.collected source coil) s = .next (if !s.begun then sendReply .collected source [4] s0
      else if coil = 0 then sendReply .collected source [5] s0
      else if s.storeBusy then sendReply .collected source [1] s0 else enqueue (.markCollected coil.toNat source) s0) :=
    congrArg Host.Outcome.next (if_neg (by simp [ha]))
  cases hb : s.begun with
  | false =>
    rw [hb, if_pos (by rfl)] at hx
    obtain ⟨t, hx, only, joined, store, -⟩ := reply_of_take source hx
    exact ⟨t, hx, only.grow, fun _ => ⟨joined, store⟩, nofun, nofun, nofun⟩
  | true =>
    rw [hb, if_neg (by simp)] at hx
    by_cases h0 : coil = 0
    · rw [if_pos h0] at hx
      obtain ⟨t, hx, only, joined, store, -⟩ := reply_of_take source hx
      exact ⟨t, hx, only.grow, nofun, fun _ _ => ⟨joined, store⟩, fun _ h => absurd h0 h, fun _ h => absurd h0 h⟩
    · rw [if_neg h0] at hx
      by_cases hf : s.storeBusy = true
      · rw [if_pos hf] at hx
        obtain ⟨t, hx, only, joined, store, -⟩ := reply_of_take source hx
        exact ⟨t, hx, only.grow, nofun, fun _ h => absurd h h0, fun _ _ _ => ⟨joined, store⟩,
          fun _ _ h => absurd (State.storeBusy_iff.1 hf) (Nat.not_le.2 h)⟩
      · rw [if_neg hf] at hx
        obtain ⟨t, hx, only, handed⟩ := enqueue_of_take hx trivial
        exact ⟨t, hx, only, nofun, fun _ h => absurd h h0, fun _ _ h => absurd (State.storeBusy_iff.2 h) hf, fun _ _ _ => handed⟩

theorem target_effect (length : BitVec 32) : Completes (.target source length) s (fun t =>
    Only [.due, .meter, .line, .coil] s t ∧
    (s.begun = true → s.settings.coil = true → length ≠ 0 → Joined (.reply .target source [0]) s t ∧
      t.coil = { s.coil with pendingTarget := length.toNat }) ∧
    (s.begun = true → s.settings.coil = true → length = 0 → Joined (.reply .target source [5]) s t ∧ t.coil = s.coil) ∧
    (s.begun = false ∨ (s.settings.coil = false ∧ length ≠ 0) → Joined (.reply .target source [4]) s t ∧ t.coil = s.coil)) := by
  set s0 := s.take (.target source length)
  have hx : exec (.target source length) s = .next (if !s.begun then sendReply .target source [4] s0
      else if length = 0 then sendReply .target source [5] s0
      else if !s.settings.coil then sendReply .target source [4] s0
      else sendReply .target source [0] (s0.withCoil { s.coil with pendingTarget := length.toNat })) :=
    congrArg Host.Outcome.next (if_neg (by simp [ha]))
  cases hb : s.begun with
  | false =>
    rw [hb, if_pos (by rfl)] at hx
    obtain ⟨t, hx, only, joined, -, coil⟩ := reply_of_take source hx
    exact ⟨t, hx, only.grow, nofun, nofun, fun _ => ⟨joined, coil⟩⟩
  | true =>
    rw [hb, if_neg (by simp)] at hx
    by_cases h0 : length = 0
    · rw [if_pos h0] at hx
      obtain ⟨t, hx, only, joined, -, coil⟩ := reply_of_take source hx
      exact ⟨t, hx, only.grow, fun _ _ h => absurd h0 h, fun _ _ _ => ⟨joined, coil⟩, by simp [h0]⟩
    · rw [if_neg h0] at hx
      cases hc : s.settings.coil with
      | false =>
        rw [hc, if_pos (by rfl)] at hx
        obtain ⟨t, hx, only, joined, -, coil⟩ := reply_of_take source hx
        exact ⟨t, hx, only.grow, nofun, nofun, fun _ => ⟨joined, coil⟩⟩
      | true =>
        rw [hc, if_neg (by simp)] at hx
        have only := sendReply_only (s0.withCoil { s.coil with pendingTarget := length.toNat }) .target source [0]
        refine ⟨_, hx, ?_, fun _ _ _ => ⟨sendReply_joined (s0.withCoil _) _ _ _, only.coil_eq⟩, fun _ _ h => absurd h h0, by simp⟩
        exact (((take_only s _).grow (m := [.due, .meter, .line, .coil])).step (withCoil_only _ _)).step only

theorem clearflags_effect : Completes (.clearflags source) s (fun t => Only [.due, .meter, .line] s t ∧
    (s.begun = false → Joined (.reply .clearflags source [4]) s t) ∧
    (s.begun = true → Joined (.reply .clearflags source [0]) s t ∧
      ({ t.meter with flags := s.meter.flags, origin := s.meter.origin } = s.meter) ∧
      (s.settings.pacePublish = false → t.meter.flags = clearFlags ∧ t.meter.origin = .none))) := by
  set s0 := s.take (.clearflags source)
  have hx : exec (.clearflags source) s = .next (if !s.begun then sendReply .clearflags source [4] s0
      else sendReply .clearflags source [0] (clearStatus s0)) := congrArg Host.Outcome.next (if_neg (by simp [ha]))
  cases hb : s.begun with
  | false =>
    rw [hb, if_pos (by rfl)] at hx
    obtain ⟨t, hx, only, joined, -⟩ := reply_of_take source hx
    exact ⟨t, hx, only, fun _ => joined, nofun⟩
  | true =>
    rw [hb, if_neg (by simp)] at hx
    refine ⟨_, hx, ?_, nofun, fun _ => ⟨sendReply_joined (clearStatus s0) _ _ _, ?_, fun hp => ?_⟩⟩
    · exact (((take_only s _).grow (m := [.due, .meter, .line])).step (clearStatus_only _)).trans (sendReply_only _ _ _ _)
    · exact (clearStatus_meterKept s0).trans (sendFrame_meterKept _ _)
    · have quiet : Quiet (clearStatus s0) := .inr (by
        change (s.begun && s.settings.pacePublish) = false
        simp [hp])
      have meter : (sendReply .clearflags source [0] (clearStatus s0)).meter = (clearStatus s0).meter := sendFrame_meter _ quiet
      rw [meter]
      exact ⟨rfl, rfl⟩

end

/-- Settles O59: each request by its own lemma. -/
theorem requestsAreAnsweredOrQueued : Obligations.RequestsAreAnsweredOrQueued := by
  intro source s h1 h2
  have ha := State.answers_of h1 h2
  refine ⟨fun page => ?_, recall_effect source ha, collected_effect source ha, target_effect source ha, clearflags_effect source ha⟩
  refine ⟨_, congrArg Host.Outcome.next (if_pos ha), (take_only s _).after (sendFrame_only _ _), ?_⟩
  exact sendFrame_joined (s.take (.query source page)) _ rfl (.inl (by simp))

end Sys2Proof.Machine
end

section
/-! SUPPORT. The pages of a STATUS reply (R175, R176, Table 10-2): which content each page has, and its values byte by byte. -/

-- One declaration at a time, as in the frames: side by side these proofs ask for more threads than the memory limit allows.
set_option Elab.async false

namespace Sys2Proof.Machine

/-! ### The pages (Table 10-2) -/

theorem toList_getD {α : Type} {n : Nat} (v : Vector α n) (i : Fin n) (d : α) : v.toList.getD i d = v[i] := by
  rw [List.getD_eq_getElem _ _ (by simp)]
  simp

section
variable (s : State)

theorem pageContent_channel (i : Fin 8) : pageContent s (4 + i) = channelPage (s.channel i) := by
  have hi := i.isLt
  simp (disch := omega) only [pageContent, if_pos, if_neg, Nat.add_sub_cancel_left, toList_getD]
  rfl

theorem pageContent_spindle (i : Fin 4) : pageContent s (12 + i) = spindlePage s.settings.spindles[i] (s.spindle i) := by
  have hi := i.isLt
  simp (disch := omega) only [pageContent, if_pos, if_neg, Nat.add_sub_cancel_left, toList_getD]
  rfl

theorem pageContent_stats (i : Fin 4) : pageContent s (16 + i) = statsPage (s.spindle i).stats := by
  have hi := i.isLt
  simp (disch := omega) only [pageContent, if_pos, if_neg, Nat.add_sub_cancel_left, toList_getD]
  rfl

theorem pageContent_scanEntry (i : Fin 8) : pageContent s (22 + i) = scanEntryPage s.settings.scan[i] s.sampler.entries[i] := by
  have hi := i.isLt
  simp (disch := omega) only [pageContent, if_pos, if_neg, Nat.add_sub_cancel_left, toList_getD]

theorem pageContent_history (i : Fin 4) : pageContent s (33 + i) = (fourOf s.knot.history i).flatMap rowEntryBytes := by
  have hi := i.isLt
  simp (disch := omega) only [pageContent, if_pos, if_neg, Nat.add_sub_cancel_left]

theorem pageContent_peer {i : Nat} (hi : i < 16) : pageContent s (38 + i) = ((s.peers.drop i).take 1).flatMap peerPage := by
  simp (disch := omega) only [pageContent, if_pos, if_neg, Nat.add_sub_cancel_left]

theorem pageContent_haltTable (i : Fin 8) : pageContent s (55 + i) = (fourOf s.prot.table i).flatMap haltEntryBytes := by
  have hi := i.isLt
  simp (disch := omega) only [pageContent, if_pos, if_neg, Nat.add_sub_cancel_left]

theorem pageContent_openSlot (i : Fin 8) : pageContent s (64 + i) = slotPage s s.coil.openSlot i := by
  have hi := i.isLt
  simp (disch := omega) only [pageContent, if_pos, if_neg, Nat.add_sub_cancel_left]

theorem pageContent_closingSlot (i : Fin 8) : pageContent s (72 + i) = slotPage s s.coil.closingSlot i := by
  have hi := i.isLt
  simp (disch := omega) only [pageContent, if_pos, if_neg, Nat.add_sub_cancel_left]

theorem pageContent_heldSlot (i : Fin 8) : pageContent s (80 + i) = slotPage s s.coil.heldSlot i := by
  have hi := i.isLt
  simp (disch := omega) only [pageContent, if_pos, if_neg, Nat.add_sub_cancel_left]

end

/-! ### Values (R176) -/

theorem boolByte_not (b : Bool) : boolByte (!b) = if b = true then 0 else 1 := by cases b <;> rfl

theorem bytesBE_one (b : Byte) : bytesBE 1 b.toNat = [b] := by
  simp [bytesBE]

theorem haltEntryBytes_eq (h : HaltEntry) : haltEntryBytes h =
    [BitVec.ofNat 8 h.station.val, h.cause, h.serial] ++ optOnes 4 (h.length.map BitVec.toNat) ++ [if h.byHalt = true then 0 else 1] := by
  rw [haltEntryBytes, boolByte_not]
  rfl

theorem linePage_queue (q : List QueuedFrame) : q.flatMap (fun f => [boolByte (!f.urgent), byte1 f.attempts]) =
    q.flatMap (fun f => [if f.urgent = true then 0 else 1, BitVec.ofNat 8 f.attempts]) :=
  List.flatMap_congr fun f _ => by rw [boolByte_not]; rfl

theorem peerPage_eq (p : Peer) : peerPage p =
    [BitVec.ofNat 8 p.station.val, p.roles, p.permit] ++ bytesBE 3 p.causes.toNat ++ bytesBE 4 p.coil.toNat ++
      optOnes 2 (p.pace.map (fun x => x.v.toNat)) ++ optOnes 4 (p.pace.map (fun x => x.length.toNat)) ++
      (match p.halt with
        | some h => [h.serial, h.cause]
        | none => [0, 0]) ++ [p.sequence, if p.heard = true then 0 else 1] ++ bytesBE 2 (p.age / 1000) := by
  rw [peerPage, boolByte_not, List.append_assoc (_ ++ optOnes 4 _)]
  cases p.halt with
  | none => rfl
  | some h =>
    have both : optZero 1 (some h.serial.toNat) ++ optZero 1 (some h.cause.toNat) = [h.serial, h.cause] := by
      simp [optZero, bytesBE_one]
    rw [Option.map_some, Option.map_some, both]
    rfl

theorem peerPages (l : List Peer) (i : Nat) :
    (l[i]? = none → ((l.drop i).take 1).flatMap peerPage = []) ∧
      ∀ p, l[i]? = some p → ((l.drop i).take 1).flatMap peerPage = peerPage p := by
  rw [List.take_one, List.head?_drop]
  refine ⟨fun h => ?_, fun p h => ?_⟩
  · rw [h]
    rfl
  · rw [h]
    exact List.append_nil _

theorem slotPage_some (s : State) (r : CoilRecord) (i : Fin 8) : slotPage s (some r) i =
    [byte1 r.state.code, boolByte r.heldBack] ++ ((recordBytes (r.asSealed s)).drop (32 * i)).take 32 ++
      (if i = 0 then optZero 1 r.anchor else []) := by
  simp only [slotPage, Fin.ext_iff, Fin.val_zero]

theorem slotPages {s : State} {base : Nat} {c : Option CoilRecord} {i : Fin 8} (hp : pageContent s (base + i) = slotPage s c i) :
    (c = none → pageContent s (base + i) = [0xFF]) ∧ ∀ r, c = some r → pageContent s (base + i) =
      [byte1 r.state.code, boolByte r.heldBack] ++ ((recordBytes (r.asSealed s)).drop (32 * i)).take 32 ++
        (if i = 0 then optZero 1 r.anchor else []) := by
  rw [hp]
  constructor
  · rintro rfl
    rfl
  · rintro r rfl
    exact slotPage_some s r i

theorem patternByte_eq (p : Protection) : (if p.blinkLeft.isSome = true then 3 else byte1 p.lamp.pattern.code) =
    if p.blinkLeft = none then byte1 p.lamp.pattern.code else 3 := by
  cases p.blinkLeft <;> rfl

theorem opPlaces_eq (l : List StoreOp) : opPlaces l =
    (l.take 4).map (fun o => byte1 o.code) ++ List.replicate (4 - (l.take 4).length) 0xFF := by
  rw [opPlaces, padTo, List.length_map]

end Sys2Proof.Machine
end

section
/-! SUPPORT. The transmitter (R105, R106, R108): the bytes of an attempt by the kind of its frame, the arithmetic status that an attempt
leaves, the join of the line, and the claim about the pages and the transmitter. -/

-- One declaration at a time, as in the frames: side by side these proofs ask for more threads than the memory limit allows.
set_option Elab.async false

namespace Sys2Proof.Machine

/-! ### The arithmetic status after an attempt has begun (R29, R108) -/

/-- What an attempt of a frame leaves of the metering unit: the pace part of a PRESENCE that begins at a negative line length sets RNG
with origin CONVERT, and no other begin sets a flag. -/
def Measured (f : QueuedFrame) (s t : State) : Prop :=
  MeterKept s t ∧
    (f.content = .presence → s.begun = true ∧ s.settings.pacePublish = true → s.lineLength < 0 → Flagged .rng .convert s t) ∧
    (f.content ≠ .presence ∨ ¬ (s.begun = true ∧ s.settings.pacePublish = true) ∨ 0 ≤ s.lineLength → Unflagged s t)

section
variable {s s0 : State} {f : QueuedFrame} {rest : List QueuedFrame}

theorem State.publishes_iff : s.publishes = true ↔ s.begun = true ∧ s.settings.pacePublish = true := by simp [State.publishes]

theorem beginAttempt_measured (h : s.line.queue = f :: rest) : Measured f s (beginAttempt s) := by
  refine ⟨beginAttempt_meterKept s, fun hc hp hl => ?_, fun hn => ?_⟩
  · rw [beginAttempt_cons h, if_pos ⟨hc, State.publishes_iff.2 hp⟩]
    exact convertFlag_flagged (s := s.onLine f rest) hl
  · rw [beginAttempt_cons h]
    split
    · rename_i hc
      have line : 0 ≤ s.lineLength := (hn.resolve_left (not_not.2 hc.1)).resolve_left (not_not.2 (State.publishes_iff.1 hc.2))
      rw [convertFlag_of_nonneg line]
      exact ⟨rfl, rfl⟩
    · exact ⟨rfl, rfl⟩

theorem Measured.before {t : State} (h : Measured f s0 t) (hm : s0.meter = s.meter) (hs : s0.settings = s.settings)
    (hp : s0.prot = s.prot) : Measured f s t := by
  obtain ⟨kept, flagged, unflagged⟩ := h
  have begun : s0.begun = s.begun := by rw [State.begun, State.begun, hp]
  have line : s0.lineLength = s.lineLength := by rw [State.lineLength, State.lineLength, hm, hs]
  rw [begun, hs, line] at flagged unflagged
  refine ⟨?_, fun hc hp hl => (flagged hc hp hl).before hm hs, fun hn => ?_⟩
  · rw [MeterKept, hm] at kept
    exact kept
  · have u := unflagged hn
    rw [Unflagged, hm] at u
    exact u

theorem beginAttempt_onLine (h : s.line.queue = f :: rest) : (beginAttempt s).line = (s.onLine f rest).line := by
  rw [beginAttempt_cons h]
  split
  · exact convertFlag_line (s.onLine f rest) s.lineLength
  · rfl

/-! ### The join of the line (R105) -/

/-- The node as the transmitter joins the line, before the queue is looked at. -/
def lineJoined (s : State) : State :=
  ((s.take .transmitterJoin).withLine { s.line with
    idle := max 40 s.line.idle
    presenceLeft := some 0
    tx := if s.line.queue = [] then .ready else .gap }).emit [.presenceTimerExpiry]

theorem lineJoined_only : Only [.due, .line] s (lineJoined s) :=
  (((take_only s _).grow (m := [.due, .line])).step (withLine_only _ _)).step (emit_only _ _)

theorem exec_transmitterJoin (h : s.line.tx = .starting) : exec .transmitterJoin s = .next (pollLine (lineJoined s)) :=
  congrArg Host.Outcome.next (if_pos h)

theorem exec_transmitterJoin_other (h : s.line.tx ≠ .starting) : exec .transmitterJoin s = .next (s.take .transmitterJoin) :=
  congrArg Host.Outcome.next (if_neg h)

theorem pollLine_ready_nil (ht : s.line.tx = .ready) (hq : s.line.queue = []) : pollLine s = s := by
  unfold pollLine
  rw [ht, hq]

theorem pollLine_gap_cons (ht : s.line.tx = .gap) (hq : s.line.queue = f :: rest) :
    pollLine s = if gapOf s.station f ≤ s.line.idle then beginAttempt s else s := by
  unfold pollLine
  rw [ht, hq]

theorem lineJoined_nil (hq : s.line.queue = []) : pollLine (lineJoined s) = lineJoined s :=
  pollLine_ready_nil (if_pos hq) hq

theorem lineJoined_cons (hq : s.line.queue = f :: rest) : pollLine (lineJoined s) =
    if gapOf s.station f ≤ max 40 s.line.idle then beginAttempt (lineJoined s) else lineJoined s :=
  pollLine_gap_cons (if_neg (by simp [hq])) hq

theorem transmitterJoin_effect : Completes .transmitterJoin s (fun t => Only [.due, .meter, .line] s t ∧
    (s.line.tx ≠ .starting → t.line = s.line ∧ t.meter = s.meter) ∧
    (s.line.tx = .starting → t.line.presenceLeft = some 0 ∧ .presenceTimerExpiry ∈ t.due ∧ t.contents = s.contents ∧
      (s.line.queue = [] → t.line.tx = .ready ∧ t.meter = s.meter) ∧
      (∀ f rest, s.line.queue = f :: rest → gapOf s.station f ≤ max 40 s.line.idle → t.line.tx = .sending ∧ Measured f s t) ∧
      (∀ f rest, s.line.queue = f :: rest → max 40 s.line.idle < gapOf s.station f → t.line.tx = .gap ∧ t.meter = s.meter))) := by
  by_cases h : s.line.tx = .starting
  · refine ⟨_, exec_transmitterJoin h, lineJoined_only.after (pollLine_only _), fun hn => absurd h hn, fun _ => ⟨?_, ?_, ?_,
      fun hq => ?_, fun f rest hq hg => ?_, fun f rest hq hg => ?_⟩⟩
    · rw [(pollLine_line (lineJoined s)).2.2.1]
      rfl
    · exact pollLine_due_subset _ (List.mem_append_right _ (List.mem_singleton_self _))
    · exact pollLine_contents (lineJoined s)
    · rw [lineJoined_nil hq]
      exact ⟨if_pos hq, rfl⟩
    · rw [lineJoined_cons hq, if_pos hg]
      have queue : (lineJoined s).line.queue = f :: rest := hq
      refine ⟨?_, (beginAttempt_measured queue).before rfl rfl rfl⟩
      rw [beginAttempt_onLine queue]
      rfl
    · rw [lineJoined_cons hq, if_neg (Nat.not_le.2 hg)]
      exact ⟨if_neg (by simp [hq]), rfl⟩
  · exact ⟨_, exec_transmitterJoin_other h, (take_only s _).grow, fun _ => ⟨rfl, rfl⟩, fun hs => absurd hs h⟩

/-! ### The begin of an attempt (R105, R106) -/

theorem exec_attemptBegin_other (h : s.line.tx ≠ .gap) : exec .attemptBegin s = .next (s.take .attemptBegin) := by
  change Host.Outcome.next (match s.line.tx, s.line.queue with | .gap, f :: _ => _ | _, _ => _) = _
  split
  · exact absurd ‹s.line.tx = .gap› h
  · rfl

theorem exec_attemptBegin_nil (hq : s.line.queue = []) : exec .attemptBegin s = .next (s.take .attemptBegin) := by
  change Host.Outcome.next (match s.line.tx, s.line.queue with | .gap, f :: _ => _ | _, _ => _) = _
  rw [hq]
  split
  · cases ‹_ = _ :: _›
  · rfl

theorem exec_attemptBegin_early (hq : s.line.queue = f :: rest) (hg : s.line.idle < gapOf s.station f) :
    exec .attemptBegin s = .next (s.take .attemptBegin) := by
  change Host.Outcome.next (match s.line.tx, s.line.queue with | .gap, f :: _ => _ | _, _ => _) = _
  rw [hq]
  split
  · rename_i heq
    cases heq
    exact congrArg Host.Outcome.next (if_neg (Nat.not_le.2 hg))
  · rfl

theorem exec_attemptBegin (ht : s.line.tx = .gap) (hq : s.line.queue = f :: rest) (hg : gapOf s.station f ≤ s.line.idle) :
    exec .attemptBegin s = .next (beginAttempt (s.take .attemptBegin)) := by
  change Host.Outcome.next (match s.line.tx, s.line.queue with | .gap, f :: _ => _ | _, _ => _) = _
  rw [ht, hq]
  exact congrArg Host.Outcome.next (if_pos hg)

end

/-! ### The bytes of a frame (R97, R98, R108; Tables 10-3 to 10-7) -/

section
variable (s : State)

theorem frameBytes_eq (c : FrameContent) (n : Byte) : frameBytes s c n =
    let payload := c.payload s
    let body : List Byte := [BitVec.ofNat 8 (16 * c.kindCode + (if c.isReply = true then 8 else 0) +
        if s.begun = true then s.settings.group else 0), BitVec.ofNat 8 s.startRec.station.val, BitVec.ofNat 8 c.destination.val, n,
      BitVec.ofNat 8 payload.length] ++ payload
    [0xC3] ++ body ++ bytesBE 2 (crc body).toNat := by
  unfold frameBytes headerOf
  rw [Nat.mul_comm c.kindCode 16]
  rfl

/-- The bits of the settings mask in a PRESENCE (R108). -/
theorem rolesByte_mask : (s.rolesByte &&& 0xE0).toNat = (if s.begun = true ∧ s.settings.twist = true then 128 else 0) +
    (if s.begun = true ∧ s.settings.knot = true then 64 else 0) + (if s.begun = true ∧ s.settings.coil = true then 32 else 0) := by
  unfold State.rolesByte
  cases s.begun <;> cases s.settings.twist <;> cases s.settings.knot <;> cases s.settings.coil <;> decide

theorem presencePayload_eq : presencePayload s =
    let paced := s.begun = true ∧ s.settings.pacePublish = true
    [BitVec.ofNat 8 ((if s.begun = true ∧ s.settings.twist = true then 128 else 0) +
        (if s.begun = true ∧ s.settings.knot = true then 64 else 0) + (if s.begun = true ∧ s.settings.coil = true then 32 else 0) +
        (if paced then 16 else 0) + (if s.meter.reverse = true then 8 else 0) + (if paced then 4 else 0) +
        (if s.prot.episode = .standing then 2 else 0)),
      BitVec.ofNat 8 s.prot.permit.code] ++ bytesBE 3 (causeSet s.prot.causes).toNat ++ bytesBE 4 s.currentCoil.toNat ++
    (if paced then bytesBE 2 (s.meter.speed % 65536) ++ bytesBE 4 (s.lineLength.toNat / 1000 % 4294967296) else []) ++
    (if s.prot.episode = .standing then [BitVec.ofNat 8 s.prot.serial, (s.prot.latest.map Cause.byte).getD 0] else []) := by
  have speed : s.pacePart.v.toNat = s.meter.speed % 65536 := BitVec.toNat_ofNat _ _
  have length : s.pacePart.length.toNat = s.lineLength.toNat / 1000 % 4294967296 := BitVec.toNat_ofNat _ _
  unfold presencePayload State.haltPart
  simp only [rolesByte_mask, State.publishes_iff, speed, length]
  by_cases h : s.prot.episode = .standing
  · simp only [if_pos h, Option.isSome_some, if_true]
  · simp only [if_neg h, Option.isSome_none, Bool.false_eq_true, if_false]

theorem tallyPayload_eq (y : Tally) : tallyPayload y =
    bytesBE 4 y.coil.toNat ++ [y.halts, BitVec.ofNat 8 ((if y.twist.isSome = true then 128 else 0) +
        (if y.knot.isSome = true then 64 else 0) + (if y.flags.ovf = true then 8 else 0) + (if y.flags.unf = true then 4 else 0) +
        (if y.flags.dvz = true then 2 else 0) + (if y.flags.rng = true then 1 else 0)), y.origin] ++
      (match y.twist with
        | some u => bytesBE 4 u.windows ++ bytesBE 4 u.outOfBand ++ bytesBE 4 u.stalled ++ bytesBE 4 u.layFaults ++
          bytesBE 3 (u.minLay.getD 0) ++ bytesBE 3 (u.maxLay.getD 0) ++ bytesBE 3 (u.meanLay.getD 0)
        | none => []) ++
      (match y.knot with
        | some u => bytesBE 4 u.sampledRows ++ bytesBE 4 u.unseenRows ++ bytesBE 4 u.inchRows ++ bytesBE 4 u.missedKnots ++
          bytesBE 4 u.headFaults ++ bytesBE 4 u.meshWindows ++ bytesBE 4 u.meshOutOfBand ++ bytesBE 4 u.meshFaults
        | none => []) := by
  unfold tallyPayload flagNibble
  simp only [← Nat.add_assoc]
  cases y.twist <;> cases y.knot <;> rfl

theorem statusPayload_of_le {page : Byte} (h : page.toNat ≤ 88) : statusPayload s page = [0, page] ++ pageContent s page.toNat :=
  if_pos h

theorem statusPayload_of_gt {page : Byte} (h : 88 < page.toNat) : statusPayload s page = [5, page] := if_neg (Nat.not_le.2 h)

theorem statusPayload_three {page : Byte} (h : page = 3) : statusPayload s page =
    [0, 3] ++ intBE 5 s.lineLength ++ bytesBE 2 s.meter.speed ++
      [if s.meter.reverse = true then 1 else 0, if s.meter.atRest = true then 1 else 0] ++ bytesBE 2 s.meter.lastSlip ++
      [BitVec.ofNat 8 s.meter.slipRun] ++ bytesBE 2 s.meter.lastDrift ++ [BitVec.ofNat 8 s.meter.driftRun,
        if s.meter.flags.ovf = true then 1 else 0, if s.meter.flags.unf = true then 1 else 0,
        if s.meter.flags.dvz = true then 1 else 0, if s.meter.flags.rng = true then 1 else 0, BitVec.ofNat 8 s.meter.origin.code] := by
  subst h
  rw [statusPayload_of_le s (by decide), show pageContent s (3 : Byte).toNat = meterPage s from rfl, meterPage]
  simp only [List.append_assoc]
  rfl

theorem statusPayload_channel {page : Byte} (i : Fin 8) (h : page.toNat = 4 + i) : statusPayload s page =
    [0, page, BitVec.ofNat 8 (modeCode (s.channel i).mode), BitVec.ofNat 8 (s.channel i).state.code] ++
      bytesBE 3 (s.channel i).reload.toNat ++ bytesBE 3 (s.channel i).capture.toNat ++
      [if (s.channel i).captureSaturated = true then 1 else 0] := by
  rw [statusPayload_of_le s (by omega), h, pageContent_channel]
  rfl

theorem markPayload_eq (k : MarkKind) (n l : BitVec 32) : [byte1 k.code] ++ bytesBE 4 n.toNat ++ bytesBE 4 l.toNat =
    [if k = .cut then 1 else 2] ++ bytesBE 4 n.toNat ++ bytesBE 4 l.toNat := by
  cases k <;> rfl

end

section
variable {s : State} {f : QueuedFrame} {rest : List QueuedFrame}

/-- The node as an attempt of its head frame begins, before the bytes are formed. -/
def attemptBegan (s : State) (f : QueuedFrame) (rest : List QueuedFrame) : State :=
  (s.take .attemptBegin).withLine (s.line.attempt f rest)

/-- The line once an attempt has begun (R105, R106). -/
theorem attemptBegin_line (hq : s.line.queue = f :: rest) : (beginAttempt (s.take .attemptBegin)).line =
    { s.line.attempt f rest with
      sending := frameBytes (attemptBegan s f rest) f.content (f.sequence.getD s.line.counter)
      sendLeft := some ((frameBytes (attemptBegan s f rest) f.content (f.sequence.getD s.line.counter)).length * 40) } :=
  beginAttempt_onLine (s := s.take .attemptBegin) hq

/-- The line of an attempt, with the sequence counter as the claim writes it. -/
theorem FloorLine.attempt_eq (l : FloorLine) (f : QueuedFrame) (rest : List QueuedFrame) : l.attempt f rest =
    { l.startBit with
      tx := .sending
      counter := if f.sequence = none then l.counter + 1 else l.counter
      queue := { f with sequence := some (f.sequence.getD l.counter), onLine := true } :: rest } := by
  unfold FloorLine.attempt
  cases f.sequence <;> rfl

end

/-- Settles O37: the pages value by value, the codes, the join, and the attempt with the bytes of each kind of frame. -/
theorem transmitterJoinsAndSends : Obligations.TransmitterJoinsAndSends := by
  refine ⟨fun s => ?_, rfl, rfl, rfl, rfl, rfl, rfl, rfl, rfl, rfl, rfl, rfl, rfl, rfl, rfl, rfl, fun s => ?_⟩
  · intro page yes one zero ones ms places count k p l
    refine ⟨rfl, ?_, fun i => ⟨pageContent_spindle s i, pageContent_stats s i, pageContent_history s i⟩, rfl, ?_, fun i => ⟨?_, ?_, ?_⟩,
      ?_, rfl, rfl, ?_, fun i hi => ?_, ?_, ?_, ?_⟩
    · rintro n g e (⟨rfl, rfl, rfl⟩ | ⟨rfl, rfl, rfl⟩)
      · rfl
      · rfl
    · rfl
    · exact pageContent_scanEntry s i
    · rw [show page (55 + i) = _ from pageContent_haltTable s i]
      exact List.flatMap_congr fun h _ => haltEntryBytes_eq h
    · rintro x (_ | ⟨_, _ | ⟨_, _ | ⟨_, hx⟩⟩⟩)
      · exact slotPages (pageContent_openSlot s i)
      · exact slotPages (pageContent_closingSlot s i)
      · exact slotPages (pageContent_heldSlot s i)
      · cases hx
    · rfl
    · change linePage s.line = _
      rw [linePage, linePage_queue]
      rfl
    · rw [show page (38 + i) = _ from pageContent_peer s hi]
      refine ⟨(peerPages s.peers i).1, fun e he => ?_⟩
      rw [(peerPages s.peers i).2 e he, peerPage_eq]
      rfl
    · change protectionPage s = _
      rw [protectionPage, patternByte_eq]
      rfl
    · rfl
    · change storePage s = _
      rw [storePage, opPlaces_eq, opPlaces_eq, List.append_assoc _ [byte1 s.store.key.code, _]]
      rfl
  · intro gap paced measured
    refine ⟨transmitterJoin_effect, ?_⟩
    by_cases ht : s.line.tx = .gap
    · cases hq : s.line.queue with
      | nil => exact ⟨_, exec_attemptBegin_nil hq, (take_only s _).grow, fun _ => ⟨rfl, rfl⟩,
          fun _ _ h => absurd h.symm (List.cons_ne_nil _ _), fun _ _ _ h => absurd h.symm (List.cons_ne_nil _ _)⟩
      | cons f rest =>
        rcases Nat.lt_or_ge s.line.idle (gapOf s.station f) with hg | hg
        · refine ⟨_, exec_attemptBegin_early hq hg, (take_only s _).grow, fun h => absurd ht h, fun _ _ _ _ => ⟨rfl, rfl⟩, ?_⟩
          rintro f rest - ⟨⟩ hg'
          exact absurd hg (Nat.not_lt.2 hg')
        · refine ⟨_, exec_attemptBegin ht hq hg, (take_only s _).after (beginAttempt_only _), fun h => absurd ht h, ?_, ?_⟩
          · rintro f rest ⟨⟩ hg'
            exact absurd hg' (Nat.not_lt.2 hg)
          · rintro f rest - ⟨⟩ -
            intro number queue counter began c group payload body mask
            have hbegan : attemptBegan s f rest = began := by
              unfold attemptBegan
              rw [FloorLine.attempt_eq]
              rfl
            have line := attemptBegin_line hq
            have bytes : frameBytes began c number = [0xC3] ++ body ++ bytesBE 2 (crc body).toNat := frameBytes_eq began c number
            rw [hbegan, FloorLine.attempt_eq, bytes] at line
            refine ⟨(beginAttempt_measured (s := s.take .attemptBegin) hq).before rfl rfl rfl, by rw [line], by rw [line], by rw [line],
              by rw [line]; rfl, by rw [line], by rw [line, Nat.mul_comm], ?_, ?_, ?_, ?_, ?_, ?_, ?_⟩
            · intro hc
              change c.kindCode = 1 ∧ c.isReply = false ∧ c.destination = 0 ∧ c.payload began = _
              rw [hc]
              exact ⟨rfl, rfl, rfl, presencePayload_eq began⟩
            · intro d n l hc
              change c.kindCode = 2 ∧ c.isReply = false ∧ c.destination = 0 ∧ c.payload began = _
              rw [hc]
              exact ⟨rfl, rfl, rfl, rfl⟩
            · intro n hc
              change c.kindCode = 3 ∧ c.isReply = false ∧ c.destination = 0 ∧ c.payload began = _
              rw [hc]
              exact ⟨rfl, rfl, rfl, rfl⟩
            · intro k n l hc
              change c.kindCode = 4 ∧ c.isReply = false ∧ c.destination = 0 ∧ c.payload began = _
              rw [hc]
              exact ⟨rfl, rfl, rfl, markPayload_eq k n l⟩
            · intro d y hc
              change c.kindCode = 5 ∧ c.isReply = false ∧ c.destination = d ∧ c.payload began = _
              rw [hc]
              exact ⟨rfl, rfl, rfl, tallyPayload_eq y⟩
            · intro kind d b hc
              change c.kindCode = _ ∧ c.isReply = true ∧ c.destination = d ∧ c.payload began = b
              rw [hc]
              exact ⟨rfl, rfl, rfl, rfl⟩
            · intro d page hc
              change c.kindCode = 6 ∧ c.isReply = true ∧ c.destination = d ∧ (_ → c.payload began = _) ∧ (_ → c.payload began = _) ∧
                (_ → c.payload began = _) ∧ ∀ i : Fin 8, _ → c.payload began = _
              rw [hc]
              exact ⟨rfl, rfl, rfl, statusPayload_of_le began, statusPayload_of_gt began, statusPayload_three began,
                statusPayload_channel began⟩
    · refine ⟨_, exec_attemptBegin_other ht, (take_only s _).grow, fun _ => ⟨rfl, rfl⟩, fun _ _ _ _ => ⟨rfl, rfl⟩,
        fun f rest h => absurd h ht⟩

end Sys2Proof.Machine
end

section
/-! SUPPORT. The frame of every command: which parts of the node each of the 106 can change at all, composed from the frames of
the operations that it is written with, and gathered in one table. -/

namespace Sys2Proof.Machine

-- One declaration at a time, as in the frames: side by side these proofs ask for more threads than the memory limit allows.
set_option Elab.async false

variable (s : State)

/-! ### Count channels -/

theorem channelStartRequest_only (i : Fin 8) (r : StartRequest) :
    Completes (.channelStartRequest i r) s (Only [.due, .channels] s) :=
  ⟨_, rfl, (take_only s _).after (.ite (startChannel_only _ i r) (.refl _ _))⟩

theorem channelStopRequest_only (i : Fin 8) : Completes (.channelStopRequest i) s (Only [.due, .channels] s) :=
  ⟨_, rfl, (take_only s _).after (l := [.due, .channels]) (setChannel_only _ _ _).grow⟩

theorem setNextReload_only (i : Fin 8) (reload : BitVec 24) :
    Completes (.setNextReload i reload) s (Only [.due, .channels] s) := by
  refine ⟨_, rfl, (take_only s _).after (l := [.due, .channels]) (.ite ?_ (.refl _ _))⟩
  split
  · exact (setChannel_only _ _ _).grow
  · exact (setChannel_only _ _ _).grow
  · exact .refl _ _

theorem channelTrigger_only (i : Fin 8) (e : TriggerEvent) :
    Completes (.channelTrigger i e) s (Only [.due, .channels] s) :=
  ⟨_, rfl, (take_only s _).after (.ite (runChannel_only _ i) (.refl _ _))⟩

theorem intervalExpiry_only (i : Fin 8) : Completes (.intervalExpiry i) s (Only [.due, .channels] s) :=
  ⟨_, rfl, (take_only s _).after (giveExpiry_only _ i _)⟩

theorem periodCapture_only (i : Fin 8) : Completes (.periodCapture i) s (Only [.due, .channels] s) :=
  ⟨_, rfl, (take_only s _).after (periodExpiry_only _ i)⟩

/-! ### Metering -/

theorem takePair_only (e : EncoderId) (pair : Bool × Bool) : Only [.due, .meter, .coil] s (takePair e pair s) := by
  unfold takePair
  dsimp only
  split
  · exact .refl _ s
  · exact (withMeter_only s _).grow
  · exact (withMeter_only s _).after (takeCount_only _ e _)

theorem encoderTransition_only (e : EncoderId) (line1 line2 : Bool) :
    Completes (.encoderTransition e line1 line2) s (Only [.due, .pins, .meter, .coil] s) := by
  have shown : Only [.due, .pins] s (pairShown e (line1, line2) s) := pairShown_only e (line1, line2) s
  exact ⟨_, rfl, shown.after (l := [.due, .pins, .meter, .coil]) (.ite (takePair_only _ e _).grow (.refl _ _))⟩

theorem speedEvaluation_only : Completes .speedEvaluation s (Only [.due, .meter, .prot] s) := by
  refine ⟨_, rfl, (take_only s _).after (l := [.due, .meter, .prot]) (.ite (.refl _ _) ?_)⟩
  dsimp only
  have evaluated (x : Metering) (c : Prop) [Decidable c] : Only [.due, .meter, .prot] (s.take .speedEvaluation)
      (if c then setFlag .rng .speed ((s.take .speedEvaluation).withMeter x) else (s.take .speedEvaluation).withMeter x) :=
    (withMeter_only _ x).after (.ite (setFlag_only _ _ _).grow (.refl _ _))
  exact .ite ((evaluated _ _).step ((haltingDecision_only _).step (refreshAlarm_only _))) (evaluated _ _)

theorem pacePartToMetering_only (length : BitVec 32) :
    Completes (.pacePartToMetering length) s (Only [.due, .meter] s) := by
  refine ⟨_, rfl, (take_only s _).after (l := [.due, .meter])
    (.ite (.refl _ _) (Only.step (m := [.meter]) ?_ (withMeter_only _ _)))⟩
  split
  · exact checkDrift_only _ _ _ _
  · exact .refl _ _

theorem flagSetRequest_only (flag : ArithFlag) (origin : Origin) :
    Completes (.flagSetRequest flag origin) s (Only [.due, .meter] s) :=
  ⟨_, rfl, (take_only s _).after (.ite (setFlag_only _ _ _) (.refl _ _))⟩

/-! ### Twist supervision -/

theorem spindleTurn_only (n : Fin 4) : Completes (.spindleTurn n) s (Only [.due, .channels, .meter, .twist] s) := by
  refine ⟨_, rfl, (take_only s (.spindleTurn n)).after ?_⟩
  exact (takeExpiry_only _ _ (turnChannel n) .count).after (l := [.due, .channels, .meter, .twist])
    (.ite (countTurn_only _ n).grow (.refl _ _))

theorem twistRunningEntry_only : Completes .twistRunningEntry s (Only [.due, .twist] s) :=
  ⟨_, rfl, (take_only s _).after (l := [.due, .twist])
    (.ite ((withTwist_only _ _).after (l := [.due, .twist]) (emit_only _ _).grow) (.refl _ _))⟩

theorem twistRunningExit_only : Completes .twistRunningExit s (Only [.due, .twist] s) :=
  ⟨_, rfl, (take_only s _).after (l := [.due, .twist])
    (.ite ((withTwist_only _ _).after (l := [.due, .twist]) (emit_only _ _).grow) (.refl _ _))⟩

theorem stallCheck_only : Completes .stallCheck s (Only [.due, .channels, .meter, .twist] s) :=
  ⟨_, rfl, (stallReady_only s).after (l := [.due, .channels, .meter, .twist])
    (.ite (foldl_checkStall_extends _ _).1.grow (.refl _ _))⟩

theorem twistSegmentRequest_only (coil : BitVec 32) : Completes (.twistSegmentRequest coil) s (Only [.due, .twist] s) :=
  ⟨_, rfl, (take_only s _).after (l := [.due, .twist])
    (.ite ((withTwist_only _ _).after (l := [.due, .twist]) (emit_only _ _).grow) (.refl _ _))⟩

theorem pacePartToTwist_only (v : BitVec 16) : Completes (.pacePartToTwist v) s (Only [.due, .meter, .twist] s) := by
  refine ⟨_, rfl, (take_only s _).after (l := [.due, .meter, .twist]) (.ite (.refl _ _) ?_)⟩
  exact .ite ((flowStopped_extends _).1.grow.step (steerReference_only _ _)) ((paceTaken_only _ _).step (steerReference_only _ _))

theorem paceSourceSilent_only : Completes .paceSourceSilent s (Only [.due, .twist] s) := by
  refine ⟨_, rfl, (take_only s _).after (l := [.due, .twist]) (.ite ?_ (.refl _ _))⟩
  exact .ite ((withTwist_only _ _).after (l := [.due, .twist]) (emit_only _ _).grow) (withTwist_only _ _).grow

theorem paceHoldExpiry_only : Completes .paceHoldExpiry s (Only [.due, .twist] s) :=
  ⟨_, rfl, (take_only s _).after (l := [.due, .twist]) (.ite ((withTwist_only _ _).after
    ((emit_only _ _).trans (steerReference_only _ _)).grow) (.refl _ _))⟩

theorem paceSourceHeard_only : Completes .paceSourceHeard s (Only [.due, .twist] s) :=
  ⟨_, rfl, (take_only s _).after (l := [.due, .twist])
    (.ite ((sourceRecovers_only _).step (steerReference_only _ _)) (.refl _ _))⟩

/-! ### Sense sampling -/

theorem scanStart_only : Completes .scanStart s (Only [.due, .channels, .sampler] s) := by
  refine ⟨_, rfl, (take_only s .scanStart).after ?_⟩
  exact (takeExpiry_only _ _ 6 .interval).after (l := [.due, .channels, .sampler])
    (.ite (.refl _ _) (.ite (withSampler_only _ _).grow (convertFrom_only _ _).grow))

theorem conversionComplete_only (result : BitVec 12) : Completes (.conversionComplete result) s (Only [.due, .sampler] s) := by
  refine ⟨_, rfl, (takeLike_only s isConversion).after (l := [.due, .sampler]) ?_⟩
  split
  · exact (takeResult_only _ _ _).step (convertFrom_only _ _)
  · exact .refl _ _

theorem samplerRunningEntry_only : Completes .samplerRunningEntry s (Only [.due, .sampler] s) :=
  ⟨_, rfl, (take_only s _).after (l := [.due, .sampler]) (.ite (withSampler_only _ _).grow (.refl _ _))⟩

theorem samplerRunningExit_only : Completes .samplerRunningExit s (Only [.due, .sampler] s) :=
  ⟨_, rfl, (take_only s _).after (l := [.due, .sampler]) (.ite (withSampler_only _ _).grow (.refl _ _))⟩

theorem tensionClearQuestion_only : Completes .tensionClearQuestion s (Only [.due] s) :=
  ⟨_, rfl, (take_only s _).trans (.ite (emit_only _ _) (.refl _ _))⟩

theorem tensionClearNotice_only : Completes .tensionClearNotice s (Only [.due, .sampler] s) :=
  ⟨_, rfl, (take_only s _).after (l := [.due, .sampler]) (withSampler_only _ _).grow⟩

/-! ### Knot supervision -/

theorem phaseCodeChange_only (code : BitVec 3) :
    Completes (.phaseCodeChange code) s (Only [.due, .pins, .channels, .meter, .knot] s) :=
  ⟨_, rfl, .ite (showPhase_takeCode_only _) (showPhase_only _ code s).grow⟩

theorem phaseCandidate_only (code : BitVec 3) :
    Completes (.phaseCandidate code) s (Only [.due, .pins, .channels, .meter, .knot] s) := by
  have shown : Only [.due, .pins, .channels, .meter, .knot] s (showPhase (.phaseCandidate code) code s) :=
    (showPhase_only _ code s).grow
  exact ⟨_, rfl, .ite shown (.ite (shown.step (withKnot_only _ _)) (.ite (showPhase_takeCode_only _)
    (.ite shown (shown.step (withKnot_only _ _)))))⟩

theorem windowOpen_only (lines : BitVec 32) :
    Completes (.windowOpen lines) s (Only [.due, .pins, .channels, .knot] s) := by
  have ready : Only [.due, .pins, .channels, .knot] s (takeExpiry (s.due.any execWindowOpen.isOpening) 1 .delay
      ((showLines (.windowOpen lines) lines s).takeLike execWindowOpen.isOpening)) :=
    ((showLines_only s _ lines).grow.step (takeLike_only _ _)).step (takeExpiry_only _ _ _ _)
  exact ⟨_, rfl, .ite (ready.step (withKnot_only _ _)) ready⟩

theorem knotSample_only (lines : BitVec 32) : Completes (.knotSample lines) s (Only [.due, .pins, .knot] s) := by
  have ready : Only [.due, .pins, .knot] s ((showLines (.knotSample lines) lines s).takeLike execKnotSample.isSample) :=
    (showLines_only s _ lines).grow.step (takeLike_only _ _)
  exact ⟨_, rfl, .ite (ready.step (withKnot_only _ _)) ready⟩

theorem windowClose_only : Completes .windowClose s (Only [.due, .channels, .knot] s) := by
  have ready : Only [.due, .channels, .knot] s (takeExpiry (s.due.contains .windowClose) 2 .delay (s.take .windowClose)) :=
    (take_only s _).after (takeExpiry_only _ _ _ _).grow
  exact ⟨_, rfl, .ite (ready.step (withKnot_only _ _)) ready⟩

theorem drawWidthCapture_only (capture : BitVec 24) (saturated : Bool) :
    Completes (.drawWidthCapture capture saturated) s (Only [.due, .channels, .knot] s) := by
  have ready : Only [.due, .channels, .knot] s (if s.due.contains (.drawWidthCapture capture saturated)
      then s.take (.drawWidthCapture capture saturated)
      else if s.due.any execDrawWidthCapture.isCapture
        then execDrawWidthCapture.correct capture (s.takeLike execDrawWidthCapture.isCapture)
        else widthExpiry 0 capture s) :=
    .ite (take_only s _).grow (.ite ((takeLike_only s _).after (l := [.due, .channels, .knot]) (setChannel_only _ _ _).grow)
      (widthExpiry_only s 0 capture).grow)
  exact ⟨_, rfl, .ite (ready.step (withKnot_only _ _)) ready⟩

theorem knotRunningEntry_only : Completes .knotRunningEntry s (Only [.due, .knot] s) :=
  ⟨_, rfl, (take_only s _).after (l := [.due, .knot]) (.ite (withKnot_only _ _).grow (.refl _ _))⟩

theorem knotRunningExit_only : Completes .knotRunningExit s (Only [.due, .knot] s) :=
  ⟨_, rfl, (take_only s _).after (l := [.due, .knot]) (.ite (withKnot_only _ _).grow (.refl _ _))⟩

theorem knotSegmentRequest_only (coil : BitVec 32) : Completes (.knotSegmentRequest coil) s (Only [.due, .knot] s) :=
  ⟨_, rfl, (take_only s _).after (l := [.due, .knot])
    (.ite ((withKnot_only _ _).after (l := [.due, .knot]) (emit_only _ _).grow) (.refl _ _))⟩

/-! ### The floor line -/

theorem frameReceived_only (f : RawFrame) : Completes (.frameReceived f) s (Only [.due, .line] s) := by
  refine ⟨_, rfl, (take_only s _).after (l := [.due, .line]) (.ite (.refl _ _) ?_)⟩
  dsimp only
  split
  · exact ((withLine_only _ _).trans (withLine_only _ _)).grow
  · exact (withLine_only _ _).grow
  · exact (withLine_only _ _).grow
  · exact ((withLine_only _ _).trans (withLine_only _ _)).grow
  · exact ((withLine_only _ _).trans (withLine_only _ _)).after (l := [.due, .line]) (emit_only _ _).grow

theorem brokenFrame_only (byIdle : Bool) : Completes (.brokenFrame byIdle) s (Only [.due, .line] s) :=
  ⟨_, rfl, (take_only s _).after (l := [.due, .line]) (.ite (.refl _ _) (withLine_only _ _).grow)⟩

theorem receiverEntersPass_only : Completes .receiverEntersPass s (Only [.due, .line] s) :=
  ⟨_, rfl, (take_only s _).after (l := [.due, .line]) (.ite (withLine_only _ _).grow (.refl _ _))⟩

theorem passIdle_only : Completes .passIdle s (Only [.due, .line] s) :=
  ⟨_, rfl, (take_only s _).after (l := [.due, .line]) (.ite (withLine_only _ _).grow (.refl _ _))⟩

theorem presenceTimerExpiry_only : Completes .presenceTimerExpiry s (Only [.due, .meter, .line] s) := by
  refine ⟨_, rfl, (take_only s .presenceTimerExpiry).after (l := [.due, .meter, .line]) ?_⟩
  split
  · exact (withLine_only _ _).after (sendFrame_only _ _)
  · exact .refl _ _

theorem permitStateNotice_only (p : Permit) : Completes (.permitStateNotice p) s (Only [.due, .line] s) :=
  ⟨_, rfl, (take_only s _).after (l := [.due, .line]) (withLine_only _ _).grow⟩

theorem withdrawRequest_only (serial : Byte) : Completes (.withdrawRequest serial) s (Only [.due, .meter, .line] s) := by
  refine ⟨_, rfl, (take_only s (.withdrawRequest serial)).after (l := [.due, .meter, .line]) ?_⟩
  split
  · exact .ite (withLine_only _ _).grow (((withLine_only _ _).after (pollLine_only _)).step (emit_only _ _))
  · exact (emit_only _ _).grow

theorem transmitterJoin_only : Completes .transmitterJoin s (Only [.due, .meter, .line] s) :=
  ⟨_, rfl, (take_only s _).after (l := [.due, .meter, .line]) (.ite (((withLine_only _ _).after (l := [.due, .meter, .line])
    (emit_only _ _).grow).trans (pollLine_only _)) (.refl _ _))⟩

theorem attemptBegin_only : Completes .attemptBegin s (Only [.due, .meter, .line] s) := by
  refine ⟨_, rfl, (take_only s .attemptBegin).after (l := [.due, .meter, .line]) ?_⟩
  split
  · exact .ite (beginAttempt_only _) (.refl _ _)
  · exact .refl _ _

theorem attemptSuccess_only : Completes .attemptSuccess s (Only [.due, .line, .world] s) := by
  refine ⟨_, rfl, (take_only s .attemptSuccess).after (l := [.due, .line, .world]) ?_⟩
  split
  · exact (((withWorld_only _ _).grow (m := [.due, .line, .world])).step (withLine_only _ _)).step (emit_only _ _)
  · exact .refl _ _

theorem collision_only : Completes .collision s (Only [.due, .line, .world] s) := by
  refine ⟨_, rfl, (take_only s .collision).after (l := [.due, .line, .world]) ?_⟩
  split
  · have read (x : List Instr) (y : FloorLine) : Only [.due, .line, .world] (s.take .collision)
        (((s.take .collision).readingOver.emit x).withLine y) :=
      (((withWorld_only _ _).grow (m := [.due, .line, .world])).step (emit_only _ x)).step (withLine_only _ y)
    exact .ite ((read _ _).step (emit_only _ _)) (.ite (read _ _) ((read _ _).step (emit_only _ _)))
  · exact .refl _ _

/-! ### The peer list -/

theorem cancelAgeing_only (station : Station) : Only [.due] s (cancelAgeing station s) := withDue_only s _

theorem peerListFrame_only (f : HeardFrame) : Completes (.peerListFrame f) s (Only [.due, .peers] s) := by
  refine ⟨_, rfl, (take_only s (.peerListFrame f)).after (l := [.due, .peers]) (.ite (.refl _ _) ?_)⟩
  have listed (x : List Peer) : Only [.due, .peers] (s.take (.peerListFrame f))
      (cancelAgeing f.station { s.take (.peerListFrame f) with peers := x }) :=
    (withPeers_only _ x).after (l := [.due, .peers]) (cancelAgeing_only _ _).grow
  split
  · exact .ite (listed _) ((listed _).step (emit_only _ _))
  · split
    · exact (listed _).step (emit_only _ _)
    · exact .refl _ _
  · exact .refl _ _

theorem peerAgeing_only (station : Station) : Completes (.peerAgeing station) s (Only [.due, .peers] s) := by
  refine ⟨_, rfl, (take_only s (.peerAgeing station)).after (l := [.due, .peers]) ?_⟩
  split
  · exact .ite ((withPeers_only _ _).after (l := [.due, .peers]) (emit_only _ _).grow) (withPeers_only _ _).grow
  · exact .refl _ _

/-! ### Protection -/

theorem start_only : Completes .start s (Only [.due, .prot] s) := by
  refine ⟨_, rfl, (take_only s .start).after (l := [.due, .prot]) ?_⟩
  split
  · exact startStandby_only _
  · exact .ite (.ite ((clear_only _ _).trans (startStandby_only _)) (clear_only _ _)) (.refl _ _)
  · exact clear_only _ _
  · exact .refl _ _
  · exact .refl _ _

theorem stop_only : Completes .stop s (Only [.due, .meter, .line, .prot] s) :=
  ⟨_, rfl, (take_only s _).after (raise_only _ _)⟩

theorem breakOpen_only : Completes .breakOpen s (Only [.due, .pins, .meter, .line, .prot] s) :=
  ⟨_, rfl, ((take_only s _).after (l := [.due, .pins, .meter, .line, .prot]) (withPins_only _ _).grow).step (raise_only _ _)⟩

theorem breakClose_only : Completes .breakClose s (Only [.due, .pins] s) :=
  ⟨_, rfl, (take_only s _).after (l := [.due, .pins]) (withPins_only _ _).grow⟩

theorem alarmReset_only : Completes .alarmReset s (Only [.due, .prot] s) := by
  refine ⟨_, rfl, (take_only s .alarmReset).after (l := [.due, .prot]) (.ite (.refl _ _) ?_)⟩
  have reset := Only.foldl (f := fun t c => clear c t) (fun t c => clear_only t c) resetCauses (s.take .alarmReset)
  exact ((Only.ite reset (reset.trans (clear_only _ _))).trans (removeUnheard_only _)).step (emit_only _ _)

theorem raiseCause_only (c : Cause) : Completes (.raiseCause c) s (Only [.due, .meter, .line, .prot] s) :=
  ⟨_, rfl, (take_only s _).after (raise_only _ _)⟩

theorem clearCause_only (c : Cause) : Completes (.clearCause c) s (Only [.due, .prot] s) :=
  ⟨_, rfl, (take_only s _).after (clear_only _ _)⟩

theorem haltTimerExpiry_only : Completes .haltTimerExpiry s (Only [.due, .prot] s) :=
  ⟨_, rfl, (take_only s _).after (.ite ((haltingDecision_only _).step (refreshAlarm_only _)) (.refl _ _))⟩

theorem withdrawAnswer_only (sent : Bool) (serial : Byte) :
    Completes (.withdrawAnswer sent serial) s (Only [.due, .meter, .line, .prot] s) :=
  ⟨_, rfl, (take_only s _).after (l := [.due, .meter, .line, .prot]) (.ite (.refl _ _)
    (.ite ((withProt_only _ _).after (endEpisode_only _)) (withProt_only _ _).grow))⟩

theorem haltFrame_only (station : Station) (cause serial : Byte) (length : BitVec 32) :
    Completes (.haltFrame station cause serial length) s (Only [.due, .prot] s) :=
  ⟨_, rfl, (take_only s _).after (.ite (setHalt_only _ _) (.refl _ _))⟩

theorem resumeFrame_only (station : Station) (serial : Byte) :
    Completes (.resumeFrame station serial) s (Only [.due, .prot] s) := by
  refine ⟨_, rfl, (take_only s (.resumeFrame station serial)).after (l := [.due, .prot]) ?_⟩
  split
  · exact .ite (removeHalt_only _ _) (.refl _ _)
  · exact .refl _ _

theorem presenceHaltPart_only (station : Station) (halt : Option HaltPart) :
    Completes (.presenceHaltPart station halt) s (Only [.due, .prot] s) := by
  refine ⟨_, rfl, (take_only s (.presenceHaltPart station halt)).after (l := [.due, .prot]) (.ite (.refl _ _) ?_)⟩
  split
  · exact setHalt_only _ _
  · exact .ite (removeHalt_only _ _) (.refl _ _)

theorem tensionAnswer_only (yes : Bool) : Completes (.tensionAnswer yes) s (Only [.due, .prot] s) :=
  ⟨_, rfl, (take_only s _).after (.ite (clear_only _ _) (.refl _ _))⟩

theorem cutEndedAnswer_only (ended : Bool) : Completes (.cutEndedAnswer ended) s (Only [.due, .prot] s) :=
  ⟨_, rfl, (take_only s _).after (.ite (clear_only _ _) (.refl _ _))⟩

theorem heldBackAnswer_only (heldBack : Bool) : Completes (.heldBackAnswer heldBack) s (Only [.due, .prot] s) :=
  ⟨_, rfl, (take_only s _).after (.ite (.refl _ _) (clear_only _ _))⟩

theorem coilHoldSet_only : Completes .coilHoldSet s (Only [.due, .prot] s) :=
  ⟨_, rfl, (take_only s _).after (l := [.due, .prot])
    (.ite ((withProt_only _ _).trans (refreshAlarm_only _)).grow (.refl _ _))⟩

theorem coilHoldClear_only : Completes .coilHoldClear s (Only [.due, .prot] s) :=
  ⟨_, rfl, (take_only s _).after (l := [.due, .prot]) (.ite (.refl _ _)
    (.ite ((withProt_only _ _).after ((setPermit_only _ _).step (refreshAlarm_only _)))
      ((withProt_only _ _).trans (refreshAlarm_only _)).grow))⟩

theorem supplyWarning_only : Completes .supplyWarning s (Only [.due, .pins, .meter, .line, .prot] s) :=
  ⟨_, rfl, ((take_only s _).after (l := [.due, .pins, .meter, .line, .prot]) (withPins_only _ _).grow).trans
    (.ite ((withProt_only _ _).after (raise_only _ _)).grow (.refl _ _))⟩

theorem supplyRecovery_only : Completes .supplyRecovery s (Only [.due, .pins, .prot] s) :=
  ⟨_, rfl, ((take_only s _).after (l := [.due, .pins, .prot]) (withPins_only _ _).grow).trans
    (.ite ((withProt_only _ _).after (clear_only _ _)).grow (.refl _ _))⟩

theorem refusalBlinkEnd_only : Completes .refusalBlinkEnd s (Only [.due, .prot] s) := by
  refine ⟨_, rfl, (take_only s .refusalBlinkEnd).after (l := [.due, .prot]) ?_⟩
  split
  · exact (withProt_only _ _).grow
  · exact .refl _ _

theorem alarmFlash_only : Completes .alarmFlash s (Only [.due, .prot] s) :=
  ⟨_, rfl, (take_only s _).after (l := [.due, .prot])
    (.ite (withProt_only _ _).grow (.ite (withProt_only _ _).grow (.refl _ _)))⟩

/-! ### Coil building -/

theorem coilRunningEntry_only : Completes .coilRunningEntry s (Only [.due, .meter, .line, .coil, .store] s) :=
  ⟨_, rfl, (take_only s _).after (l := [.due, .meter, .line, .coil, .store]) (.ite (.refl _ _)
    (.ite (.ite (openCoil_only _) (.refl _ _)) (.ite (.refl _ _) (withCoil_only _ _).grow)))⟩

theorem cutRequest_only : Completes .cutRequest s (Only [.due, .coil] s) := by
  refine ⟨_, rfl, (take_only s .cutRequest).after (l := [.due, .coil]) ?_⟩
  split
  · exact .ite (.refl _ _) (.ite (.ite (.refl _ _) (endCoil_only _ _ _)) (.ite (startCut_only _ _) (.refl _ _)))
  · exact .refl _ _

theorem restTimerExpiry_only : Completes .restTimerExpiry s (Only [.due, .coil] s) := by
  refine ⟨_, rfl, (take_only s .restTimerExpiry).after (l := [.due, .coil]) ?_⟩
  split
  · exact .ite (.ite (startWaitingCut_only _ _) (restAgain_only _).grow) (.refl _ _)
  · exact .refl _ _

theorem cutDriveStart_only : Completes .cutDriveStart s (Only [.due, .channels, .coil] s) :=
  ⟨_, rfl, (Only.ite (take_only s _).grow (driveChannel_only s 7).grow).step (setOpen_only _ _)⟩

theorem cutPulseExpiry_only : Completes .cutPulseExpiry s (Only [.due, .channels, .coil] s) := by
  refine ⟨_, rfl, (take_only s .cutPulseExpiry).after ?_⟩
  refine (takeExpiry_only _ (s.due.contains .cutPulseExpiry) 7 .pulse).after (l := [.due, .channels, .coil]) ?_
  split
  · exact .ite (withCoil_only _ _).grow (.refl _ _)
  · exact .refl _ _

theorem cutTimerExpiry_only : Completes .cutTimerExpiry s (Only [.due, .coil] s) := by
  refine ⟨_, rfl, (take_only s .cutTimerExpiry).after (l := [.due, .coil]) ?_⟩
  split
  · exact .ite ((withCoil_only _ _).after (l := [.due, .coil]) (emit_only _ _).grow) (withCoil_only _ _).grow
  · exact .refl _ _

theorem cutEndedQuestion_only : Completes .cutEndedQuestion s (Only [.due] s) :=
  ⟨_, rfl, (take_only s _).trans (.ite (emit_only _ _) (.refl _ _))⟩

theorem cutDone_only : Completes .cutDone s (Only [.due, .meter, .line, .coil, .store] s) := by
  refine ⟨_, rfl, (take_only s .cutDone).after (l := [.due, .meter, .line, .coil, .store]) ?_⟩
  split
  · refine .ite (.trans ?_ (.ite (((setOpen_only _ _).grow (m := [.due, .meter, .line, .coil, .store])).step (emit_only _ _))
      (closeUp_only _ _))) (.refl _ _)
    exact ((convertFlag_only _ _).grow.step (withCoil_only _ _)).step (emit_only _ _)
  · exact .refl _ _

theorem answerClosing_only (coil : BitVec 32) (p : SegmentPart) (c : Option CoilRecord) :
    Only [.due, .meter, .line, .coil, .store] s (execSegmentStatisticsAnswer.answerClosing coil p c s) := by
  unfold execSegmentStatisticsAnswer.answerClosing
  split
  · exact .ite (.ite (((emit_only _ _).after (sealClosing_only _ _)).step (judgeAfterGathering_only _))
      (setClosing_only _ _).grow) (.refl _ _)
  · exact .refl _ _

theorem segmentStatisticsAnswer_only (coil : BitVec 32) (part : SegmentPart) :
    Completes (.segmentStatisticsAnswer coil part) s (Only [.due, .meter, .line, .coil, .store] s) := by
  refine ⟨_, rfl, (take_only s (.segmentStatisticsAnswer coil part)).after (l := [.due, .meter, .line, .coil, .store])
    (.ite (.refl _ _) (.ite ?_ ((withCoil_only _ _).after (releaseTallies_only _)).grow))⟩
  split
  · exact .ite (setOpen_only _ _).grow (answerClosing_only _ _ _ _)
  · exact answerClosing_only _ _ _ _

theorem reasonNotice_only (code : Byte) (station : Station) (stopped : Bool) :
    Completes (.reasonNotice code station stopped) s (Only [.due, .meter, .coil] s) :=
  ⟨_, rfl, (take_only s _).after (l := [.due, .meter, .coil]) (.ite (.refl _ _)
    (.ite (logOpen_only _ _ _ _ _) (.ite (withCoil_only _ _).grow (.refl _ _))))⟩

theorem splice_only : Completes .splice s (Only [.due, .meter, .line, .coil] s) := by
  refine ⟨_, rfl, (take_only s .splice).after (l := [.due, .meter, .line, .coil]) (.ite (.refl _ _) ?_)⟩
  have sent := (sendMark_only (s.take .splice) .splice (s.take .splice).currentCoil).grow (m := [.due, .meter, .line, .coil])
  dsimp only
  split
  · exact .ite ((sent.step (offsetFlag_only _ _ _)).step (setOpen_only _ _)) sent
  · exact sent

theorem markSpliceReceived_only (station : Station) :
    Completes (.markSpliceReceived station) s (Only [.due, .meter, .coil] s) :=
  ⟨_, rfl, (take_only s _).after (l := [.due, .meter, .coil]) (.ite (logOpen_only _ _ _ _ _) (.refl _ _))⟩

theorem markCutReceived_only (station : Station) (coil : BitVec 32) :
    Completes (.markCutReceived station coil) s (Only [.due, .meter, .line, .coil] s) := by
  refine ⟨_, rfl, (take_only s (.markCutReceived station coil)).after (l := [.due, .meter, .line, .coil])
    (.ite (.refl _ _) (.ite (withCoil_only _ _).grow ?_))⟩
  exact (((((convertFlag_only _ _).grow (m := [.due, .meter, .line, .coil])).step (emit_only _ _)).step
    (clearStatus_only _)).step (withCoil_only _ _)).trans (releaseTallies_only _)

theorem late_only : Only [.coil] s (execTallyReceived.late s) := by
  unfold execTallyReceived.late
  split
  · exact .ite (setOpen_only _ _) (.refl _ _)
  · exact .refl _ _

theorem tallyReceived_only (station : Station) (tally : Tally) :
    Completes (.tallyReceived station tally) s (Only [.due, .meter, .line, .coil, .store] s) := by
  refine ⟨_, rfl, (take_only s (.tallyReceived station tally)).after (l := [.due, .meter, .line, .coil, .store])
    (.ite (.refl _ _) ?_)⟩
  split
  · exact .ite (.ite (((emit_only _ _).after (sealClosing_only _ _)).step (judgeAfterGathering_only _))
      (setClosing_only _ _).grow) (late_only _).grow
  · exact (late_only _).grow

theorem tallyWaitExpiry_only : Completes .tallyWaitExpiry s (Only [.due, .channels, .meter, .line, .coil, .store] s) := by
  refine ⟨_, rfl, (take_only s .tallyWaitExpiry).after ?_⟩
  refine (takeExpiry_only _ (s.due.contains .tallyWaitExpiry) 7 .delay).after
    (l := [.due, .channels, .meter, .line, .coil, .store]) ?_
  split
  · exact .ite ((sealClosing_only _ _).step (judgeAfterGathering_only _)).grow (.refl _ _)
  · exact .refl _ _

theorem keepReport_only (coil : BitVec 32) (kept : Bool) :
    Completes (.keepReport coil kept) s (Only [.due, .meter, .line, .coil, .store] s) :=
  ⟨_, rfl, (take_only s _).after (takeKeepReport_only _ _ _)⟩

theorem heldBackQuestion_only : Completes .heldBackQuestion s (Only [.due] s) :=
  ⟨_, rfl, (take_only s _).trans (.ite (emit_only _ _) (.refl _ _))⟩

theorem sealGathering_only : Only [.due, .meter, .line, .coil, .store] s (execSupplyNotice.sealGathering s) := by
  unfold execSupplyNotice.sealGathering
  split
  · exact .ite ((emit_only _ _).after (sealClosing_only _ _)) (.refl _ _)
  · exact .refl _ _

theorem endSupply_only : Only [.due, .meter, .coil] s (execSupplyNotice.endSupply s) := by
  unfold execSupplyNotice.endSupply
  split
  · exact .ite (((convertFlag_only _ _).grow.step (withCoil_only _ _)).step (emit_only _ _)) (.refl _ _)
  · exact .refl _ _

theorem clearCoilEnd_only : Only [.due] s (execSupplyNotice.clearCoilEnd s) := .ite (emit_only _ _) (.refl _ _)

theorem sealSupply_only : Only [.due, .meter, .line, .coil, .store] s (execSupplyNotice.sealSupply s) := by
  unfold execSupplyNotice.sealSupply
  split
  · exact .ite (sealOpen_only _ _) (.refl _ _)
  · exact .refl _ _

theorem supplyNotice_only : Completes .supplyNotice s (Only [.due, .meter, .line, .coil, .store] s) :=
  ⟨_, rfl, (take_only s _).after (l := [.due, .meter, .line, .coil, .store]) (.ite (.refl _ _)
    ((((sealGathering_only _).step (endSupply_only _)).step (clearCoilEnd_only _)).trans (sealSupply_only _)))⟩

/-! ### The record store -/

theorem runOp_endOp_only (wear : Wear) (f : InFlight) :
    Only [.due, .meter, .line, .coil, .store, .memory] s (endOp (runOp wear f s).1) :=
  (runOp_only s wear f).after (l := [.due, .meter, .line, .coil, .store, .memory]) (endOp_only _).grow

theorem programHeaderComplete_only (wear : Wear) :
    Completes (.programHeaderComplete wear) s (Only [.due, .meter, .line, .coil, .store, .memory] s) := by
  refine ⟨_, rfl, ?_⟩
  split
  · exact (takeLike_only s isCompletion).after (runOp_endOp_only _ _ _)
  · exact (take_only s _).grow

theorem keepComplete_only (wear : Wear) :
    Completes (.keepComplete wear) s (Only [.due, .meter, .line, .coil, .store, .memory] s) := by
  refine ⟨_, rfl, ?_⟩
  split
  · split
    · rename_i s1 kept _ hran
      have hs1 : s1 = (runOp wear _ (s.takeLike isCompletion)).1 := (congrArg Prod.fst hran).symm
      rw [hs1]
      exact (((takeLike_only s isCompletion).after (l := [.due, .meter, .line, .coil, .store, .memory])
        (runOp_only _ wear _).grow).step (emit_only _ _)).step (endOp_only _)
    · exact (takeLike_only s isCompletion).after (l := [.due, .meter, .line, .coil, .store, .memory]) (endOp_only _).grow
  · exact (take_only s _).grow

theorem markSector_only (wear : Wear) (x : State × Nat) (p : Nat) : Only [.store, .memory] x.1 (markSector wear x p).1 := by
  have programmed := programNow_only x.1 wear (sectorBase p + 16) [0x00]
  unfold markSector
  split
  · rename_i heq
    rw [heq] at programmed
    exact programmed.step (setEntry_only _ _ _)
  · rename_i heq
    rw [heq] at programmed
    exact programmed

theorem foldl_markSector_only (wear : Wear) (l : List Nat) (x : State × Nat) :
    Only [.store, .memory] x.1 (l.foldl (markSector wear) x).1 := by
  induction l generalizing x with
  | nil => exact .refl _ _
  | cons p l ih => exact (markSector_only wear x p).trans (ih _)

theorem endOp_reply_only (k : ServiceKind) (d : Station) (b : List Byte) :
    Only [.due, .meter, .line, .store] s (endOp (sendReply k d b s)) :=
  (sendReply_only s k d b).after (endOp_only _)

theorem markCollectedComplete_only (wear : Wear) :
    Completes (.markCollectedComplete wear) s (Only [.due, .meter, .line, .store, .memory] s) := by
  refine ⟨_, rfl, ?_⟩
  split
  · exact ((takeLike_only s isCompletion).after (l := [.due, .meter, .line, .store, .memory])
      (foldl_markSector_only wear _ (_, 0)).grow).step (endOp_reply_only _ _ _ _)
  · exact (take_only s _).grow

theorem eraseBankComplete_only (wear : Wear) :
    Completes (.eraseBankComplete wear) s (Only [.due, .meter, .line, .store, .memory] s) := by
  refine ⟨_, rfl, ?_⟩
  split
  · exact ((takeLike_only s isCompletion).after (l := [.due, .meter, .line, .store, .memory])
      (eraseBankNow_only _ wear _).grow).step (endOp_reply_only _ _ _ _)
  · exact (take_only s _).grow

theorem checkComplete_only : Completes .checkComplete s (Only [.due, .meter, .line, .store] s) := by
  refine ⟨_, rfl, ?_⟩
  split
  · exact (takeLike_only s isCompletion).after (endOp_reply_only _ _ _ _)
  · exact (take_only s _).grow

theorem readComplete_only : Completes .readComplete s (Only [.due, .meter, .line, .store] s) := by
  refine ⟨_, rfl, ?_⟩
  split
  · refine (takeLike_only s isCompletion).after (l := [.due, .meter, .line, .store]) (.trans ?_ (endOp_only _))
    split
    · exact Only.foldl (fun t b => (sendReply_only t _ _ b).grow) _ _
    · exact (sendReply_only _ _ _ _).grow
  · exact (take_only s _).grow

theorem lostCompletion_only (wear : Wear) :
    Completes (.lostCompletion wear) s (Only [.due, .meter, .line, .coil, .store, .memory] s) := by
  refine ⟨_, rfl, ?_⟩
  split
  · have ran (f : InFlight) := (takeLike_only s isCompletion).after (l := [.due, .meter, .line, .coil, .store, .memory])
      (runOp_only _ wear f).grow
    dsimp only
    split
    · exact ((ran _).step (withStore_only _ _)).step (beginOp_only _ _)
    · exact ((ran _).step (endOp_only _)).step (emit_only _ _)
  · exact (take_only s _).grow

theorem commitComplete_only (wear : Wear) :
    Completes (.commitComplete wear) s (Only [.due, .meter, .line, .coil, .store, .memory] s) := by
  refine ⟨_, rfl, ?_⟩
  split
  · exact ((takeLike_only s isCompletion).after (l := [.due, .meter, .line, .coil, .store, .memory])
      (runOp_only _ wear _).grow).step (endOp_reply_only _ _ _ _)
  · exact (take_only s _).grow

/-! ### Service requests -/

theorem query_only (source : Station) (page : Byte) : Completes (.query source page) s (Only [.due, .meter, .line] s) :=
  ⟨_, rfl, (take_only s _).after (.ite (sendFrame_only _ _) (.refl _ _))⟩

theorem recall_only (source : Station) (coil : BitVec 32) (parts : Byte) :
    Completes (.recall source coil parts) s (Only [.due, .meter, .line, .store] s) :=
  ⟨_, rfl, (take_only s _).after (l := [.due, .meter, .line, .store]) (.ite (.refl _ _) (.ite (sendReply_only _ _ _ _).grow
    (.ite (sendReply_only _ _ _ _).grow (enqueue_only _ _))))⟩

theorem collected_only (source : Station) (coil : BitVec 32) :
    Completes (.collected source coil) s (Only [.due, .meter, .line, .store] s) :=
  ⟨_, rfl, (take_only s _).after (l := [.due, .meter, .line, .store]) (.ite (.refl _ _) (.ite (sendReply_only _ _ _ _).grow
    (.ite (sendReply_only _ _ _ _).grow (.ite (sendReply_only _ _ _ _).grow (enqueue_only _ _)))))⟩

theorem key_only (source : Station) (value : Byte) : Completes (.key source value) s (Only [.due, .meter, .line, .store] s) :=
  ⟨_, rfl, (take_only s _).after (l := [.due, .meter, .line, .store]) (.ite (.refl _ _)
    ((withStore_only _ _).after (l := [.due, .meter, .line, .store]) (sendReply_only _ _ _ _).grow))⟩

theorem consumeKey_only : Only [.store] s (consumeKey s) := withStore_only s _

theorem erase_only (source : Station) (bank : Byte) :
    Completes (.erase source bank) s (Only [.due, .meter, .line, .store] s) := by
  refine ⟨_, rfl, (take_only s (.erase source bank)).after (l := [.due, .meter, .line, .store])
    (.ite (.refl _ _) (.ite (sendReply_only _ _ _ _).grow ?_))⟩
  split
  · exact (sendReply_only _ _ _ _).grow
  · exact (sendReply_only _ _ _ _).grow
  · exact (sendReply_only _ _ _ _).grow
  · exact (consumeKey_only _).after (.ite (sendReply_only _ _ _ _).grow (.ite (sendReply_only _ _ _ _).grow
      (.ite (sendReply_only _ _ _ _).grow (enqueue_only _ _))))

theorem check_only (source : Station) (first count : Byte) :
    Completes (.check source first count) s (Only [.due, .meter, .line, .store] s) :=
  ⟨_, rfl, (take_only s _).after (l := [.due, .meter, .line, .store]) (.ite (.refl _ _)
    (.ite (sendReply_only _ _ _ _).grow (enqueue_only _ _)))⟩

theorem takeCommit_only (source : Station) : Only [.due, .meter, .line, .store] s (takeCommit source s) := by
  have reply (t : State) (b : List Byte) : Only [.due, .meter, .line, .store] t (sendReply .setting source b t) :=
    (sendReply_only t _ _ b).grow
  unfold takeCommit
  split
  · exact reply _ _
  · exact reply _ _
  · exact reply _ _
  · exact (consumeKey_only _).after (.ite (reply _ _) (.ite (reply _ _) (.ite (reply _ _) (.ite (reply _ _) (enqueue_only _ _)))))

theorem setting_only (source : Station) (index : Byte) (data : List Byte) :
    Completes (.setting source index data) s (Only [.due, .startRec, .meter, .line, .store] s) :=
  ⟨_, rfl, (take_only s _).after (l := [.due, .startRec, .meter, .line, .store]) (.ite (.refl _ _)
    (.ite (takeCommit_only _ _).grow (.ite ((withStart_only _ _).after (l := [.due, .startRec, .meter, .line, .store])
      (sendReply_only _ _ _ _).grow) (sendReply_only _ _ _ _).grow)))⟩

theorem settingCommit_only (source : Station) :
    Completes (.settingCommit source) s (Only [.due, .meter, .line, .store] s) :=
  ⟨_, rfl, (take_only s _).after (.ite (takeCommit_only _ _) (.refl _ _))⟩

theorem target_only (source : Station) (length : BitVec 32) :
    Completes (.target source length) s (Only [.due, .meter, .line, .coil] s) :=
  ⟨_, rfl, (take_only s _).after (l := [.due, .meter, .line, .coil]) (.ite (.refl _ _) (.ite (sendReply_only _ _ _ _).grow
    (.ite (sendReply_only _ _ _ _).grow (.ite (sendReply_only _ _ _ _).grow
      ((withCoil_only _ _).after (l := [.due, .meter, .line, .coil]) (sendReply_only _ _ _ _).grow)))))⟩

theorem clearflags_only (source : Station) : Completes (.clearflags source) s (Only [.due, .meter, .line] s) :=
  ⟨_, rfl, (take_only s _).after (l := [.due, .meter, .line]) (.ite (.refl _ _) (.ite (sendReply_only _ _ _ _)
    ((clearStatus_only _).after (sendReply_only _ _ _ _))))⟩

/-! ### Reset and start -/

theorem startedNode_only (station : Station) (commission : Bool) (m : Memory) :
    Only [.due, .startRec, .settings, .channels, .meter, .twist, .sampler, .knot, .line, .peers, .prot, .coil, .store, .memory] s
      (startedNode station commission m s) :=
  ⟨rfl, fun p hp => by cases p <;> first | rfl | exact absurd (by decide) hp⟩

theorem reset_only (station : Station) (commission : Bool) (torn : Torn) : Completes (.reset station commission torn) s
    (Only [.due, .startRec, .settings, .channels, .meter, .twist, .sampler, .knot, .line, .peers, .prot, .coil, .store, .memory] s) :=
  ⟨_, rfl, (startedNode_only s _ _ _).step (beginScan_only _)⟩

theorem startEvent_only : Completes .startEvent s (Only [.due, .pins, .startRec, .meter, .twist, .knot, .line, .prot] s) := by
  have begun : Only [.due, .pins, .startRec, .meter, .twist, .knot, .line, .prot] s (lineBegun s) := (lineBegun_extends s).grow
  exact ⟨_, rfl, .ite (take_only s _).grow (.ite (begun.step (leaveUnset_extends _).1) begun)⟩

/-! ### The table -/

/-- The parts of the node that a command can change, whatever the node. -/
def changedParts : Instr → List Part
  | .channelStartRequest .. | .channelStopRequest .. | .setNextReload .. | .channelTrigger .. | .intervalExpiry ..
  | .periodCapture .. => [.due, .channels]
  | .encoderTransition .. => [.due, .pins, .meter, .coil]
  | .speedEvaluation => [.due, .meter, .prot]
  | .pacePartToMetering .. | .flagSetRequest .. => [.due, .meter]
  | .spindleTurn .. | .stallCheck => [.due, .channels, .meter, .twist]
  | .twistRunningEntry | .twistRunningExit | .twistSegmentRequest .. | .paceSourceSilent | .paceHoldExpiry
  | .paceSourceHeard => [.due, .twist]
  | .pacePartToTwist .. => [.due, .meter, .twist]
  | .scanStart => [.due, .channels, .sampler]
  | .conversionComplete .. | .samplerRunningEntry | .samplerRunningExit | .tensionClearNotice => [.due, .sampler]
  | .tensionClearQuestion | .cutEndedQuestion | .heldBackQuestion => [.due]
  | .phaseCodeChange .. | .phaseCandidate .. => [.due, .pins, .channels, .meter, .knot]
  | .windowOpen .. => [.due, .pins, .channels, .knot]
  | .knotSample .. => [.due, .pins, .knot]
  | .windowClose | .drawWidthCapture .. => [.due, .channels, .knot]
  | .knotRunningEntry | .knotRunningExit | .knotSegmentRequest .. => [.due, .knot]
  | .frameReceived .. | .brokenFrame .. | .receiverEntersPass | .passIdle | .permitStateNotice .. => [.due, .line]
  | .presenceTimerExpiry | .withdrawRequest .. | .transmitterJoin | .attemptBegin | .query .. | .clearflags .. =>
    [.due, .meter, .line]
  | .attemptSuccess | .collision => [.due, .line, .world]
  | .peerListFrame .. | .peerAgeing .. => [.due, .peers]
  | .start | .alarmReset | .clearCause .. | .haltTimerExpiry | .haltFrame .. | .resumeFrame .. | .presenceHaltPart ..
  | .tensionAnswer .. | .cutEndedAnswer .. | .heldBackAnswer .. | .coilHoldSet | .coilHoldClear | .refusalBlinkEnd
  | .alarmFlash => [.due, .prot]
  | .stop | .raiseCause .. | .withdrawAnswer .. => [.due, .meter, .line, .prot]
  | .breakOpen | .supplyWarning => [.due, .pins, .meter, .line, .prot]
  | .breakClose => [.due, .pins]
  | .supplyRecovery => [.due, .pins, .prot]
  | .coilRunningEntry | .cutDone | .segmentStatisticsAnswer .. | .tallyReceived .. | .keepReport .. | .supplyNotice =>
    [.due, .meter, .line, .coil, .store]
  | .cutRequest | .restTimerExpiry | .cutTimerExpiry => [.due, .coil]
  | .cutDriveStart | .cutPulseExpiry => [.due, .channels, .coil]
  | .reasonNotice .. | .markSpliceReceived .. => [.due, .meter, .coil]
  | .splice | .markCutReceived .. | .target .. => [.due, .meter, .line, .coil]
  | .tallyWaitExpiry => [.due, .channels, .meter, .line, .coil, .store]
  | .programHeaderComplete .. | .keepComplete .. | .lostCompletion .. | .commitComplete .. =>
    [.due, .meter, .line, .coil, .store, .memory]
  | .markCollectedComplete .. | .eraseBankComplete .. => [.due, .meter, .line, .store, .memory]
  | .checkComplete | .readComplete | .recall .. | .collected .. | .key .. | .erase .. | .check .. | .settingCommit .. =>
    [.due, .meter, .line, .store]
  | .setting .. => [.due, .startRec, .meter, .line, .store]
  | .reset .. =>
    [.due, .startRec, .settings, .channels, .meter, .twist, .sampler, .knot, .line, .peers, .prot, .coil, .store, .memory]
  | .startEvent => [.due, .pins, .startRec, .meter, .twist, .knot, .line, .prot]

/-- Every command completes, and changes no part of the node but those of the table. -/
theorem exec_only : (c : Instr) → (s : State) → Completes c s (Only (changedParts c) s)
  | .reset station commission torn, s => reset_only s station commission torn
  | .startEvent, s => startEvent_only s
  | .channelStartRequest channel request, s => channelStartRequest_only s channel request
  | .channelStopRequest channel, s => channelStopRequest_only s channel
  | .setNextReload channel reload, s => setNextReload_only s channel reload
  | .channelTrigger channel event, s => channelTrigger_only s channel event
  | .intervalExpiry channel, s => intervalExpiry_only s channel
  | .periodCapture channel, s => periodCapture_only s channel
  | .encoderTransition encoder line1 line2, s => encoderTransition_only s encoder line1 line2
  | .speedEvaluation, s => speedEvaluation_only s
  | .pacePartToMetering length, s => pacePartToMetering_only s length
  | .flagSetRequest flag origin, s => flagSetRequest_only s flag origin
  | .spindleTurn spindle, s => spindleTurn_only s spindle
  | .twistRunningEntry, s => twistRunningEntry_only s
  | .twistRunningExit, s => twistRunningExit_only s
  | .stallCheck, s => stallCheck_only s
  | .twistSegmentRequest coil, s => twistSegmentRequest_only s coil
  | .pacePartToTwist v, s => pacePartToTwist_only s v
  | .paceSourceSilent, s => paceSourceSilent_only s
  | .paceHoldExpiry, s => paceHoldExpiry_only s
  | .paceSourceHeard, s => paceSourceHeard_only s
  | .scanStart, s => scanStart_only s
  | .conversionComplete result, s => conversionComplete_only s result
  | .samplerRunningEntry, s => samplerRunningEntry_only s
  | .samplerRunningExit, s => samplerRunningExit_only s
  | .tensionClearQuestion, s => tensionClearQuestion_only s
  | .tensionClearNotice, s => tensionClearNotice_only s
  | .phaseCodeChange code, s => phaseCodeChange_only s code
  | .windowOpen lines, s => windowOpen_only s lines
  | .knotSample lines, s => knotSample_only s lines
  | .windowClose, s => windowClose_only s
  | .drawWidthCapture capture saturated, s => drawWidthCapture_only s capture saturated
  | .knotRunningEntry, s => knotRunningEntry_only s
  | .knotRunningExit, s => knotRunningExit_only s
  | .knotSegmentRequest coil, s => knotSegmentRequest_only s coil
  | .frameReceived frame, s => frameReceived_only s frame
  | .brokenFrame byIdle, s => brokenFrame_only s byIdle
  | .presenceTimerExpiry, s => presenceTimerExpiry_only s
  | .permitStateNotice permit, s => permitStateNotice_only s permit
  | .withdrawRequest serial, s => withdrawRequest_only s serial
  | .transmitterJoin, s => transmitterJoin_only s
  | .attemptBegin, s => attemptBegin_only s
  | .attemptSuccess, s => attemptSuccess_only s
  | .collision, s => collision_only s
  | .peerListFrame frame, s => peerListFrame_only s frame
  | .peerAgeing station, s => peerAgeing_only s station
  | .start, s => start_only s
  | .stop, s => stop_only s
  | .breakOpen, s => breakOpen_only s
  | .breakClose, s => breakClose_only s
  | .alarmReset, s => alarmReset_only s
  | .raiseCause cause, s => raiseCause_only s cause
  | .clearCause cause, s => clearCause_only s cause
  | .haltTimerExpiry, s => haltTimerExpiry_only s
  | .withdrawAnswer sent serial, s => withdrawAnswer_only s sent serial
  | .haltFrame station cause serial length, s => haltFrame_only s station cause serial length
  | .resumeFrame station serial, s => resumeFrame_only s station serial
  | .presenceHaltPart station halt, s => presenceHaltPart_only s station halt
  | .tensionAnswer yes, s => tensionAnswer_only s yes
  | .cutEndedAnswer ended, s => cutEndedAnswer_only s ended
  | .heldBackAnswer heldBack, s => heldBackAnswer_only s heldBack
  | .coilHoldSet, s => coilHoldSet_only s
  | .coilHoldClear, s => coilHoldClear_only s
  | .supplyWarning, s => supplyWarning_only s
  | .supplyRecovery, s => supplyRecovery_only s
  | .refusalBlinkEnd, s => refusalBlinkEnd_only s
  | .coilRunningEntry, s => coilRunningEntry_only s
  | .cutRequest, s => cutRequest_only s
  | .restTimerExpiry, s => restTimerExpiry_only s
  | .cutDriveStart, s => cutDriveStart_only s
  | .cutPulseExpiry, s => cutPulseExpiry_only s
  | .cutTimerExpiry, s => cutTimerExpiry_only s
  | .cutEndedQuestion, s => cutEndedQuestion_only s
  | .cutDone, s => cutDone_only s
  | .segmentStatisticsAnswer coil part, s => segmentStatisticsAnswer_only s coil part
  | .reasonNotice code station stopped, s => reasonNotice_only s code station stopped
  | .splice, s => splice_only s
  | .markSpliceReceived station, s => markSpliceReceived_only s station
  | .markCutReceived station coil, s => markCutReceived_only s station coil
  | .tallyReceived station tally, s => tallyReceived_only s station tally
  | .tallyWaitExpiry, s => tallyWaitExpiry_only s
  | .keepReport coil kept, s => keepReport_only s coil kept
  | .heldBackQuestion, s => heldBackQuestion_only s
  | .supplyNotice, s => supplyNotice_only s
  | .programHeaderComplete wear, s => programHeaderComplete_only s wear
  | .keepComplete wear, s => keepComplete_only s wear
  | .markCollectedComplete wear, s => markCollectedComplete_only s wear
  | .eraseBankComplete wear, s => eraseBankComplete_only s wear
  | .checkComplete, s => checkComplete_only s
  | .readComplete, s => readComplete_only s
  | .lostCompletion wear, s => lostCompletion_only s wear
  | .commitComplete wear, s => commitComplete_only s wear
  | .query source page, s => query_only s source page
  | .recall source coil parts, s => recall_only s source coil parts
  | .collected source coil, s => collected_only s source coil
  | .key source value, s => key_only s source value
  | .erase source bank, s => erase_only s source bank
  | .check source first count, s => check_only s source first count
  | .setting source index data, s => setting_only s source index data
  | .settingCommit source, s => settingCommit_only s source
  | .target source length, s => target_only s source length
  | .clearflags source, s => clearflags_only s source
  | .phaseCandidate code, s => phaseCandidate_only s code
  | .receiverEntersPass, s => receiverEntersPass_only s
  | .passIdle, s => passIdle_only s
  | .alarmFlash, s => alarmFlash_only s

end Sys2Proof.Machine
end

section
/-! SUPPORT. R52 and R88 as invariants: the windows of a spindle are the sum of its classes, and the row history holds 16 rows at
most, whatever command or time comes; and the claims that every step keeps them and that the node after reset meets them. -/

namespace Sys2Proof.Machine

-- One declaration at a time, as in the frames: side by side these proofs ask for more threads than the memory limit allows.
set_option Elab.async false

variable {s t : State} {l : List Part} {c : Instr} {P Q : State → Prop}

/-! ### An invariant kept by every step -/

theorem Completes.imp (h : Completes c s P) (k : ∀ t, P t → Q t) : Completes c s Q := by
  obtain ⟨t, hx, hp⟩ := h
  exact ⟨t, hx, k t hp⟩

/-- A step takes the next state that its command completes with. -/
theorem Completes.of_exec (h : Completes c s P) (hx : exec c s = .next t) : P t := by
  obtain ⟨u, hu, hp⟩ := h
  rw [hu] at hx
  cases hx
  exact hp

theorem Completes.and (h : Completes c s P) (k : Completes c s Q) : Completes c s fun t => P t ∧ Q t := by
  obtain ⟨t, hx, hp⟩ := h
  exact ⟨t, hx, hp, k.of_exec hx⟩

/-- A step is a command that waits, or with none the oldest event due, or with neither the node left to time (log entries 1
and 3). -/
theorem step_cases (h : step s = .next t) :
    (∃ c rest, s.pending = c :: rest ∧ exec c { s with pending := rest } = .next t) ∨
    (∃ e rest, s.pending = [] ∧ s.due = e :: rest ∧ exec e s = .next t) ∨
    (s.pending = [] ∧ s.due = [] ∧ t = idle s) := by
  unfold step at h
  split at h
  case h_1 c rest hp => exact .inl ⟨c, rest, hp, h⟩
  case h_2 hp =>
    split at h
    case h_1 e rest hd => exact .inr (.inl ⟨e, rest, hp, hd, h⟩)
    case h_2 hd =>
      cases h
      exact .inr (.inr ⟨hp, hd, rfl⟩)

/-- What every command and time keep, and what the commands that wait have no part in, every step keeps. -/
theorem step_keeps (hexec : ∀ c s, Completes c s fun t => P s → P t) (hidle : ∀ s, P s → P (idle s))
    (hpending : ∀ s rest, P s → P { s with pending := rest }) (hp : P s) (h : step s = .next t) : P t := by
  obtain ⟨c, rest, -, hx⟩ | ⟨e, rest, -, -, hx⟩ | ⟨-, -, rfl⟩ := step_cases h
  · exact (hexec c _).of_exec hx (hpending s rest hp)
  · exact (hexec e s).of_exec hx hp
  · exact hidle s hp

/-! ### The windows of a spindle (R52) -/

/-- R52 for the statistics of one spindle. -/
def SpindleStats.AddUp (u : SpindleStats) : Prop := u.windows = u.within + u.below + u.above + u.stalled

section
variable {u : SpindleStats} (h : u.AddUp)
include h

theorem enterLay_addUp (low high lay : Nat) (fault : Bool) : (enterLay (classOf low high lay) lay fault u).AddUp := by
  rcases Nat.lt_or_ge u.windows 4294967295 with hlt | hge
  · rw [enterLay_of_lt hlt]
    unfold SpindleStats.AddUp at h ⊢
    by_cases hlow : lay < low
    · simp [hlow]
      omega
    · by_cases hhigh : high < lay <;> simp [hlow, hhigh] <;> omega
  · rw [enterLay, if_pos (show topWindows ≤ u.windows from hge)]
    exact h

theorem enterStalled_addUp : (enterStalled u).AddUp := by
  rcases Nat.lt_or_ge u.windows 4294967295 with hlt | hge
  · rw [enterStalled_of_lt hlt]
    unfold SpindleStats.AddUp at h ⊢
    dsimp only
    omega
  · rw [enterStalled, if_pos (show topWindows ≤ u.windows from hge)]
    exact h

end

theorem WindowsAddUp.of_spindles (h : WindowsAddUp s) (ht : t.twist.spindles = s.twist.spindles) : WindowsAddUp t := by
  intro n
  have hn : t.spindle n = s.spindle n := congrArg (fun v : Vector Spindle 4 => v[n]) ht
  rw [hn]
  exact h n

theorem WindowsAddUp.of_only (h : WindowsAddUp s) (ho : Only l s t) (hl : l.contains .twist = false := by rfl) :
    WindowsAddUp t :=
  h.of_spindles (congrArg Twist.spindles (ho.2 .twist (by simpa using hl)))

theorem WindowsAddUp.setSpindle (h : WindowsAddUp s) {p : Spindle} (hp : p.stats.AddUp) (n : Fin 4) :
    WindowsAddUp (s.setSpindle n p) := by
  intro m
  by_cases hm : m = n
  · subst hm
    rw [State.setSpindle_spindle_self]
    exact hp
  · rw [State.setSpindle_spindle_ne _ _ hm]
    exact h m

/-- Every spindle's record replaced by one that has kept its statistics. -/
theorem WindowsAddUp.ofFn (h : WindowsAddUp s) {f : Fin 4 → Spindle} (hf : ∀ n, (f n).stats = (s.spindle n).stats)
    (ht : t.twist.spindles = Vector.ofFn f) : WindowsAddUp t := by
  intro n
  have hn : t.spindle n = f n := by simp [State.spindle, ht]
  rw [hn, hf n]
  exact h n

theorem windowsAddUp_of_reset (h : s.twist = .reset) : WindowsAddUp s := by
  intro n
  have hn : s.spindle n = .reset := by simp [State.spindle, h, Twist.reset]
  rw [hn]
  rfl

/-! ### What the twist monitor's operations do to the windows -/

section
variable (n : Fin 4) (h : WindowsAddUp s)
include h

theorem closeWindow_windowsAddUp (turns : Nat) (finish : Int) (mark : Bool) :
    WindowsAddUp (closeWindow n turns finish mark s) := by
  intro m
  by_cases hm : m = n
  · subst hm
    rw [closeWindow_spindle_self]
    exact enterLay_addUp (h m) _ _ _ _
  · rw [closeWindow_spindle_ne _ _ _ _ _ hm]
    exact h m

theorem stallWindow_windowsAddUp : WindowsAddUp (stallWindow n s) := by
  rw [stallWindow_eq]
  exact (h.of_only ((setFlag_only s .dvz (.lay n)).step (emit_only _ _))).setSpindle (enterStalled_addUp (h n)) n

theorem checkStall_windowsAddUp : WindowsAddUp (checkStall s n) := by
  rcases stall_cases (s.spindle n) with hs | ⟨ho, hm⟩ | ⟨ho, hm, ht⟩ | ⟨ho, hm, ht⟩
  · rw [checkStall_of_shut hs]
    exact h
  · rw [checkStall_of_marked ho hm]
    refine h.setSpindle ?_ n
    exact h n
  · rw [checkStall_of_turns ho hm ht]
    exact closeWindow_windowsAddUp n h _ _ _
  · rw [checkStall_of_still ho hm ht]
    exact stallWindow_windowsAddUp n h

theorem countTurn_windowsAddUp : WindowsAddUp (countTurn n s) := by
  unfold countTurn
  dsimp only
  split
  · exact closeWindow_windowsAddUp n h _ _ _
  · refine h.setSpindle ?_ n
    exact h n

end

theorem foldl_checkStall_windowsAddUp (h : WindowsAddUp s) (k : List (Fin 4)) : WindowsAddUp (k.foldl checkStall s) := by
  induction k generalizing s with
  | nil => exact h
  | cons n k ih => exact ih (checkStall_windowsAddUp n h)

theorem banded_stats (g : SpindleSettings) (p : Spindle) : (banded g p).stats = p.stats := by
  unfold banded
  split <;> rfl

theorem enteredSpindle_stats (g : SpindleSettings) (length : Int) (p : Spindle) : (enteredSpindle g length p).stats = p.stats := by
  unfold enteredSpindle
  split <;> rfl

theorem leftSpindle_stats (g : SpindleSettings) (p : Spindle) : (leftSpindle g p).stats = p.stats := by
  unfold leftSpindle
  split <;> rfl

theorem beginTwist_windowsAddUp (h : WindowsAddUp s) : WindowsAddUp (beginTwist s) := by
  unfold beginTwist
  split
  · exact h.ofFn (fun n => banded_stats _ _) rfl
  · exact h

theorem leaveUnset_windowsAddUp (h : WindowsAddUp s) : WindowsAddUp (leaveUnset s) := by
  have hbegun : WindowsAddUp (beginTwist (meterBegun s)) := beginTwist_windowsAddUp (h.of_only (meterBegun_extends s).1)
  exact (hbegun.of_spindles (congrArg Twist.spindles (jobsBegun_twist s))).of_only (jobsBegun_leaveUnset s).1

theorem sourceRecovers_windowsAddUp (h : WindowsAddUp s) : WindowsAddUp (sourceRecovers s) :=
  h.of_spindles (by rw [sourceRecovers_twist])

/-! ### The windows over a command and over time (R52) -/

section
variable (s)

theorem reset_windowsAddUp (station : Station) (commission : Bool) (torn : Torn) :
    Completes (.reset station commission torn) s fun t => WindowsAddUp t :=
  ⟨_, rfl, WindowsAddUp.of_only (s := startedNode station commission (tornMemory torn s) s) (windowsAddUp_of_reset rfl)
    (beginScan_only _)⟩

theorem startEvent_windowsAddUp : Completes .startEvent s fun t => WindowsAddUp s → WindowsAddUp t := by
  refine ⟨_, rfl, fun h => ?_⟩
  have begun : WindowsAddUp (lineBegun s) := h.of_only (lineBegun_extends s)
  exact iteInduction (fun _ => h.of_only (take_only s _))
    fun _ => iteInduction (fun _ => leaveUnset_windowsAddUp begun) fun _ => begun

theorem spindleTurn_windowsAddUp (n : Fin 4) : Completes (.spindleTurn n) s fun t => WindowsAddUp s → WindowsAddUp t := by
  refine ⟨_, rfl, fun h => ?_⟩
  have ready := (h.of_only (take_only s (.spindleTurn n))).of_only
    (takeExpiry_only _ (s.due.contains (.spindleTurn n)) (turnChannel n) .count)
  exact iteInduction (fun _ => countTurn_windowsAddUp n ready) fun _ => ready

theorem stallCheck_windowsAddUp : Completes .stallCheck s fun t => WindowsAddUp s → WindowsAddUp t := by
  refine ⟨_, rfl, fun h => ?_⟩
  have ready : WindowsAddUp (stallReady s) := h.of_only (stallReady_only s)
  exact iteInduction (fun _ => foldl_checkStall_windowsAddUp ready _) fun _ => ready

theorem twistRunningEntry_windowsAddUp : Completes .twistRunningEntry s fun t => WindowsAddUp s → WindowsAddUp t :=
  ⟨_, rfl, fun h => iteInduction (fun _ => h.ofFn (fun _ => enteredSpindle_stats _ _ _) rfl) fun _ => h.of_only (take_only s _)⟩

theorem twistRunningExit_windowsAddUp : Completes .twistRunningExit s fun t => WindowsAddUp s → WindowsAddUp t :=
  ⟨_, rfl, fun h => iteInduction (fun _ => h.ofFn (fun _ => leftSpindle_stats _ _) rfl) fun _ => h.of_only (take_only s _)⟩

theorem twistSegmentRequest_windowsAddUp (coil : BitVec 32) :
    Completes (.twistSegmentRequest coil) s fun t => WindowsAddUp s → WindowsAddUp t := by
  refine ⟨_, rfl, fun h => iteInduction (fun _ n => ?_) fun _ => h.of_only (take_only s _)⟩
  have zeroed : ((s.twist.spindles.map fun p : Spindle => { p with stats := SpindleStats.zero })[n]).stats.AddUp := by
    rw [Fin.getElem_fin, Vector.getElem_map]
    rfl
  exact zeroed

theorem pacePartToTwist_windowsAddUp (v : BitVec 16) :
    Completes (.pacePartToTwist v) s fun t => WindowsAddUp s → WindowsAddUp t := by
  refine ⟨_, rfl, fun h => ?_⟩
  have taken : WindowsAddUp (s.take (.pacePartToTwist v)) := h.of_only (take_only s _)
  have stopped : WindowsAddUp (flowStopped (s.take (.pacePartToTwist v))) :=
    (sourceRecovers_windowsAddUp taken).of_spindles rfl
  have moving (x : Nat × Option ArithFlag) : WindowsAddUp (paceTaken x (s.take (.pacePartToTwist v))) :=
    (sourceRecovers_windowsAddUp taken).of_spindles (by rw [paceTaken_twist])
  exact iteInduction (fun _ => taken) fun _ =>
    iteInduction (fun _ => stopped.of_only (steerReference_only _ _)) fun _ => (moving _).of_only (steerReference_only _ _)

theorem paceSourceSilent_windowsAddUp : Completes .paceSourceSilent s fun t => WindowsAddUp s → WindowsAddUp t := by
  refine ⟨_, rfl, fun h => iteInduction (fun _ => ?_) fun _ => h.of_only (take_only s _)⟩
  dsimp only
  split <;> exact h.of_spindles rfl

theorem paceHoldExpiry_windowsAddUp : Completes .paceHoldExpiry s fun t => WindowsAddUp s → WindowsAddUp t := by
  refine ⟨_, rfl, fun h => iteInduction (fun _ => WindowsAddUp.of_only ?_ (steerReference_only _ _)) fun _ =>
    h.of_only (take_only s _)⟩
  exact h.of_spindles rfl

theorem paceSourceHeard_windowsAddUp : Completes .paceSourceHeard s fun t => WindowsAddUp s → WindowsAddUp t :=
  have taken (h : WindowsAddUp s) : WindowsAddUp (s.take .paceSourceHeard) := h.of_only (take_only s _)
  ⟨_, rfl, fun h => iteInduction
    (fun _ => (sourceRecovers_windowsAddUp (taken h)).of_only (steerReference_only _ _)) fun _ => taken h⟩

end

/-- A command by which the twist monitor judges windows, or enters or leaves them, keeps R52, and so does every other. -/
theorem exec_windowsAddUp (c : Instr) (s : State) : Completes c s fun t => WindowsAddUp s → WindowsAddUp t := by
  cases c with
  | reset station commission torn => exact (reset_windowsAddUp s station commission torn).imp fun t ht _ => ht
  | startEvent => exact startEvent_windowsAddUp s
  | spindleTurn n => exact spindleTurn_windowsAddUp s n
  | twistRunningEntry => exact twistRunningEntry_windowsAddUp s
  | twistRunningExit => exact twistRunningExit_windowsAddUp s
  | stallCheck => exact stallCheck_windowsAddUp s
  | twistSegmentRequest coil => exact twistSegmentRequest_windowsAddUp s coil
  | pacePartToTwist v => exact pacePartToTwist_windowsAddUp s v
  | paceSourceSilent => exact paceSourceSilent_windowsAddUp s
  | paceHoldExpiry => exact paceHoldExpiry_windowsAddUp s
  | paceSourceHeard => exact paceSourceHeard_windowsAddUp s
  | _ => exact (exec_only _ s).imp fun t ho h => h.of_only ho

theorem idle_windowsAddUp (s : State) (h : WindowsAddUp s) : WindowsAddUp (idle s) := by
  obtain ⟨-, -, -, -, -, -, -, -, hspindles, -⟩ := idle_idleKeeps s
  exact h.of_spindles hspindles

/-! ### The row history (R88) -/

theorem HistoryFits.of_history (h : HistoryFits s) (ht : t.knot.history = s.knot.history) : HistoryFits t := by
  unfold HistoryFits
  rw [ht]
  exact h

theorem HistoryFits.of_only (h : HistoryFits s) (ho : Only l s t) (hl : l.contains .knot = false := by rfl) : HistoryFits t :=
  h.of_history (congrArg Knot.history (ho.2 .knot (by simpa using hl)))

/-- The oldest of 17 rows is removed. -/
theorem addHistory_length_le (e : RowEntry) (l : List RowEntry) : (addHistory e l).length ≤ 16 := by
  simp only [addHistory, List.length_drop, List.length_append, List.length_singleton]
  omega

section
variable (h : HistoryFits s)
include h

theorem rowClosed_historyFits : HistoryFits s.rowClosed := by
  unfold State.rowClosed
  split
  · cases hv : s.knot.runningView with
    | false =>
      rw [completeRow_of_inch s hv]
      exact h
    | true =>
      rw [completeRow_of_view s hv, HistoryFits, enterRow_knot]
      exact addHistory_length_le _ _
  · exact h

theorem turnRow_historyFits : HistoryFits (turnRow s) := by
  have hrow := turnRow_rowPart s
  simp only [Knot.rowPart, Prod.mk.injEq] at hrow
  obtain ⟨-, hhistory, -⟩ := hrow
  exact (rowClosed_historyFits h).of_history hhistory

theorem pendWindow_historyFits : HistoryFits (pendWindow s) := by
  unfold pendWindow
  split <;> exact h

theorem leaveDraw_historyFits : HistoryFits (leaveDraw s) := by
  unfold leaveDraw
  dsimp only
  split <;> exact h

theorem forwardInto_historyFits (k : Sector) : HistoryFits (forwardInto k s) := by
  cases k with
  | s0 => exact turnRow_historyFits h
  | s3 => exact pendWindow_historyFits h
  | s4 => exact leaveDraw_historyFits h
  | s1 => exact h
  | s2 => exact h
  | s5 => exact h

theorem moveSector_historyFits (k : Option Sector) : HistoryFits (moveSector k s) := h.of_history (by rw [moveSector_knot])

theorem takeCode_historyFits (code : BitVec 3) : HistoryFits (takeCode code s) := by
  have moved (k : Option Sector) : HistoryFits (moveSector k (s.withCode code)) :=
    moveSector_historyFits (s := s.withCode code) h k
  unfold takeCode
  dsimp only
  split
  · exact moved _
  · exact forwardInto_historyFits (moved _) _
  · exact (moved _).of_history rfl
  · have fault := moveSector_historyFits (s := s.withKnot { s.knot with
      takenCode := some code, candidate := none, filterTime := 0, phaseFaults := holdInc 65535 s.knot.phaseFaults }) h none
    exact iteInduction (fun _ => fault.of_history rfl) fun _ => fault.of_history rfl

end

theorem beginKnot_historyFits (h : HistoryFits s) : HistoryFits (beginKnot s) := by
  unfold beginKnot
  split <;> exact h

theorem leaveUnset_historyFits (h : HistoryFits s) : HistoryFits (leaveUnset s) := by
  have ready : HistoryFits (beginSampler (beginTwist (meterBegun s))) :=
    ((h.of_only (meterBegun_extends s).1).of_only (beginTwist_extends _).1).of_only (beginSampler_extends _).1
  exact (beginKnot_historyFits ready).of_only (jobsBegun_leaveUnset s).1

/-! ### The history over a command and over time (R88) -/

section
variable (s : State)

theorem reset_historyFits (station : Station) (commission : Bool) (torn : Torn) :
    Completes (.reset station commission torn) s fun t => HistoryFits t :=
  ⟨_, rfl, HistoryFits.of_only (s := startedNode station commission (tornMemory torn s) s) (Nat.zero_le 16) (beginScan_only _)⟩

theorem startEvent_historyFits : Completes .startEvent s fun t => HistoryFits s → HistoryFits t := by
  refine ⟨_, rfl, fun h => ?_⟩
  have begun : HistoryFits (lineBegun s) := h.of_only (lineBegun_extends s)
  exact iteInduction (fun _ => h.of_only (take_only s _))
    fun _ => iteInduction (fun _ => leaveUnset_historyFits begun) fun _ => begun

theorem phaseCodeChange_historyFits (code : BitVec 3) :
    Completes (.phaseCodeChange code) s fun t => HistoryFits s → HistoryFits t := by
  refine ⟨_, rfl, fun h => ?_⟩
  have shown := h.of_only (showPhase_only (.phaseCodeChange code) code s)
  exact iteInduction (fun _ => takeCode_historyFits shown code) fun _ => shown

theorem phaseCandidate_historyFits (code : BitVec 3) :
    Completes (.phaseCandidate code) s fun t => HistoryFits s → HistoryFits t := by
  refine ⟨_, rfl, fun h => ?_⟩
  have shown := h.of_only (showPhase_only (.phaseCandidate code) code s)
  exact iteInduction (fun _ => shown) fun _ => iteInduction (fun _ => shown) fun _ =>
    iteInduction (fun _ => takeCode_historyFits shown code) fun _ => iteInduction (fun _ => shown) fun _ => shown

theorem windowOpen_historyFits (lines : BitVec 32) :
    Completes (.windowOpen lines) s fun t => HistoryFits s → HistoryFits t := by
  refine ⟨_, rfl, fun h => ?_⟩
  have ready := ((h.of_only (showLines_only s (.windowOpen lines) lines)).of_only
    (takeLike_only _ execWindowOpen.isOpening)).of_only (takeExpiry_only _ (s.due.any execWindowOpen.isOpening) 1 .delay)
  exact iteInduction (fun _ => ready) fun _ => ready

theorem knotSample_historyFits (lines : BitVec 32) :
    Completes (.knotSample lines) s fun t => HistoryFits s → HistoryFits t := by
  refine ⟨_, rfl, fun h => ?_⟩
  have ready := (h.of_only (showLines_only s (.knotSample lines) lines)).of_only (takeLike_only _ execKnotSample.isSample)
  exact iteInduction (fun _ => ready) fun _ => ready

theorem windowClose_historyFits : Completes .windowClose s fun t => HistoryFits s → HistoryFits t := by
  refine ⟨_, rfl, fun h => ?_⟩
  have ready := (h.of_only (take_only s .windowClose)).of_only (takeExpiry_only _ (s.due.contains .windowClose) 2 .delay)
  exact iteInduction (fun _ => ready) fun _ => ready

theorem drawWidthCapture_historyFits (capture : BitVec 24) (saturated : Bool) :
    Completes (.drawWidthCapture capture saturated) s fun t => HistoryFits s → HistoryFits t := by
  refine ⟨_, rfl, fun h => ?_⟩
  have ready : HistoryFits (if s.due.contains (.drawWidthCapture capture saturated)
      then s.take (.drawWidthCapture capture saturated)
      else if s.due.any execDrawWidthCapture.isCapture
        then execDrawWidthCapture.correct capture (s.takeLike execDrawWidthCapture.isCapture)
        else widthExpiry 0 capture s) :=
    iteInduction (fun _ => h) fun _ => iteInduction (fun _ => h) fun _ => h.of_only (widthExpiry_only s 0 capture)
  exact iteInduction (fun _ => ready) fun _ => ready

theorem knotRunningEntry_historyFits : Completes .knotRunningEntry s fun t => HistoryFits s → HistoryFits t :=
  ⟨_, rfl, fun h => iteInduction (fun _ => h) fun _ => h⟩

/-- The exit empties the history (R91). -/
theorem knotRunningExit_historyFits : Completes .knotRunningExit s fun t => HistoryFits s → HistoryFits t :=
  ⟨_, rfl, fun h => iteInduction (fun _ => Nat.zero_le 16) fun _ => h⟩

theorem knotSegmentRequest_historyFits (coil : BitVec 32) :
    Completes (.knotSegmentRequest coil) s fun t => HistoryFits s → HistoryFits t :=
  ⟨_, rfl, fun h => iteInduction (fun _ => h) fun _ => h⟩

end

/-- A command by which the knot monitor takes a code, a sample or a notice keeps R88, and so does every other. -/
theorem exec_historyFits (c : Instr) (s : State) : Completes c s fun t => HistoryFits s → HistoryFits t := by
  cases c with
  | reset station commission torn => exact (reset_historyFits s station commission torn).imp fun t ht _ => ht
  | startEvent => exact startEvent_historyFits s
  | phaseCodeChange code => exact phaseCodeChange_historyFits s code
  | phaseCandidate code => exact phaseCandidate_historyFits s code
  | windowOpen lines => exact windowOpen_historyFits s lines
  | knotSample lines => exact knotSample_historyFits s lines
  | windowClose => exact windowClose_historyFits s
  | drawWidthCapture capture saturated => exact drawWidthCapture_historyFits s capture saturated
  | knotRunningEntry => exact knotRunningEntry_historyFits s
  | knotRunningExit => exact knotRunningExit_historyFits s
  | knotSegmentRequest coil => exact knotSegmentRequest_historyFits s coil
  | _ => exact (exec_only _ s).imp fun t ho h => h.of_only ho

theorem tickPhase_historyFits (h : HistoryFits s) : HistoryFits (tickPhase s) := by
  have emitted (k : List Instr) : HistoryFits (s.emit k) := h
  have filtered (b : Bool) (e : Instr) (k : Knot) (hk : k.history = s.knot.history) :
      HistoryFits (onExpiry b e (s.withKnot k)) :=
    (h.of_history (t := s.withKnot k) hk).of_only (onExpiry_extends _ _ _).1
  unfold tickPhase
  exact iteInduction (fun _ => h) fun _ => iteInduction (fun _ => iteInduction (fun _ => emitted _) fun _ => h) fun _ =>
    iteInduction (fun _ => filtered _ _ _ rfl) fun _ => emitted _

theorem idle_historyFits (s : State) (h : HistoryFits s) : HistoryFits (idle s) := by
  unfold idle
  split
  · exact h.of_only (giveExpiry_only s _ _)
  · have filtered : HistoryFits s.phaseTicked := tickPhase_historyFits (h.of_only (samplerTicked_extends s).1)
    exact filtered.of_history (by rw [tick_knot])

/-- Settles O8: each of the two is kept by every command and by time. -/
theorem windowsStayAddedUp : Obligations.WindowsStayAddedUp :=
  ⟨fun _ _ => step_keeps exec_windowsAddUp idle_windowsAddUp fun _ _ h => h,
    fun _ _ => step_keeps exec_historyFits idle_historyFits fun _ _ h => h⟩

/-- Settles O10: after reset the permit is UNSET, every list is empty and every count 0. -/
theorem resetMeetsTheInvariants : Obligations.ResetMeetsTheInvariants := by
  refine ⟨fun h => ?_, fun _ => rfl, .nil, ⟨Nat.zero_le 8, Nat.zero_le 1, .nil⟩, windowsAddUp_of_reset rfl, Nat.zero_le 16,
    ⟨.nil, fun c hc => ?_⟩, fun r hr => ?_⟩
  · cases h
  · cases hc
  · cases hr

end Sys2Proof.Machine
end

section
/-! SUPPORT. The lay as a rounded quotient (R45, R93), the notices of RUNNING at the twist monitor (R42, R43), and the claims about
them. -/

namespace Sys2Proof.Machine

/-! ### The lay by its quotient (R45, R93) -/

section
variable {k n : Nat}

/-- The quotient lies within half a µm of the length for each turn, a half rounded up. -/
theorem layQuotient_bounds (hn : 0 < n) : 2 * ((2 * k + n) / (2 * n)) * n ≤ 2 * k + n ∧
    2 * k + n < 2 * ((2 * k + n) / (2 * n) + 1) * n := by
  have hle := Nat.mul_div_le (2 * k + n) (2 * n)
  have hlt := Nat.lt_mul_div_succ (2 * k + n) (Nat.mul_pos two_pos hn)
  rw [Nat.mul_right_comm] at hle hlt
  exact ⟨hle, hlt⟩

theorem layOf_of_nonpos {delta : Int} (h : delta ≤ 0) (n : Nat) : layOf delta n = (1, some .unf) := if_pos h

theorem layOf_of_pos (hk : 0 < k) (n : Nat) : layOf k n =
    if topLay < (2 * k + n) / (2 * n) then (topLay, some .ovf)
    else if (2 * k + n) / (2 * n) = 0 then (max 1 (min (Config.layBelowOne k n) topLay), none)
    else ((2 * k + n) / (2 * n), none) :=
  if_neg (by omega)

theorem layOf_of_long (hk : 0 < k) (h : topLay < (2 * k + n) / (2 * n)) : layOf k n = (topLay, some .ovf) := by
  rw [layOf_of_pos hk, if_pos h]

theorem layOf_of_between (hk : 0 < k) (h : ¬ topLay < (2 * k + n) / (2 * n)) (h0 : (2 * k + n) / (2 * n) ≠ 0) :
    layOf k n = ((2 * k + n) / (2 * n), none) := by
  rw [layOf_of_pos hk, if_neg h, if_neg h0]

end

/-- Every lay is one of 24 bits, and none is 0. -/
theorem layOf_range (delta : Int) (n : Nat) : 1 ≤ (layOf delta n).1 ∧ (layOf delta n).1 ≤ 16777215 := by
  rcases le_or_gt delta 0 with hd | hd
  · rw [layOf_of_nonpos hd]
    exact ⟨le_rfl, by decide⟩
  · obtain ⟨k, rfl⟩ := Int.eq_ofNat_of_zero_le hd.le
    rw [layOf_of_pos (by omega)]
    split
    case isTrue => exact ⟨by decide, le_rfl⟩
    case isFalse hshort =>
      split
      case isTrue => exact ⟨le_max_left _ _, max_le (by decide) (min_le_right _ _)⟩
      case isFalse h0 => exact ⟨Nat.one_le_iff_ne_zero.2 h0, not_lt.1 hshort⟩

/-- Settles O22: the quotient of R45 between its limits, and the three outcomes of the band run. -/
theorem layIsRoundedAndJudged : Obligations.LayIsRoundedAndJudged := by
  refine ⟨fun delta n hn _ => ⟨(layOf_range delta n).1, (layOf_range delta n).2, fun h => layOf_of_nonpos h n, ?_, ?_⟩,
    fun low high lay limit run _ => ⟨?_, ?_, ?_⟩⟩
  · intro hd hlow hhigh
    obtain ⟨k, rfl⟩ := Int.eq_ofNat_of_zero_le hd.le
    obtain ⟨hle, hlt⟩ := layQuotient_bounds (k := k) hn
    have hshort : ¬ topLay < (2 * k + n) / (2 * n) := by
      unfold topLay
      rw [Nat.lt_div_iff_mul_lt (by omega)]
      omega
    have hsome : (2 * k + n) / (2 * n) ≠ 0 := by
      have := Nat.div_pos (a := 2 * k + n) (b := 2 * n) (by omega) (by omega)
      omega
    rw [layOf_of_between (by omega) hshort hsome]
    exact ⟨rfl, by exact_mod_cast hle, by exact_mod_cast hlt⟩
  · intro hd hlong
    obtain ⟨k, rfl⟩ := Int.eq_ofNat_of_zero_le hd.le
    refine layOf_of_long (by omega) ?_
    unfold topLay
    rw [← Nat.succ_le_iff, Nat.le_div_iff_mul_le (by omega)]
    omega
  · exact fun hout hrun => nextBandRun_of_run (outOfBand_classOf.2 hout) (by omega)
  · exact fun hout hrun => nextBandRun_of_fault (outOfBand_classOf.2 hout) (by omega)
  · exact fun hlow hhigh => nextBandRun_of_within (by rw [outOfBand_classOf]; omega)

/-! ### The notices of RUNNING (R42, R43) -/

theorem State.twistNode_of {s : State} (hb : s.begun = true) (ht : s.settings.twist = true) : s.twistNode = true := by
  simp [State.twistNode, hb, ht]

/-- The node that the notice of entering RUNNING leaves (R42). -/
def windowsOpened (s : State) : State :=
  let s0 := s.take .twistRunningEntry
  (s0.withTwist { s.twist with
    spindles := Vector.ofFn (fun n => enteredSpindle (s.spindleSettings n) s.lineLength (s.spindle n)) }).emit
    (turnStarts s.settings ++ [.channelStartRequest 0 (intervalRequest .ms1 s.settings.stallPeriod .none)] ++ referenceAtEntry s0)

/-- The node that the notice of leaving RUNNING leaves (R43). -/
def windowsDropped (s : State) : State :=
  ((s.take .twistRunningExit).withTwist { s.twist with
    spindles := Vector.ofFn (fun n => leftSpindle (s.spindleSettings n) (s.spindle n)) }).emit
    [.channelStopRequest 0, .channelStopRequest 5]

section
variable {s : State}

theorem exec_twistRunningEntry (h : s.twistNode = true) : exec .twistRunningEntry s = .next (windowsOpened s) :=
  congrArg Host.Outcome.next (if_pos h)

theorem exec_twistRunningExit (h : s.twistNode = true) : exec .twistRunningExit s = .next (windowsDropped s) :=
  congrArg Host.Outcome.next (if_pos h)

variable (s)

theorem windowsOpened_spindle (n : Fin 4) :
    (windowsOpened s).spindle n = enteredSpindle s.settings.spindles[n] s.lineLength (s.spindle n) := by
  simp [windowsOpened, State.spindle, State.spindleSettings]

theorem windowsDropped_spindle (n : Fin 4) : (windowsDropped s).spindle n = leftSpindle s.settings.spindles[n] (s.spindle n) := by
  simp [windowsDropped, State.spindle, State.spindleSettings]

/-- A fitted spindle's turn channel is among those started (R41, R42). -/
theorem mem_turnStarts {g : Settings} {n : Fin 4} (h : g.spindles[n].fitted = true) :
    .channelStartRequest (turnChannel n) (turnRequest g.spindles[n]) ∈ turnStarts g :=
  List.mem_map.2 ⟨n, List.mem_filter.2 ⟨List.mem_finRange n, h⟩, rfl⟩

variable {s}

/-- An available reference starts with RUNNING where CH5 does not run (R42, R56). -/
theorem mem_referenceAtEntry {h : Nat} (hf : s.follows = true) (hh : s.twist.halfPeriod = some h) (ha : s.twist.available = true)
    (hr : s.referenceRuns = false) : startReference h ∈ referenceAtEntry s := by
  unfold referenceAtEntry
  rw [hh]
  dsimp only
  rw [hf, ha, hr]
  exact List.mem_singleton_self _

end

/-- Settles O23: each spindle by whether it is fitted, and each request by its place among those given. -/
theorem twistFollowsRunning : Obligations.TwistFollowsRunning := by
  intro s hb ht
  have hnode := State.twistNode_of hb ht
  refine ⟨⟨windowsOpened s, exec_twistRunningEntry hnode,
      (twistRunningEntry_only s).of_exec (exec_twistRunningEntry hnode), rfl, fun n hn => ?_, fun n hn => ?_, fun n hn => ?_, ?_,
      fun h hfollow hh hflow hlost hr => ?_⟩,
    ⟨windowsDropped s, exec_twistRunningExit hnode,
      (twistRunningExit_only s).of_exec (exec_twistRunningExit hnode), rfl, fun n hn => ?_, fun n hn => ?_, rfl⟩⟩
  · rw [windowsOpened_spindle, enteredSpindle, if_pos hn]
  · rw [windowsOpened_spindle, enteredSpindle, if_neg (Bool.eq_false_iff.1 hn)]
  · exact List.mem_append_right _ (List.mem_append_left _ (List.mem_append_left _ (mem_turnStarts hn)))
  · exact List.mem_append_right _ (List.mem_append_left _ (List.mem_append_right _ (List.mem_singleton_self _)))
  · have hruns : (s.take .twistRunningEntry).referenceRuns = false := (take_referenceKept rfl s).runs.trans hr
    have hfollows : s.follows = true := by simp [State.follows, hnode, hfollow]
    have havail : s.twist.available = true := by simp [Twist.available, hh, hflow, hlost]
    exact List.mem_append_right _ (List.mem_append_right _ (mem_referenceAtEntry hfollows hh havail hruns))
  · rw [windowsDropped_spindle, leftSpindle, if_pos hn]
  · rw [windowsDropped_spindle, leftSpindle, if_neg (Bool.eq_false_iff.1 hn)]

end Sys2Proof.Machine
end

section
/-! SUPPORT. The segment statistics handed over (R53, R95): the extremes of some values, an absent one taking no part, the totals of
the spindles, and the claim about the two requests. -/

namespace Sys2Proof.Machine

/-! ### Extremes of values that may be absent (R151, Table 3-6) -/

/-- A value is the first of some values by an order, and absent where every one is. -/
def FirstOf (le : Nat → Nat → Prop) (values : List (Option Nat)) : Option Nat → Prop
  | none => ∀ x ∈ values, x = none
  | some k => some k ∈ values ∧ ∀ l, some l ∈ values → le k l

section
variable {le : Nat → Nat → Prop} {values : List (Option Nat)}

/-- Picking the earlier of two at a time, an absent one taking no part, gives the first of all. -/
theorem foldl_firstOf {pick : Option Nat → Option Nat → Option Nat} (hle : ∀ k, le k k)
    (htrans : ∀ j k l, le j k → le k l → le j l)
    (hnone : ∀ o, pick none o = o) (hsome : ∀ k, pick (some k) none = some k)
    (hpick : ∀ j k, (pick (some j) (some k) = some j ∧ le j k) ∨ (pick (some j) (some k) = some k ∧ le k j))
    (values : List (Option Nat)) : FirstOf le values (values.foldl pick none) := by
  induction values using List.reverseRecOn with
  | nil => exact fun x hx => absurd hx List.not_mem_nil
  | append_singleton values x ih =>
    rw [List.foldl_append, List.foldl_cons, List.foldl_nil]
    generalize values.foldl pick none = first at ih
    cases first with
    | none =>
      have absent {o : Option Nat} (ho : o ∈ values ++ [x]) : o = none ∨ o = x :=
        (List.mem_append.1 ho).imp (ih o) List.mem_singleton.1
      rw [hnone]
      cases x with
      | none => exact fun o ho => (absent ho).elim id id
      | some k =>
        refine ⟨by simp, fun l hl => ?_⟩
        obtain h | h := absent hl
        · cases h
        · cases h
          exact hle k
    | some j =>
      obtain ⟨hmem, hfirst⟩ := ih
      cases x with
      | none =>
        rw [hsome]
        refine ⟨List.mem_append_left _ hmem, fun l hl => hfirst l ?_⟩
        simpa using hl
      | some k =>
        have either {l : Nat} (hl : some l ∈ values ++ [some k]) : le j l ∨ l = k := by
          obtain h | h := List.mem_append.1 hl
          · exact .inl (hfirst l h)
          · exact .inr (by simpa using h)
        obtain ⟨h, hjk⟩ | ⟨h, hkj⟩ := hpick j k
        · rw [h]
          refine ⟨List.mem_append_left _ hmem, fun l hl => ?_⟩
          obtain h | rfl := either hl
          · exact h
          · exact hjk
        · rw [h]
          refine ⟨List.mem_append_right _ (List.mem_singleton_self _), fun l hl => ?_⟩
          obtain h | rfl := either hl
          · exact htrans _ _ _ hkj h
          · exact hle l

theorem FirstOf.none_iff {first : Option Nat} (h : FirstOf le values first) : first = none ↔ ∀ x ∈ values, x = none := by
  cases first with
  | none => exact ⟨fun _ => h, fun _ => rfl⟩
  | some k => exact ⟨fun hn => (nomatch hn), fun hall => hall _ h.1⟩

theorem FirstOf.some_iff (hanti : ∀ j k, le j k → le k j → j = k) {first : Option Nat} (h : FirstOf le values first) (k : Nat) :
    first = some k ↔ some k ∈ values ∧ ∀ l, some l ∈ values → le k l := by
  cases first with
  | none => exact ⟨fun hn => (nomatch hn), fun hk => nomatch h _ hk.1⟩
  | some j =>
    refine ⟨fun hj => Option.some.inj hj ▸ h, fun hk => ?_⟩
    rw [hanti j k (h.2 k hk.1) (hk.2 j h.1)]

end

/-- The first of what a field holds over a list, an absent one taking no part. -/
theorem FirstOf.map_iff {α : Type} {le : Nat → Nat → Prop} (hanti : ∀ j k, le j k → le k j → j = k) {l : List α}
    {f : α → Option Nat} {first : Option Nat} (h : FirstOf le (l.map f) first) : (first = none ↔ ∀ u ∈ l, f u = none) ∧
      ∀ k, first = some k ↔ (∃ u ∈ l, f u = some k) ∧ ∀ u ∈ l, ∀ j, f u = some j → le k j := by
  refine ⟨h.none_iff.trans List.forall_mem_map, fun k => (h.some_iff hanti k).trans (and_congr List.mem_map ?_)⟩
  exact ⟨fun hall u hu j hj => hall j (List.mem_map.2 ⟨u, hu, hj⟩), fun hall j hj => by
    obtain ⟨u, hu, hf⟩ := List.mem_map.1 hj
    exact hall u hu j hf⟩

theorem foldl_leastOf (values : List (Option Nat)) : FirstOf (· ≤ ·) values (values.foldl leastOf none) := by
  refine foldl_firstOf (pick := leastOf) le_refl (fun _ _ _ => le_trans) (fun o => by cases o <;> rfl) (fun _ => rfl)
    (fun j k => ?_) values
  exact (le_total j k).imp (fun h => ⟨congrArg some (min_eq_left h), h⟩) fun h => ⟨congrArg some (min_eq_right h), h⟩

theorem foldl_greatestOf (values : List (Option Nat)) : FirstOf (· ≥ ·) values (values.foldl greatestOf none) := by
  refine foldl_firstOf (le := (· ≥ ·)) (pick := greatestOf) le_refl (fun _ _ _ => ge_trans) (fun o => by cases o <;> rfl)
    (fun _ => rfl) (fun j k => ?_) values
  exact (le_total k j).imp (fun h => ⟨congrArg some (max_eq_left h), h⟩) fun h => ⟨congrArg some (max_eq_right h), h⟩

/-! ### The totals (R53, Table 3-6) -/

section
variable (l : List SpindleStats)

theorem totalsOf_minLay : FirstOf (· ≤ ·) (l.map SpindleStats.minLay) (totalsOf l).minLay := by
  have h := foldl_leastOf (l.map SpindleStats.minLay)
  rwa [List.foldl_map] at h

theorem totalsOf_maxLay : FirstOf (· ≥ ·) (l.map SpindleStats.maxLay) (totalsOf l).maxLay := by
  have h := foldl_greatestOf (l.map SpindleStats.maxLay)
  rwa [List.foldl_map] at h

end

/-! ### The requests -/

/-- The statistics of the fitted spindles, in spindle order. -/
def State.fittedStats (s : State) : List SpindleStats :=
  ((List.finRange 4).filter (fun n => s.settings.spindles[n].fitted)).map (fun n => (s.spindle n).stats)

/-- The node that has handed its twist totals over (R53). -/
def twistHandedOver (coil : BitVec 32) (s : State) : State :=
  ((s.take (.twistSegmentRequest coil)).withTwist { s.twist with
    spindles := s.twist.spindles.map (fun p => { p with stats := .zero }) }).emit
    [.segmentStatisticsAnswer coil (.twist (totalsOf s.fittedStats))]

section
variable {s : State} (coil : BitVec 32)

theorem exec_twistSegmentRequest (h : s.twistNode = true) :
    exec (.twistSegmentRequest coil) s = .next (twistHandedOver coil s) := congrArg Host.Outcome.next (if_pos h)

theorem twistHandedOver_spindle (s : State) (n : Fin 4) :
    (twistHandedOver coil s).spindle n = { s.spindle n with stats := .zero } := by
  simp [twistHandedOver, State.spindle]

/-- The node that has handed its knot counts over (R95). -/
def knotHandedOver (s : State) : State :=
  ((s.take (.knotSegmentRequest coil)).withKnot { s.knot with stats := zeroCounts, suspects := 0 }).emit
    [.segmentStatisticsAnswer coil (.knot s.knot.stats)]

theorem exec_knotSegmentRequest (h : s.knotNode = true) :
    exec (.knotSegmentRequest coil) s = .next (knotHandedOver coil s) := congrArg Host.Outcome.next (if_pos h)

end

/-- Settles O25: each request by the node that it leaves, with the extremes of the totals by their folds. -/
theorem segmentRequestsHandOverAndClear : Obligations.SegmentRequestsHandOverAndClear := by
  intro coil s hb
  refine ⟨fun ht => ?_, fun hk => ?_⟩
  · have hx := exec_twistSegmentRequest coil (State.twistNode_of hb ht)
    obtain ⟨hnoMin, hmin⟩ := (totalsOf_minLay s.fittedStats).map_iff fun _ _ => le_antisymm
    obtain ⟨hnoMax, hmax⟩ := (totalsOf_maxLay s.fittedStats).map_iff fun _ _ => ge_antisymm
    exact ⟨twistHandedOver coil s, hx, (twistSegmentRequest_only s coil).of_exec hx, rfl,
      fun n => twistHandedOver_spindle coil s n, totalsOf s.fittedStats, rfl, rfl, rfl, rfl, rfl, rfl, hnoMin, hmin, hnoMax,
      hmax⟩
  · have hx := exec_knotSegmentRequest coil (State.knotNode_of hb hk)
    exact ⟨knotHandedOver coil s, hx, (knotSegmentRequest_only s coil).of_exec hx, rfl, rfl⟩

end Sys2Proof.Machine
end

section
/-! SUPPORT. The pace source falling silent, lost and found (R57, R58): the follow record by the source condition, and the claim about
it. -/

namespace Sys2Proof.Machine

section
variable {s : State}

/-! ### The source falls silent, and the hold ends (R57) -/

/-- A source that is tracked is held for the pace hold. -/
def sourceHeld (s : State) : State :=
  let s1 := (s.take .paceSourceSilent).withTwist { s.twist with
    condition := .holding, holdLeft := some (s.settings.paceHold * 1000) }
  if s.settings.paceHold = 0 then s1.emit [.paceHoldExpiry] else s1

theorem exec_paceSourceSilent_tracking (hf : s.follows = true) (hc : s.twist.condition = .tracking) :
    exec .paceSourceSilent s = .next (sourceHeld s) := congrArg Host.Outcome.next (if_pos ⟨hf, hc⟩)

theorem exec_paceSourceSilent_other (hc : s.twist.condition ≠ .tracking) :
    exec .paceSourceSilent s = .next (s.take .paceSourceSilent) := congrArg Host.Outcome.next (if_neg fun h => hc h.2)

theorem sourceHeld_twist (s : State) : (sourceHeld s).twist =
    { s.twist with condition := .holding, holdLeft := some (s.settings.paceHold * 1000) } := by
  unfold sourceHeld
  dsimp only
  split <;> rfl

theorem sourceHeld_due_of_zero (h : s.settings.paceHold = 0) : .paceHoldExpiry ∈ (sourceHeld s).due := by
  unfold sourceHeld
  rw [if_pos h]
  exact List.mem_append_right _ (List.mem_singleton_self _)

/-- A source that is not heard within the hold is lost, before CH5 is steered. -/
def sourceLost (s : State) : State :=
  ((s.take .paceHoldExpiry).withTwist { s.twist with condition := .lost, flowing := false, holdLeft := none }).emit
    [.raiseCause .paceLost]

theorem exec_paceHoldExpiry_holding (hf : s.follows = true) (hc : s.twist.condition = .holding) :
    exec .paceHoldExpiry s = .next (steerReference false (sourceLost s)) := congrArg Host.Outcome.next (if_pos ⟨hf, hc⟩)

theorem exec_paceHoldExpiry_other (hc : s.twist.condition ≠ .holding) :
    exec .paceHoldExpiry s = .next (s.take .paceHoldExpiry) := congrArg Host.Outcome.next (if_neg fun h => hc h.2)

theorem sourceLost_referenceKept (s : State) : ReferenceKept s (sourceLost s) :=
  ((take_referenceKept rfl s).withTwist _).events (l := [.raiseCause .paceLost]) rfl rfl rfl

/-! ### The source is heard again (R58) -/

theorem exec_paceSourceHeard (hf : s.follows = true) :
    exec .paceSourceHeard s = .next (steerReference false (sourceRecovers (s.take .paceSourceHeard))) :=
  congrArg Host.Outcome.next (if_pos hf)

theorem steerReference_twist (renewed : Bool) (s : State) : (steerReference renewed s).twist = s.twist :=
  (steerReference_only s renewed).2 .twist (by decide)

end

section
variable {s : State} (hf : s.follows = true)
include hf

theorem paceSourceSilent_effect : Completes .paceSourceSilent s (fun t =>
    (s.twist.condition = .tracking →
      t.twist = { s.twist with condition := .holding, holdLeft := some (s.settings.paceHold * 1000) } ∧
      (s.settings.paceHold = 0 → .paceHoldExpiry ∈ t.due)) ∧
    (s.twist.condition ≠ .tracking → t.twist = s.twist)) := by
  by_cases hc : s.twist.condition = .tracking
  · exact ⟨sourceHeld s, exec_paceSourceSilent_tracking hf hc, fun _ => ⟨sourceHeld_twist s, sourceHeld_due_of_zero⟩,
      fun h => absurd hc h⟩
  · exact ⟨_, exec_paceSourceSilent_other hc, fun h => absurd h hc, fun _ => rfl⟩

theorem paceHoldExpiry_effect : Completes .paceHoldExpiry s (fun t =>
    (s.twist.condition = .holding →
      t.twist = { s.twist with condition := .lost, flowing := false, holdLeft := none } ∧ .raiseCause .paceLost ∈ t.due ∧
      (s.twistRunning = true → s.referenceRuns = true → .channelStopRequest 5 ∈ t.due)) ∧
    (s.twist.condition ≠ .holding → t.twist = s.twist)) := by
  by_cases hc : s.twist.condition = .holding
  · refine ⟨_, exec_paceHoldExpiry_holding hf hc, fun _ => ⟨steerReference_twist _ _, ?_, fun hr hs => ?_⟩, fun h => absurd hc h⟩
    · exact (steerReference_extends false _).2 (List.mem_append_right _ (List.mem_singleton_self _))
    · have hruns : (sourceLost s).referenceRuns = true := (sourceLost_referenceKept s).runs.trans hs
      have hunavailable : (sourceLost s).twist.available = false := by simp [sourceLost, Twist.available]
      exact steerReference_of_unavailable false (s := sourceLost s) hr hunavailable hruns
  · exact ⟨_, exec_paceHoldExpiry_other hc, fun h => absurd h hc, fun _ => rfl⟩

theorem paceSourceHeard_effect : Completes .paceSourceHeard s (fun t =>
    (s.twist.condition = .tracking → t.twist = s.twist) ∧
    (s.twist.condition ≠ .tracking → t.twist = { s.twist with condition := .tracking, holdLeft := none }) ∧
    (s.twist.condition = .lost → .clearCause .paceLost ∈ t.due)) := by
  have heard : (sourceRecovers (s.take .paceSourceHeard)).twist = { s.twist with
      condition := .tracking, holdLeft := if s.twist.condition = .tracking then s.twist.holdLeft else none } :=
    sourceRecovers_twist _
  refine ⟨_, exec_paceSourceHeard hf, fun hc => ?_, fun hc => ?_, fun hc => ?_⟩
  · rw [steerReference_twist, heard, if_pos hc, ← hc]
  · rw [steerReference_twist, heard, if_neg hc]
  · exact (steerReference_extends false _).2 (clear_mem_sourceRecovers hc)

end

/-- Settles O27: the three events by the source condition, within their frames. -/
theorem paceSourceIsHeldLostAndFound : Obligations.PaceSourceIsHeldLostAndFound := fun s hf =>
  ⟨(paceSourceSilent_only s).and (paceSourceSilent_effect hf), (paceHoldExpiry_only s).and (paceHoldExpiry_effect hf),
    (paceSourceHeard_only s).and (paceSourceHeard_effect hf)⟩

end Sys2Proof.Machine
end

section
/-! SUPPORT. The clear of a cause (R72, R115, R123, R128): the episode that its last group-wide cause leaves, the permit state that
the last reason leaves; and the claim about the commands that clear one. -/

namespace Sys2Proof.Machine

-- One declaration at a time, as in the frames: side by side these proofs ask for more threads than the memory limit allows.
set_option Elab.async false

/-! ### A cause taken out of a set -/

section
variable {c d : Cause} {causes : List Cause}

theorem mem_dropCause : d ∈ dropCause c causes ↔ d ≠ c ∧ d ∈ causes := by
  simp [dropCause, and_comm]

theorem dropCause_eq_nil_iff : dropCause c causes = [] ↔ ∀ d ∈ causes, d = c := by
  simp [dropCause, List.filter_eq_nil_iff]

end

/-! ### The episode once a group-wide cause has left (R128) -/

section
variable {s : State}

theorem episodeClear_of_none (hg : ∀ d ∈ s.prot.causes, d.groupWide = false) (he : s.prot.episode = .standing) :
    episodeClear s = (requestWithdrawal s).withProt { (requestWithdrawal s).prot with episode := .closing } := by
  have hany : ¬ s.prot.causes.any Cause.groupWide = true := by simpa using hg
  exact if_pos ⟨by simp [hany], he⟩

theorem episodeClear_of_kept (h : s.prot.episode ≠ .standing ∨ ∃ d ∈ s.prot.causes, d.groupWide = true) :
    episodeClear s = s := by
  refine if_neg fun ⟨hany, he⟩ => ?_
  obtain h | ⟨d, hd, hg⟩ := h
  · exact h he
  · simp [List.any_eq_true.2 ⟨d, hd, hg⟩] at hany

theorem episodeClear_extends (s : State) : Extends [.due, .prot] s (episodeClear s) :=
  .ite ⟨(requestWithdrawal_only s).step (withProt_only _ _), List.subset_append_left _ _⟩ (.refl _ s)

/-- The clear moves nothing of the protection record but the episode and the withdrawals outstanding. -/
theorem episodeClear_prot (s : State) : ∃ episode outstanding,
    (episodeClear s).prot = { s.prot with episode := episode, outstanding := outstanding } := by
  unfold episodeClear
  split <;> exact ⟨_, _, rfl⟩

end

/-! ### The last reason gone (R123) -/

section
variable {s : State}

theorem reasonCleared_of_kept (h : ¬ (s.prot.permit = .halted ∧ ¬ s.hasReason = true)) : reasonCleared s = s :=
  if_neg fun hl => h ⟨hl.1, by simpa using hl.2⟩

theorem reasonCleared_of_last (hp : s.prot.permit = .halted) (hr : ¬ s.hasReason = true) : reasonCleared s =
    if s.prot.eligible = false then setPermit .standby s
    else if s.prot.coilHold = true then s
    else setPermit .running s := by
  unfold reasonCleared
  rw [if_pos ⟨hp, by simp [hr]⟩]
  cases s.prot.eligible <;> rfl

theorem reasonCleared_extends (s : State) : Extends [.due, .prot] s (reasonCleared s) :=
  .ite (.ite (setPermit_extends _ s) (.ite (.refl _ s) (setPermit_extends _ s))) (.refl _ s)

/-- The last reason gone moves nothing of the protection record but the permit state and eligibility. -/
theorem reasonCleared_prot (s : State) : ∃ permit eligible,
    (reasonCleared s).prot = { s.prot with permit := permit, eligible := eligible } := by
  unfold reasonCleared
  split
  · split
    · exact ⟨_, _, rfl⟩
    · split <;> exact ⟨_, _, rfl⟩
  · exact ⟨_, _, rfl⟩

end

/-! ### Clearing a cause (R115) -/

section
variable (c : Cause) (s : State)

/-- The node with a cause out of its set, before that acts, and the sampler told of TENSION (R72). -/
def causeDropped : State :=
  (s.withProt { s.prot with causes := dropCause c s.prot.causes }).emit (clearNotices c)

/-- The node after the clear of a group-wide cause has acted on the episode, and of any other as it was dropped. -/
def causeWithdrawn : State := if c.groupWide then episodeClear (causeDropped c s) else causeDropped c s

theorem clear_of_absent (h : c ∉ s.prot.causes) : clear c s = s := if_neg (by simpa using h)

theorem clear_eq (h : c ∈ s.prot.causes) : clear c s = refreshAlarm (reasonCleared (causeWithdrawn c s)) :=
  if_pos (by simpa using h)

theorem causeDropped_extends : Extends [.due, .prot] s (causeDropped c s) :=
  ⟨(withProt_only s _).after (l := [.due, .prot]) (emit_only _ _).grow, List.subset_append_left _ _⟩

theorem causeWithdrawn_of_groupWide (h : c.groupWide = true) : causeWithdrawn c s = episodeClear (causeDropped c s) := if_pos h

theorem causeWithdrawn_of_own (h : c.groupWide = false) : causeWithdrawn c s = causeDropped c s := if_neg (by simp [h])

theorem causeWithdrawn_extends : Extends [.due, .prot] (causeDropped c s) (causeWithdrawn c s) :=
  .ite (episodeClear_extends _) (.refl _ _)

theorem causeWithdrawn_prot : ∃ episode outstanding, (causeWithdrawn c s).prot =
    { s.prot with causes := dropCause c s.prot.causes, episode := episode, outstanding := outstanding } := by
  unfold causeWithdrawn
  split
  · exact episodeClear_prot (causeDropped c s)
  · exact ⟨_, _, rfl⟩

/-- With the cause out of the set no reason is left exactly where it was the only one and the halt table is empty. -/
theorem not_hasReason_causeWithdrawn :
    ¬ (causeWithdrawn c s).hasReason = true ↔ (∀ d ∈ s.prot.causes, d = c) ∧ s.prot.table = [] := by
  obtain ⟨_, _, hp⟩ := causeWithdrawn_prot c s
  rw [State.hasReason_iff, hp]
  simp only [ne_eq, not_or, not_not, dropCause_eq_nil_iff]

end

/-! ### What the clear of a cause leaves -/

section
variable {c : Cause} {s : State} (h : c ∈ s.prot.causes)
include h

theorem clear_due : (clear c s).due = (reasonCleared (causeWithdrawn c s)).due := by
  rw [clear_eq c s h, refreshAlarm_due]

theorem causeWithdrawn_due_subset_clear : (causeWithdrawn c s).due ⊆ (clear c s).due := by
  rw [clear_due h]
  exact (reasonCleared_extends _).2

/-- The lamp apart, the protection record is that of the last reason gone. -/
theorem clear_prot : ∃ lamp, (clear c s).prot = { (reasonCleared (causeWithdrawn c s)).prot with lamp := lamp } := by
  rw [clear_eq c s h]
  exact refreshAlarm_prot _

theorem clear_prot_frame : ∃ permit eligible lamp, (clear c s).prot =
    { (causeWithdrawn c s).prot with permit := permit, eligible := eligible, lamp := lamp } := by
  obtain ⟨lamp, hl⟩ := clear_prot h
  obtain ⟨permit, eligible, hr⟩ := reasonCleared_prot (causeWithdrawn c s)
  exact ⟨permit, eligible, lamp, by rw [hl, hr]⟩

/-- The cause leaves the set; the halt table, the serial and the coil hold stay (R115). -/
theorem clear_causes : (∀ d : Cause, d ∈ (clear c s).prot.causes ↔ d ≠ c ∧ d ∈ s.prot.causes) ∧
    (clear c s).prot.table = s.prot.table ∧ (clear c s).prot.serial = s.prot.serial ∧
    (clear c s).prot.coilHold = s.prot.coilHold := by
  obtain ⟨_, _, _, hp⟩ := clear_prot_frame h
  obtain ⟨_, _, hw⟩ := causeWithdrawn_prot c s
  rw [hp, hw]
  exact ⟨fun d => mem_dropCause, rfl, rfl, rfl⟩

/-- The sampler has its notice of the clear of TENSION (R72). -/
theorem clear_tensionNotice (hc : c = .tension) : .tensionClearNotice ∈ (clear c s).due := by
  refine causeWithdrawn_due_subset_clear h ((causeWithdrawn_extends c s).2 (List.mem_append_right _ ?_))
  rw [clearNotices, if_pos hc]
  exact List.mem_singleton_self _

/-- With the last group-wide cause gone a STANDING episode closes and asks for the withdrawal of its HALT (R128). -/
theorem clear_closes (hg : c.groupWide = true) (he : s.prot.episode = .standing)
    (hlast : ∀ d ∈ s.prot.causes, d.groupWide = true → d = c) :
    (clear c s).prot.episode = .closing ∧ (clear c s).prot.outstanding = s.prot.outstanding + 1 ∧
      .withdrawRequest (BitVec.ofNat 8 s.prot.serial) ∈ (clear c s).due := by
  have hnone : ∀ d ∈ (causeDropped c s).prot.causes, d.groupWide = false := fun d hd => by
    obtain ⟨hne, hmem⟩ := mem_dropCause.1 hd
    exact Bool.eq_false_iff.2 fun hw => hne (hlast d hmem hw)
  have hw := (causeWithdrawn_of_groupWide c s hg).trans (episodeClear_of_none hnone he)
  obtain ⟨_, _, _, hp⟩ := clear_prot_frame h
  refine ⟨?_, ?_, causeWithdrawn_due_subset_clear h ?_⟩
  · rw [hp, hw]
    rfl
  · rw [hp, hw]
    rfl
  · rw [hw]
    exact List.mem_append_right _ (List.mem_singleton_self _)

/-- Otherwise the episode stays, as it does where another group-wide cause is left. -/
theorem clear_keeps_episode
    (hk : c.groupWide = false ∨ s.prot.episode ≠ .standing ∨ ∃ d ∈ s.prot.causes, d ≠ c ∧ d.groupWide = true) :
    (clear c s).prot.episode = s.prot.episode ∧ (clear c s).prot.outstanding = s.prot.outstanding := by
  have hw : causeWithdrawn c s = causeDropped c s := by
    cases hg : c.groupWide with
    | false => exact causeWithdrawn_of_own c s hg
    | true =>
      refine (causeWithdrawn_of_groupWide c s hg).trans (episodeClear_of_kept ?_)
      refine (hk.resolve_left (by simp [hg])).imp id ?_
      rintro ⟨d, hd, hne, hdg⟩
      exact ⟨d, mem_dropCause.2 ⟨hne, hd⟩, hdg⟩
  obtain ⟨_, _, _, hp⟩ := clear_prot_frame h
  rw [hp, hw]
  exact ⟨rfl, rfl⟩

/-- Where the clear takes the permit state (R123): the last reason gone in HALTED, by eligibility and the coil hold. -/
theorem clear_permit :
    let t := clear c s
    let last := s.prot.permit = .halted ∧ (∀ d ∈ s.prot.causes, d = c) ∧ s.prot.table = []
    (¬ last → t.prot.permit = s.prot.permit ∧ t.prot.eligible = s.prot.eligible) ∧
      (last → s.prot.eligible = false → t.prot.permit = .standby) ∧
      (last → s.prot.eligible = true → s.prot.coilHold = false → t.prot.permit = .running ∧ .coilRunningEntry ∈ t.due) ∧
      (last → s.prot.eligible = true → s.prot.coilHold = true → t.prot.permit = .halted) := by
  intro t last
  obtain ⟨lamp, hp⟩ := clear_prot h
  have hd := clear_due h
  obtain ⟨_, _, hw⟩ := causeWithdrawn_prot c s
  have hpermit : (causeWithdrawn c s).prot.permit = s.prot.permit := by rw [hw]
  have heligible : (causeWithdrawn c s).prot.eligible = s.prot.eligible := by rw [hw]
  have hhold : (causeWithdrawn c s).prot.coilHold = s.prot.coilHold := by rw [hw]
  have hlast : (causeWithdrawn c s).prot.permit = .halted ∧ ¬ (causeWithdrawn c s).hasReason = true ↔ last := by
    rw [hpermit, not_hasReason_causeWithdrawn]
  have hgone (hl : last) := reasonCleared_of_last (hlast.2 hl).1 (hlast.2 hl).2
  rw [heligible, hhold] at hgone
  dsimp only [t]
  rw [hp, hd]
  refine ⟨fun hl => ?_, fun hl he => ?_, fun hl he hc => ?_, fun hl he hc => ?_⟩
  · rw [reasonCleared_of_kept (mt hlast.1 hl)]
    exact ⟨hpermit, heligible⟩
  · rw [hgone hl, if_pos he]
    rfl
  · rw [hgone hl, if_neg (by simp [he]), if_neg (by simp [hc]), setPermit_due, if_pos rfl]
    exact ⟨rfl, by simp [entryNotices]⟩
  · rw [hgone hl, if_neg (by simp [he]), if_pos hc]
    exact hpermit.trans hl.1

end

theorem exec_clear {c : Cause} {e : Instr} (s : State)
    (h : e = .clearCause c ∨ (e = .tensionAnswer true ∧ c = .tension) ∨ (e = .cutEndedAnswer true ∧ c = .cutter) ∨
      (e = .heldBackAnswer false ∧ c = .store)) : exec e s = .next (clear c (s.take e)) := by
  rcases h with rfl | ⟨rfl, rfl⟩ | ⟨rfl, rfl⟩ | ⟨rfl, rfl⟩ <;> rfl

theorem exec_denied {e : Instr} (s : State)
    (h : e = .tensionAnswer false ∨ e = .cutEndedAnswer false ∨ e = .heldBackAnswer true) : exec e s = .next (s.take e) := by
  rcases h with rfl | rfl | rfl <;> rfl

/-- Settles O41: an answer that denies is only taken; the four others are one clear, of which each clause is a lemma. -/
theorem clearedCausesActInOrder : Obligations.ClearedCausesActInOrder := by
  refine fun c e s => ⟨fun he => ⟨s.take e, exec_denied s he, take_only s e, rfl⟩, fun he => ?_⟩
  refine ⟨clear c (s.take e), exec_clear s he, (take_only s e).after (clear_only _ c), fun hc => ?_, fun hc => ?_⟩
  · rw [clear_of_absent c (s.take e) hc]
    exact ⟨rfl, rfl⟩
  · replace hc : c ∈ (s.take e).prot.causes := hc
    obtain ⟨hcauses, htable, hserial, hhold⟩ := clear_causes hc
    exact ⟨hcauses, htable, hserial, hhold, clear_tensionNotice hc, clear_closes hc, clear_keeps_episode hc, clear_permit hc⟩

end Sys2Proof.Machine
end

section
/-! SUPPORT. The sense sampler's rules (4.1 to 4.4): which entry is converted next and what its input reads (R63, R64, R66), a result
judged by its window (R62, R67 to R69), the notices (R70 to R72); and the claims about scans, conversions and notices. -/

namespace Sys2Proof.Machine

-- One declaration at a time, as in the frames: side by side these proofs ask for more threads than the memory limit allows.
set_option Elab.async false

/-! ### Windows and the entries that may be converted (R61, R62, R66) -/

/-- A result lies in an entry's window (Table 4-3). -/
def ScanSettings.Inside (g : ScanSettings) (result : Nat) : Prop :=
  match g.mode with
  | .off => True
  | .low => g.lowLimit ≤ result
  | .high => result ≤ g.highLimit
  | .band => g.lowLimit ≤ result ∧ result ≤ g.highLimit

theorem inWindow_iff (g : ScanSettings) (result : Nat) : inWindow g result = true ↔ g.Inside result := by
  unfold inWindow ScanSettings.Inside
  cases g.mode <;> simp

section
variable {l : List Part} {s t : State} (h : Only l s t)
include h

theorem Only.sampler_eq (hl : Part.sampler ∉ l := by decide) : t.sampler = s.sampler := h.2 .sampler hl

/-- Which entries may be converted hangs on the settings and the taken sector alone. -/
theorem Only.convertible_eq (n : Fin 8) (hg : Part.settings ∉ l := by decide) (hk : Part.knot ∉ l := by decide) :
    t.convertible n = s.convertible n := by
  simp only [State.convertible, h.settings_eq hg, h.knot_eq hk]

end

theorem convertible_iff {s : State} {n : Fin 8} : s.convertible n = true ↔ s.settings.scan[n].mode ≠ .off ∧
    ¬ (s.settings.knot = true ∧ s.settings.scan[n].blankInTie = true ∧
      (s.knot.takenSector = some .s0 ∨ s.knot.takenSector = some .s1)) := by
  simp only [State.convertible, inTie, Bool.and_eq_true, Bool.or_eq_true, Bool.not_eq_true', ← Bool.not_eq_true, bne_iff_ne,
    beq_iff_eq, and_assoc]

/-! ### What an input reads (R64) -/

section
variable {level : Int}

theorem resultOf_of_low (h : level ≤ 0) : resultOf level = 0 := if_pos h

theorem resultOf_of_high (h : 4095000 ≤ level) : resultOf level = 4095 := by
  unfold resultOf topVoltage
  rw [if_neg (by omega), if_pos (by omega)]

/-- Between the ends the result is one of the two next to the voltage, whichever the node takes (log entry 40). -/
theorem resultOf_between (h0 : 0 < level) (h1 : level < 4095000) :
    (resultOf level).toNat = level.toNat / 1000 ∨
      level.toNat % 1000 ≠ 0 ∧ (resultOf level).toNat = level.toNat / 1000 + 1 := by
  unfold resultOf topVoltage
  rw [if_neg (by omega), if_neg (by omega)]
  dsimp only
  split
  next hup => exact .inr ⟨hup.1, (BitVec.toNat_ofNat _ _).trans (Nat.mod_eq_of_lt (by omega))⟩
  next => exact .inl ((BitVec.toNat_ofNat _ _).trans (Nat.mod_eq_of_lt (by omega)))

/-- A voltage from 0 V to 10 V is less than one result away from what it reads as. -/
theorem resultOf_near (h0 : 0 ≤ level) (h1 : level ≤ 4095000) :
    level - 1000 < 1000 * ((resultOf level).toNat : Int) ∧ 1000 * ((resultOf level).toNat : Int) < level + 1000 := by
  obtain rfl | hpos := h0.eq_or_lt
  · rw [resultOf_of_low le_rfl]
    decide
  · obtain rfl | htop := h1.eq_or_lt
    · rw [resultOf_of_high le_rfl]
      decide
    · have := resultOf_between hpos htop
      omega

end

/-! ### The next conversion (R63, R64) -/

section
variable {first : Nat} {s : State}

theorem convertFrom_of_none (h : ∀ n : Fin 8, first ≤ n.val → ¬ s.convertible n = true) :
    convertFrom first s = s.withSampler { s.sampler with position := none, conversionLeft := none } := by
  have hfind : (List.finRange 8).find? (fun n => first ≤ n.val && s.convertible n) = none := by
    rw [← Fin.find?_eq_find?_finRange, Fin.find?_eq_none_iff]
    exact fun n => by simpa using h n
  rw [convertFrom, hfind]

theorem convertFrom_of_first {n : Fin 8} (hn : first ≤ n.val) (hc : s.convertible n = true)
    (hfirst : ∀ m : Fin 8, first ≤ m.val → m < n → ¬ s.convertible m = true) :
    convertFrom first s = s.withSampler { s.sampler with
      position := some n
      conversionLeft := some 125
      sampled := resultOf (s.pins.ai.toList.getD s.settings.scan[n].input 0) } := by
  have hfind : (List.finRange 8).find? (fun n => first ≤ n.val && s.convertible n) = some n := by
    rw [← Fin.find?_eq_find?_finRange, Fin.find?_eq_some_iff]
    exact ⟨by simp [hn, hc], fun m hm => by simpa using fun hk => hfirst m hk hm⟩
  rw [convertFrom, hfind]
  rfl

/-- The search for the next entry leaves the records of the entries, the overruns and the running view. -/
theorem convertFrom_keeps (first : Nat) (s : State) : (convertFrom first s).sampler.entries = s.sampler.entries ∧
    (convertFrom first s).sampler.overruns = s.sampler.overruns ∧
    (convertFrom first s).sampler.runningView = s.sampler.runningView := by
  unfold convertFrom
  split <;> exact ⟨rfl, rfl, rfl⟩

end

/-! ### A result judged (R62, R67 to R69) -/

section
variable {g : ScanSettings} {r : Nat} {e : ScanEntry}

theorem filtered_of_inside (h : g.Inside r) :
    filtered g r e = ({ e with result := r, filterRun := 0, tripped := false }, false) :=
  if_pos ((inWindow_iff g r).2 h)

theorem filtered_of_tripped (h : ¬ g.Inside r) (ht : e.tripped = true) : filtered g r e = ({ e with result := r }, false) := by
  rw [filtered, if_neg (mt (inWindow_iff g r).1 h), if_pos ht]

theorem filtered_of_below (h : ¬ g.Inside r) (ht : e.tripped = false) (hf : e.filterRun + 1 < g.filterCount) :
    filtered g r e = ({ e with result := r, filterRun := e.filterRun + 1 }, false) := by
  rw [filtered, if_neg (mt (inWindow_iff g r).1 h), if_neg (by simp [ht]), if_neg (by omega)]

/-- An entry's record as it trips (R67, R68). -/
def ScanEntry.trip (e : ScanEntry) (r : Nat) : ScanEntry :=
  { e with
    result := r
    filterRun := e.filterRun + 1
    tripped := true
    tripCount := holdInc 65535 e.tripCount
    tripValue := if e.locked = true then e.tripValue else some r }

theorem filtered_of_trip (h : ¬ g.Inside r) (ht : e.tripped = false) (hf : g.filterCount ≤ e.filterRun + 1) :
    filtered g r e = (e.trip r, true) := by
  rw [filtered, if_neg (mt (inWindow_iff g r).1 h), if_neg (by simp [ht]), if_pos hf]
  rfl

end

section
variable {n : Fin 8} {r : Nat} {s : State}

/-- Whether a trip of an entry acts: PROTECT in the running view (R69). -/
def State.TripActs (s : State) (n : Fin 8) : Prop := s.settings.scan[n].protect = true ∧ s.sampler.runningView = true

theorem tripActs_iff : (true && s.settings.scan[n].protect && s.sampler.runningView) = true ↔ s.TripActs n := by
  rw [Bool.true_and]
  exact Bool.and_eq_true_iff

theorem takeResult_of_quiet {e : ScanEntry} (h : filtered s.settings.scan[n] r s.sampler.entries[n] = (e, false)) :
    takeResult n r s = s.setEntryRecord n e := by
  rw [takeResult, h]
  rfl

theorem takeResult_of_lock {e : ScanEntry} (h : filtered s.settings.scan[n] r s.sampler.entries[n] = (e, true))
    (ha : s.TripActs n) : takeResult n r s = (s.setEntryRecord n { e with locked := true }).emit [.raiseCause .tension] := by
  rw [takeResult, h]
  exact if_pos (tripActs_iff.2 ha)

theorem takeResult_of_warn {e : ScanEntry} (h : filtered s.settings.scan[n] r s.sampler.entries[n] = (e, true))
    (ha : ¬ s.TripActs n) : takeResult n r s = s.setEntryRecord n e := by
  rw [takeResult, h]
  exact if_neg (mt tripActs_iff.1 ha)

/-- A result leaves the overruns, the running view and the records of the other entries. -/
theorem takeResult_keeps (n : Fin 8) (r : Nat) (s : State) : (∀ m, m ≠ n →
      (takeResult n r s).sampler.entries[m] = s.sampler.entries[m]) ∧
    (takeResult n r s).sampler.overruns = s.sampler.overruns ∧
    (takeResult n r s).sampler.runningView = s.sampler.runningView := by
  have hkeep (e : ScanEntry) (m : Fin 8) (hm : m ≠ n) : (s.setEntryRecord n e).sampler.entries[m] = s.sampler.entries[m] := by
    rw [State.setEntryRecord_entries, if_neg hm.symm]
  unfold takeResult
  dsimp only
  split <;> exact ⟨hkeep _, rfl, rfl⟩

/-- The record of an entry whose result does not trip it. -/
theorem takeResult_entry_of_quiet {e : ScanEntry} (h : filtered s.settings.scan[n] r s.sampler.entries[n] = (e, false)) :
    (takeResult n r s).sampler.entries[n] = e := by
  rw [takeResult_of_quiet h, State.setEntryRecord_entries, if_pos rfl]

/-- A trip that acts locks its entry and asks for TENSION; one that does not leaves the lock (R69). -/
theorem takeResult_trips {e : ScanEntry} (h : filtered s.settings.scan[n] r s.sampler.entries[n] = (e, true)) :
    { (takeResult n r s).sampler.entries[n] with locked := e.locked } = e ∧
      (s.TripActs n → (takeResult n r s).sampler.entries[n].locked = true ∧ .raiseCause .tension ∈ (takeResult n r s).due) ∧
      (¬ s.TripActs n → (takeResult n r s).sampler.entries[n].locked = e.locked) := by
  by_cases ha : s.TripActs n
  · rw [takeResult_of_lock h ha, State.emit_sampler, State.setEntryRecord_entries, if_pos rfl]
    exact ⟨rfl, fun _ => ⟨rfl, List.mem_append_right _ (List.mem_singleton_self _)⟩, fun hn => absurd ha hn⟩
  · rw [takeResult_of_warn h ha, State.setEntryRecord_entries, if_pos rfl]
    exact ⟨rfl, fun hn => absurd hn ha, fun _ => rfl⟩

end

/-! ### A conversion that completes -/

theorem exec_conversionComplete {n : Fin 8} {s : State} (result : BitVec 12) (h : s.sampler.position = some n) :
    exec (.conversionComplete result) s =
      .next (convertFrom (n.val + 1) (takeResult n result.toNat (s.takeLike isConversion))) := by
  have hpos : (s.takeLike isConversion).sampler.position = some n := h
  change execConversionComplete result s = _
  unfold execConversionComplete
  dsimp only
  rw [hpos]

/-- Settles O29: the result by the four outcomes of its filter, then the search for the next entry. -/
theorem conversionFiltersAndTrips : Obligations.ConversionFiltersAndTrips := by
  intro result n s hpos starts inside
  let s0 := s.takeLike isConversion
  let u := takeResult n result.toNat s0
  let t := convertFrom (n.val + 1) u
  have hx : exec (.conversionComplete result) s = .next t := exec_conversionComplete result hpos
  obtain ⟨hothers, hover, hview⟩ := takeResult_keeps n result.toNat s0
  obtain ⟨hentries, hover', hview'⟩ : t.sampler.entries = u.sampler.entries ∧ t.sampler.overruns = u.sampler.overruns ∧
    t.sampler.runningView = u.sampler.runningView := convertFrom_keeps (n.val + 1) u
  have hdue : t.due = u.due := (convertFrom_only u (n.val + 1)).due_eq
  have hstarts (m : Fin 8) : u.convertible m = true ↔ starts m := by
    rw [((takeLike_only s isConversion).after (takeResult_only s0 n result.toNat)).convertible_eq m]
    exact convertible_iff
  have hquiet {e : ScanEntry} (h : filtered s0.settings.scan[n] result.toNat s0.sampler.entries[n] = (e, false)) :
      t.sampler.entries[n] = e := by
    rw [hentries]
    exact takeResult_entry_of_quiet h
  refine ⟨t, hx, (conversionComplete_only s result).of_exec hx, fun m hm => ?_, hover'.trans hover, hview'.trans hview,
    fun hi => hquiet (filtered_of_inside hi), fun hi htrip => hquiet (filtered_of_tripped hi htrip),
    fun hi htrip hf => hquiet (filtered_of_below hi htrip hf), fun hi htrip hf => ?_, fun m hnm hm hfirst => ?_, fun hnone => ?_⟩
  · rw [hentries]
    exact hothers m hm
  · rw [hentries, hdue]
    exact takeResult_trips (s := s0) (filtered_of_trip hi htrip hf)
  · have hc : t = _ := convertFrom_of_first (first := n.val + 1) (s := u) (n := m) hnm ((hstarts m).2 hm)
      fun k hnk hkm => mt (hstarts k).1 (hfirst k hnk hkm)
    rw [hc]
    exact ⟨rfl, rfl⟩
  · have hc : t = _ := convertFrom_of_none (first := n.val + 1) (s := u) fun m hnm => mt (hstarts m).1 (hnone m hnm)
    rw [hc]
    exact ⟨rfl, rfl⟩

/-! ### A scan that is due (R63, R65) -/

section
variable {s : State}

/-- The node as a scan finds it: the expiry of CH6 given, or taken here (log entry 14). -/
def scanReady (s : State) : State := takeExpiry (s.due.contains .scanStart) 6 .interval (s.take .scanStart)

theorem scanReady_only (s : State) : Only [.due, .channels] s (scanReady s) :=
  (take_only s _).after (takeExpiry_only _ _ _ _) (by decide)

theorem scanReady_channel_ne {j : Fin 8} (h : j ≠ 6) : (scanReady s).channel j = s.channel j := takeExpiry_channel_ne _ _ _ h

theorem exec_scanStart (hb : s.begun = true) : exec .scanStart s = .next (if s.sampler.position.isSome then
    (scanReady s).withSampler { s.sampler with overruns := holdInc 65535 s.sampler.overruns }
    else convertFrom 0 (scanReady s)) := by
  have hb0 : (scanReady s).begun = true := (scanReady_only s).begun_eq.trans hb
  rw [← (scanReady_only s).sampler_eq]
  exact congrArg Host.Outcome.next (if_neg (c := (!(scanReady s).begun) = true) (by simp [hb0]))

theorem exec_scanStart_scanning (hb : s.begun = true) (h : s.sampler.position ≠ none) : exec .scanStart s =
    .next ((scanReady s).withSampler { s.sampler with overruns := holdInc 65535 s.sampler.overruns }) := by
  rw [exec_scanStart hb, if_pos (Option.isSome_iff_ne_none.2 h)]

theorem exec_scanStart_idle (hb : s.begun = true) (h : s.sampler.position = none) :
    exec .scanStart s = .next (convertFrom 0 (scanReady s)) := by
  rw [exec_scanStart hb, if_neg (by simp [h])]

/-- A scan that finds another still running counts an overrun; one that does not converts its first entry, or ends. -/
theorem scanStart_effect (hb : s.begun = true) : Completes .scanStart s (fun t =>
    (∀ j : Fin 8, j ≠ 6 → t.channel j = s.channel j) ∧
    (s.sampler.position ≠ none → t.sampler = { s.sampler with overruns := holdInc 65535 s.sampler.overruns }) ∧
    (s.sampler.position = none → (∀ n, ¬ s.convertible n = true) → t.sampler = { s.sampler with conversionLeft := none }) ∧
    ∀ n, s.sampler.position = none → s.convertible n = true → (∀ m, m < n → ¬ s.convertible m = true) →
      t.sampler = { s.sampler with
        position := some n
        conversionLeft := some 125
        sampled := resultOf (s.pins.ai.toList.getD s.settings.scan[n].input 0) }) := by
  have h0 := scanReady_only s
  by_cases h : s.sampler.position = none
  · refine ⟨_, exec_scanStart_idle hb h, fun j hj => ?_, fun hn => absurd h hn, fun _ hnone => ?_, fun n _ hn hfirst => ?_⟩
    · exact ((convertFrom_only _ 0).channel_eq j).trans (scanReady_channel_ne hj)
    · rw [convertFrom_of_none fun n _ => by rw [h0.convertible_eq n]; exact hnone n, State.withSampler_sampler,
        h0.sampler_eq, ← h]
    · rw [convertFrom_of_first (Nat.zero_le _) (by rw [h0.convertible_eq n]; exact hn)
        fun m _ hm => by rw [h0.convertible_eq m]; exact hfirst m hm, State.withSampler_sampler, h0.sampler_eq, h0.pins_eq,
        h0.settings_eq]
  · exact ⟨_, exec_scanStart_scanning hb h, fun j hj => scanReady_channel_ne hj, fun _ => rfl, fun hn => absurd hn h,
      fun n hn => absurd hn h⟩

end

/-! ### The notices (R70 to R72) -/

section
variable {s : State}

theorem exec_samplerRunningEntry (hb : s.begun = true) : exec .samplerRunningEntry s =
    .next ((s.take .samplerRunningEntry).withSampler { s.sampler with
      runningView := true
      entries := Vector.ofFn (fun n : Fin 8 => enteredEntry s.settings.scan[n] s.sampler.entries[n]) }) :=
  congrArg Host.Outcome.next (if_pos hb)

theorem exec_samplerRunningExit (hb : s.begun = true) : exec .samplerRunningExit s =
    .next ((s.take .samplerRunningExit).withSampler { s.sampler with runningView := false }) :=
  congrArg Host.Outcome.next (if_pos hb)

theorem exec_tensionClearQuestion (hb : s.begun = true) : exec .tensionClearQuestion s =
    .next ((s.take .tensionClearQuestion).emit [.tensionAnswer s.tensionMayClear]) :=
  congrArg Host.Outcome.next (if_pos hb)

/-- TENSION may be cleared exactly when the last result of every locked entry lies in its window (R71). -/
theorem tensionMayClear_iff : s.tensionMayClear = true ↔ ∀ n : Fin 8, s.sampler.entries[n].locked = true →
    s.settings.scan[n].Inside s.sampler.entries[n].result := by
  simp only [State.tensionMayClear, List.all_eq_true, List.mem_finRange, true_imp_iff, ← inWindow_iff]
  refine forall_congr' fun n => ?_
  cases s.sampler.entries[n].locked <;> simp

end

/-- Settles O28: a scan by what it finds, and each notice by the node that it leaves. -/
theorem samplerScansAndTakesItsNotices : Obligations.SamplerScansAndTakesItsNotices := by
  intro s hb starts inside
  have hstarts (n : Fin 8) : s.convertible n = true ↔ starts n := convertible_iff
  refine ⟨?_, ?_, ?_, ?_, ?_⟩
  · refine ((scanStart_only s).and (scanStart_effect hb)).imp fun t ⟨honly, hchannels, hover, hnone, hfirst⟩ =>
      ⟨honly, hchannels, hover, fun hp hn => hnone hp fun n => mt (hstarts n).1 (hn n), fun n hp hn hlt => ?_⟩
    have ht := hfirst n hp ((hstarts n).2 hn) fun m hm => mt (hstarts m).1 (hlt m hm)
    have hsampled := congrArg Sampler.sampled ht
    rw [hsampled]
    exact ⟨ht, resultOf_of_low, resultOf_of_high, resultOf_near⟩
  · have hx := exec_samplerRunningEntry hb
    exact ⟨_, hx, (samplerRunningEntry_only s).of_exec hx, rfl, fun n => by simp [enteredEntry]⟩
  · have hx := exec_samplerRunningExit hb
    exact ⟨_, hx, (samplerRunningExit_only s).of_exec hx, rfl⟩
  · have hx := exec_tensionClearQuestion hb
    exact ⟨_, hx, (tensionClearQuestion_only s).of_exec hx, s.tensionMayClear, rfl, tensionMayClear_iff⟩
  · exact (tensionClearNotice_only s).and ⟨_, rfl, rfl, fun n => by simp⟩

end Sys2Proof.Machine
end

section
/-! SUPPORT. The sampling window (5.4): what a sample leaves of a head's run and TIGHT mark (R83, R84), the node as each event of
the window finds it, and the claim about the window's opening, its samples and its close. -/

namespace Sys2Proof.Machine

-- One declaration at a time, as in the frames: side by side these proofs ask for more threads than the memory limit allows.
set_option Elab.async false

/-! ### A head at a sample (R84) -/

section
variable {g : Settings} {lines : BitVec 32} {k : Knot} {h : Fin 32}

/-- Whether a sample may move a head's run: the head is fitted and not TIGHT. -/
def Knot.Watches (g : Settings) (k : Knot) (h : Fin 32) : Prop := g.fittedHeads.getLsbD h = true ∧ k.tight.getLsbD h = false

theorem headSample_of_unwatched (hw : ¬ k.Watches g h) : headSample g lines k h = (k.headRuns[h], k.tight.getLsbD h) :=
  if_pos (by simpa [Knot.Watches, ← Bool.not_eq_true, Decidable.imp_iff_not_or] using hw)

theorem headSample_of_watched (hw : k.Watches g h) : headSample g lines k h =
    (nextHeadRun (lines.getLsbD h) k.headRuns[h], decide (g.headFilter ≤ nextHeadRun (lines.getLsbD h) k.headRuns[h])) :=
  if_neg (by
    obtain ⟨hfit, htight⟩ := hw
    rw [hfit, htight]
    decide)

/-- An active line adds to the run, which reaches TIGHT at the head filter. -/
theorem headSample_of_active (hw : k.Watches g h) (hl : lines.getLsbD h = true) :
    headSample g lines k h = (k.headRuns[h] + 1, decide (g.headFilter ≤ k.headRuns[h] + 1)) := by
  rw [headSample_of_watched hw, hl]
  rfl

/-- A line that is not active ends the run, and with a head filter of 1 or more the head is not TIGHT. -/
theorem headSample_of_inactive (hf : 1 ≤ g.headFilter) (hw : k.Watches g h) (hl : lines.getLsbD h = false) :
    headSample g lines k h = (0, false) := by
  rw [headSample_of_watched hw, hl]
  exact Prod.ext rfl (decide_eq_false (Nat.not_le.2 hf))

theorem takeSample_headRuns : (takeSample g lines k).headRuns[h] = (headSample g lines k h).1 := by simp [takeSample]

theorem takeSample_tight : (takeSample g lines k).tight.getLsbD h = (headSample g lines k h).2 := headSet_getLsbD _ h

/-- A sample moves the heads watched and no other. -/
theorem takeSample_heads (hf : 1 ≤ g.headFilter) :
    (¬ k.Watches g h → (takeSample g lines k).headRuns[h] = k.headRuns[h] ∧
      (takeSample g lines k).tight.getLsbD h = k.tight.getLsbD h) ∧
    (k.Watches g h → lines.getLsbD h = false → (takeSample g lines k).headRuns[h] = 0 ∧
      (takeSample g lines k).tight.getLsbD h = false) ∧
    (k.Watches g h → lines.getLsbD h = true → (takeSample g lines k).headRuns[h] = k.headRuns[h] + 1 ∧
      ((takeSample g lines k).tight.getLsbD h = true ↔ g.headFilter ≤ k.headRuns[h] + 1)) := by
  rw [takeSample_headRuns, takeSample_tight]
  refine ⟨fun hw => ?_, fun hw hl => ?_, fun hw hl => ?_⟩
  · rw [headSample_of_unwatched hw]
    exact ⟨rfl, rfl⟩
  · rw [headSample_of_inactive hf hw hl]
    exact ⟨rfl, rfl⟩
  · rw [headSample_of_active hw hl]
    exact ⟨rfl, decide_eq_true_iff⟩

/-- The knot monitor as the window opens, before its first sample (R83). -/
def Knot.opening (k : Knot) : Knot :=
  { k with window := .opened, headRuns := Vector.replicate 32 0, tight := 0, samples := 0 }

theorem Knot.opening_headRuns : k.opening.headRuns[h] = 0 := by simp [Knot.opening]

theorem Knot.opening_tight : k.opening.tight.getLsbD h = false := BitVec.getLsbD_zero

theorem Knot.opening_watches : k.opening.Watches g h ↔ g.fittedHeads.getLsbD h = true := by
  simp only [Knot.Watches, Knot.opening_tight, and_true]

/-- The first sample begins the run of each fitted head that is active, which is TIGHT at once with a head filter of 1. -/
theorem takeSample_opening (hf : 1 ≤ g.headFilter) :
    ((takeSample g lines k.opening).headRuns[h] = if g.fittedHeads.getLsbD h = true ∧ lines.getLsbD h = true then 1 else 0) ∧
      ((takeSample g lines k.opening).tight.getLsbD h = true ↔
        g.fittedHeads.getLsbD h = true ∧ lines.getLsbD h = true ∧ g.headFilter = 1) := by
  obtain ⟨hother, hinactive, hactive⟩ := takeSample_heads (lines := lines) (k := k.opening) (h := h) hf
  simp only [Knot.opening_watches, Knot.opening_headRuns, Knot.opening_tight] at hother hinactive hactive
  by_cases hfit : g.fittedHeads.getLsbD h = true
  · cases hl : lines.getLsbD h with
    | false =>
      obtain ⟨hrun, htight⟩ := hinactive hfit hl
      simp only [hrun, htight, Bool.false_eq_true, false_and, and_false, if_false, and_self]
    | true =>
      obtain ⟨hrun, htight⟩ := hactive hfit hl
      simp only [hrun, htight, hfit, true_and, and_self, if_true]
      omega
  · obtain ⟨hrun, htight⟩ := hother hfit
    simp only [hrun, htight, hfit, Bool.false_eq_true, false_and, if_false, and_self]

end

/-! ### The events of the window (R83 to R85) -/

theorem Only.knotNode_eq {l : List Part} {s t : State} (h : Only l s t) (hg : Part.settings ∉ l := by decide)
    (hp : Part.prot ∉ l := by decide) : t.knotNode = s.knotNode := by
  unfold State.knotNode
  rw [h.begun_eq hp, h.settings_eq hg]

section
variable {s : State} {lines : BitVec 32}

/-- The node as the opening finds it: the lines shown, and the expiry of CH1 given, or taken here (log entry 14). -/
def openReady (lines : BitVec 32) (s : State) : State :=
  takeExpiry (s.due.any execWindowOpen.isOpening) 1 .delay
    ((showLines (.windowOpen lines) lines s).takeLike execWindowOpen.isOpening)

theorem openReady_only (lines : BitVec 32) (s : State) : Only [.due, .pins, .channels] s (openReady lines s) :=
  ((showLines_only s _ lines).grow.step (takeLike_only _ _)).step (takeExpiry_only _ _ _ _)

theorem openReady_channel_ne {j : Fin 8} (h : j ≠ 1) : (openReady lines s).channel j = s.channel j :=
  (takeExpiry_channel_ne _ _ _ h).trans ((showLines_only s _ lines).channel_eq j)

theorem exec_windowOpen (hn : s.knotNode = true) : exec (.windowOpen lines) s = .next (if s.knot.window = .pending
    then (openReady lines s).withKnot (takeSample s.settings lines s.knot.opening) else openReady lines s) := by
  have h0 := openReady_only lines s
  have hx : exec (.windowOpen lines) s = .next (if (openReady lines s).knotNode ∧ (openReady lines s).knot.window = .pending
    then (openReady lines s).withKnot (takeSample (openReady lines s).settings lines (openReady lines s).knot.opening)
    else openReady lines s) := rfl
  rw [hx, h0.knotNode_eq, h0.knot_eq, h0.settings_eq]
  simp only [hn, true_and]

/-- CH1 opens a PENDING window with its first sample; in another window state its event is not used. -/
theorem windowOpen_effect (hn : s.knotNode = true) : Completes (.windowOpen lines) s (fun t =>
    (∀ j : Fin 8, j ≠ 1 → t.channel j = s.channel j) ∧ (s.knot.window ≠ .pending → t.knot = s.knot) ∧
    (s.knot.window = .pending → t.knot = takeSample s.settings lines s.knot.opening)) := by
  refine ⟨_, exec_windowOpen hn, fun j hj => ?_, fun hw => ?_, fun hw => ?_⟩
  · split <;> exact openReady_channel_ne hj
  · rw [if_neg hw]
    exact (openReady_only lines s).knot_eq
  · rw [if_pos hw]
    rfl

/-- The node as a sample finds it: the lines shown, and the event taken. -/
def sampleReady (lines : BitVec 32) (s : State) : State :=
  (showLines (.knotSample lines) lines s).takeLike execKnotSample.isSample

theorem sampleReady_only (lines : BitVec 32) (s : State) : Only [.due, .pins] s (sampleReady lines s) :=
  (showLines_only s _ lines).grow.step (takeLike_only _ _)

theorem exec_knotSample (hn : s.knotNode = true) : exec (.knotSample lines) s = .next (if s.knot.window = .opened
    then (sampleReady lines s).withKnot (takeSample s.settings lines s.knot) else sampleReady lines s) := by
  have h0 := sampleReady_only lines s
  have hx : exec (.knotSample lines) s = .next (if (sampleReady lines s).knotNode ∧ (sampleReady lines s).knot.window = .opened
    then (sampleReady lines s).withKnot (takeSample (sampleReady lines s).settings lines (sampleReady lines s).knot)
    else sampleReady lines s) := rfl
  rw [hx, h0.knotNode_eq, h0.knot_eq, h0.settings_eq]
  simp only [hn, true_and]

/-- A sample is taken while the window is OPEN; in another window state it is not used. -/
theorem knotSample_effect (hn : s.knotNode = true) : Completes (.knotSample lines) s (fun t =>
    (s.knot.window ≠ .opened → t.knot = s.knot) ∧
    (s.knot.window = .opened → t.knot = takeSample s.settings lines s.knot)) := by
  refine ⟨_, exec_knotSample hn, fun hw => ?_, fun hw => ?_⟩
  · rw [if_neg hw]
    exact (sampleReady_only lines s).knot_eq
  · rw [if_pos hw]
    rfl

/-- The node as the close finds it: the expiry of CH2 given, or taken here (log entry 14). -/
def closeReady (s : State) : State := takeExpiry (s.due.contains .windowClose) 2 .delay (s.take .windowClose)

theorem closeReady_only (s : State) : Only [.due, .channels] s (closeReady s) :=
  (take_only s _).after (takeExpiry_only _ _ _ _)

theorem closeReady_channel_ne {j : Fin 8} (h : j ≠ 2) : (closeReady s).channel j = s.channel j := takeExpiry_channel_ne _ _ _ h

/-- The knot monitor as the window closes: the fitted heads that are not TIGHT have missed (R85). -/
def Knot.closing (g : Settings) (k : Knot) : Knot :=
  { k with window := .closed, sampleLeft := none, rowOutcome := .seen, rowMissed := g.fittedHeads &&& ~~~k.tight }

theorem exec_windowClose (hn : s.knotNode = true) : exec .windowClose s = .next (if s.knot.window = .opened
    then (closeReady s).withKnot (s.knot.closing s.settings) else closeReady s) := by
  have h0 := closeReady_only s
  have hx : exec .windowClose s = .next (if (closeReady s).knotNode ∧ (closeReady s).knot.window = .opened
    then (closeReady s).withKnot ((closeReady s).knot.closing (closeReady s).settings) else closeReady s) := rfl
  rw [hx, h0.knotNode_eq, h0.knot_eq, h0.settings_eq]
  simp only [hn, true_and]

/-- CH2 closes an OPEN window; in another window state its event is not used. -/
theorem windowClose_effect (hn : s.knotNode = true) : Completes .windowClose s (fun t =>
    (∀ j : Fin 8, j ≠ 2 → t.channel j = s.channel j) ∧ (s.knot.window ≠ .opened → t.knot = s.knot) ∧
    (s.knot.window = .opened → t.knot = s.knot.closing s.settings)) := by
  refine ⟨_, exec_windowClose hn, fun j hj => ?_, fun hw => ?_, fun hw => ?_⟩
  · split <;> exact closeReady_channel_ne hj
  · rw [if_neg hw]
    exact (closeReady_only s).knot_eq
  · rw [if_pos hw]
    rfl

end

/-- Settles O32: each event by what it leaves of the knot monitor, and each sample head by head. -/
theorem windowSamplesTheHeads : Obligations.WindowSamplesTheHeads := by
  intro lines s hb hknot hf
  have hn := State.knotNode_of hb hknot
  refine ⟨?_, ?_, (windowClose_only s).and (windowClose_effect hn)⟩
  · refine ((windowOpen_only s lines).and (windowOpen_effect hn)).imp fun t ⟨honly, hchannels, hunused, hopens⟩ =>
      ⟨honly, hchannels, hunused, fun hw => ?_⟩
    rw [hopens hw]
    exact ⟨rfl, fun h => takeSample_opening hf⟩
  · refine ((knotSample_only s lines).and (knotSample_effect hn)).imp fun t ⟨honly, hunused, htakes⟩ =>
      ⟨honly, hunused, fun hw => ?_⟩
    rw [htakes hw]
    exact ⟨rfl, fun h => takeSample_heads hf⟩

end Sys2Proof.Machine
end

section
/-! SUPPORT. Reasons that go (R119, R122, R123, R128, R131): what the clear of a cause and the removal of a halt have in common, in
succession too; and the claim about ALARM-RESET and the halt timer. -/

namespace Sys2Proof.Machine

-- One declaration at a time, as in the frames: side by side these proofs ask for more threads than the memory limit allows.
set_option Elab.async false

variable {s t u : State}

/-! ### Where the last reason's going leads (R123) -/

theorem State.not_hasReason_iff : ¬ s.hasReason = true ↔ s.prot.causes = [] ∧ s.prot.table = [] := by
  rw [State.hasReason_iff, not_or, not_not, not_not]

theorem State.hasReason_congr (hc : t.prot.causes = s.prot.causes) (ht : t.prot.table = s.prot.table) :
    t.hasReason = s.hasReason := by
  unfold State.hasReason
  rw [hc, ht]

/-- The state that a HALTED node takes as its last reason goes. -/
def freedPermit (s : State) : Permit :=
  if s.prot.eligible = false then .standby else if s.prot.coilHold = true then .halted else .running

theorem freedPermit_of_ineligible (he : s.prot.eligible = false) : freedPermit s = .standby := if_pos he

theorem freedPermit_of_held (he : s.prot.eligible = true) (hc : s.prot.coilHold = true) : freedPermit s = .halted := by
  rw [freedPermit, if_neg (by simp [he]), if_pos hc]

theorem freedPermit_of_eligible (he : s.prot.eligible = true) (hc : s.prot.coilHold = false) : freedPermit s = .running := by
  rw [freedPermit, if_neg (by simp [he]), if_neg (by simp [hc])]

theorem freedPermit_standby (h : freedPermit s = .standby) : s.prot.eligible = false := by
  unfold freedPermit at h
  split at h
  · assumption
  · split at h <;> cases h

/-- The last reason's going would not move the node: it has a reason yet, is not HALTED, or waits under the coil hold. -/
def Settled (s : State) : Prop :=
  s.hasReason = true ∨ s.prot.permit ≠ .halted ∨ (s.prot.eligible = true ∧ s.prot.coilHold = true)

theorem reasonCleared_permit (s : State) : (reasonCleared s).prot.permit =
    if s.prot.permit = .halted ∧ ¬ s.hasReason = true then freedPermit s else s.prot.permit := by
  by_cases h : s.prot.permit = .halted ∧ ¬ s.hasReason = true
  · rw [if_pos h, reasonCleared_of_last h.1 h.2, freedPermit]
    split
    · rfl
    · split
      · exact h.1
      · rfl
  · rw [if_neg h, reasonCleared_of_kept h]

/-- Entering STANDBY ends eligibility where there was none. -/
theorem reasonCleared_eligible (s : State) : (reasonCleared s).prot.eligible = s.prot.eligible := by
  by_cases h : s.prot.permit = .halted ∧ ¬ s.hasReason = true
  · rw [reasonCleared_of_last h.1 h.2]
    split
    case isTrue he => exact he.symm
    case isFalse => split <;> rfl
  · rw [reasonCleared_of_kept h]

theorem reasonCleared_prot_eq (s : State) : (reasonCleared s).prot =
    { s.prot with permit := if s.prot.permit = .halted ∧ ¬ s.hasReason = true then freedPermit s else s.prot.permit } := by
  obtain ⟨permit, eligible, hp⟩ := reasonCleared_prot s
  have hpermit := reasonCleared_permit s
  have heligible := reasonCleared_eligible s
  rw [hp] at hpermit heligible
  rw [hp, ← hpermit]
  exact congrArg (fun e => { s.prot with permit := permit, eligible := e }) heligible

theorem coilRunningEntry_mem_setPermit (s : State) : .coilRunningEntry ∈ (setPermit .running s).due := by
  rw [setPermit_due, if_pos rfl]
  simp [entryNotices]

theorem reasonCleared_running (h : s.prot.permit = .halted ∧ ¬ s.hasReason = true) (hf : freedPermit s = .running) :
    .coilRunningEntry ∈ (reasonCleared s).due := by
  rw [reasonCleared_of_last h.1 h.2]
  unfold freedPermit at hf
  split at hf
  · cases hf
  · split at hf
    · cases hf
    · rw [if_neg ‹_›, if_neg ‹_›]
      exact coilRunningEntry_mem_setPermit s

/-! ### Reasons that go -/

/-- The last reason of a HALTED node goes. -/
def LastGone (s t : State) : Prop := s.prot.permit = .halted ∧ s.hasReason = true ∧ ¬ t.hasReason = true

/-- The last group-wide cause of a STANDING episode goes (R128). -/
def EpisodeCloses (s t : State) : Prop :=
  s.prot.episode = .standing ∧ (∃ c ∈ s.prot.causes, c.groupWide = true) ∧ ∀ c ∈ t.prot.causes, c.groupWide = false

/-- Reasons are taken out of a node, and its episode has acted on that. -/
structure ReasonsGo (s t : State) : Prop where
  frame : Extends [.due, .prot] s t
  causes : t.prot.causes.Sublist s.prot.causes
  table : t.prot.table.Sublist s.prot.table
  hold : t.prot.coilHold = s.prot.coilHold
  serial : t.prot.serial = s.prot.serial
  eligible : t.prot.eligible = s.prot.eligible
  keeps : ¬ EpisodeCloses s t → t.prot.episode = s.prot.episode ∧ t.prot.outstanding = s.prot.outstanding
  closes : EpisodeCloses s t → t.prot.episode = .closing ∧ t.prot.outstanding = s.prot.outstanding + 1 ∧
    .withdrawRequest (BitVec.ofNat 8 s.prot.serial) ∈ t.due

/-- Reasons are taken out of a node, and where the last of them goes in HALTED the permit state follows (R123). -/
structure Released (s t : State) : Prop extends ReasonsGo s t where
  stays : ¬ LastGone s t → t.prot.permit = s.prot.permit
  freed : LastGone s t → t.prot.permit = freedPermit s ∧ (freedPermit s = .running → .coilRunningEntry ∈ t.due)

theorem ReasonsGo.hasReason (h : ReasonsGo s t) (ht : t.hasReason = true) : s.hasReason = true := by
  rw [State.hasReason_iff] at *
  refine ht.imp (fun hc hn => hc ?_) fun hc hn => hc ?_
  · exact List.sublist_nil.1 (hn ▸ h.causes)
  · exact List.sublist_nil.1 (hn ▸ h.table)

theorem ReasonsGo.freedPermit_eq (h : ReasonsGo s t) : freedPermit t = freedPermit s := by
  unfold freedPermit
  rw [h.eligible, h.hold]

/-- What the lamp and the permit state do besides does not matter to the reasons and the episode. -/
theorem ReasonsGo.andThen (h : ReasonsGo s t) (hf : Extends [.due, .prot] t u)
    (hp : ∃ permit lamp, u.prot = { t.prot with permit := permit, lamp := lamp }) : ReasonsGo s u := by
  obtain ⟨permit, lamp, hp⟩ := hp
  have hcloses : EpisodeCloses s u ↔ EpisodeCloses s t := by
    unfold EpisodeCloses
    rw [hp]
  refine ⟨h.frame.trans hf, ?_, ?_, ?_, ?_, ?_, fun hn => ?_, fun hy => ?_⟩
  · rw [hp]
    exact h.causes
  · rw [hp]
    exact h.table
  · rw [hp]
    exact h.hold
  · rw [hp]
    exact h.serial
  · rw [hp]
    exact h.eligible
  · rw [hp]
    exact h.keeps (mt hcloses.2 hn)
  · obtain ⟨hepisode, houtstanding, hdue⟩ := h.closes (hcloses.1 hy)
    rw [hp]
    exact ⟨hepisode, houtstanding, hf.2 hdue⟩

theorem ReasonsGo.trans (h : ReasonsGo s t) (k : ReasonsGo t u) : ReasonsGo s u := by
  refine ⟨h.frame.trans k.frame, k.causes.trans h.causes, k.table.trans h.table, k.hold.trans h.hold, k.serial.trans h.serial,
    k.eligible.trans h.eligible, fun hn => ?_, fun ⟨he, hs, hu⟩ => ?_⟩
  · have first : ¬ EpisodeCloses s t := fun ⟨he, hs, ht⟩ => hn ⟨he, hs, fun c hc => ht c (k.causes.subset hc)⟩
    obtain ⟨hepisode, houtstanding⟩ := h.keeps first
    have second : ¬ EpisodeCloses t u := fun ⟨he, ⟨c, hc, hg⟩, hu⟩ => hn ⟨hepisode ▸ he, ⟨c, h.causes.subset hc, hg⟩, hu⟩
    rw [← hepisode, ← houtstanding]
    exact k.keeps second
  · by_cases ht : ∃ c ∈ t.prot.causes, c.groupWide = true
    · have first : ¬ EpisodeCloses s t := fun ⟨_, _, hno⟩ => by
        obtain ⟨c, hc, hg⟩ := ht
        simp [hno c hc] at hg
      obtain ⟨hepisode, houtstanding⟩ := h.keeps first
      rw [← houtstanding, ← h.serial]
      exact k.closes ⟨hepisode.trans he, ht, hu⟩
    · have hno : ∀ c ∈ t.prot.causes, c.groupWide = false := by simpa using ht
      obtain ⟨hepisode, houtstanding, hdue⟩ := h.closes ⟨he, hs, hno⟩
      obtain ⟨hepisode', houtstanding'⟩ := k.keeps fun hk => ht hk.2.1
      exact ⟨hepisode'.trans hepisode, houtstanding'.trans houtstanding, k.frame.2 hdue⟩

theorem ReasonsGo.refl (s : State) : ReasonsGo s s :=
  ⟨.refl _ s, .refl _, .refl _, rfl, rfl, rfl, fun _ => ⟨rfl, rfl⟩, fun ⟨_, ⟨c, hc, hg⟩, hn⟩ => by simp [hn c hc] at hg⟩

theorem Released.refl (s : State) : Released s s :=
  { ReasonsGo.refl s with
    stays := fun _ => rfl
    freed := fun ⟨_, hr, hn⟩ => absurd hr hn }

/-- Reasons that go in succession: the last of them is that of the whole succession. -/
theorem Released.trans (h : Released s t) (k : Released t u) : Released s u := by
  refine { h.toReasonsGo.trans k.toReasonsGo with stays := fun hn => ?_, freed := fun ⟨hp, hr, hu⟩ => ?_ }
  · by_cases ht : t.hasReason = true
    · have hpermit : t.prot.permit = s.prot.permit := h.stays fun ⟨_, _, hno⟩ => hno ht
      rw [← hpermit]
      exact k.stays fun ⟨hp, _, hu⟩ => hn ⟨hpermit ▸ hp, h.hasReason ht, hu⟩
    · have hu : ¬ u.hasReason = true := mt k.hasReason ht
      rw [k.stays fun hk => ht hk.2.1]
      exact h.stays fun ⟨hp, hr, _⟩ => hn ⟨hp, hr, hu⟩
  · by_cases ht : t.hasReason = true
    · have hpermit : t.prot.permit = s.prot.permit := h.stays fun ⟨_, _, hno⟩ => hno ht
      rw [← h.freedPermit_eq]
      exact k.freed ⟨hpermit.trans hp, ht, hu⟩
    · obtain ⟨hpermit, hnotice⟩ := h.freed ⟨hp, hr, ht⟩
      exact ⟨(k.stays fun hk => ht hk.2.1).trans hpermit, fun hf => k.frame.2 (hnotice hf)⟩

theorem Released.foldl {α : Type} {f : State → α → State} (h : ∀ s a, Released s (f s a)) (k : List α) (s : State) :
    Released s (k.foldl f s) := by
  induction k generalizing s with
  | nil => exact .refl s
  | cons a k ih => exact (h s a).trans (ih _)

/-- Events given besides do not matter. -/
theorem Released.emit (h : Released s t) (k : List Instr) : Released s (t.emit k) := by
  have hemit : Extends [.due, .prot] t (t.emit k) := (emit_extends t k).grow (by decide)
  exact { h.toReasonsGo.andThen hemit ⟨_, _, rfl⟩ with
    stays := h.stays
    freed := fun hl => ⟨(h.freed hl).1, fun hf => hemit.2 ((h.freed hl).2 hf)⟩ }

/-! ### The act of the last reason's going -/

/-- The permit state and the lamp follow the reasons that are left. -/
theorem follow_prot (t : State) : ∃ lamp, (refreshAlarm (reasonCleared t)).prot = { t.prot with
    permit := if t.prot.permit = .halted ∧ ¬ t.hasReason = true then freedPermit t else t.prot.permit, lamp := lamp } := by
  obtain ⟨lamp, hl⟩ := refreshAlarm_prot (reasonCleared t)
  exact ⟨lamp, by rw [hl, reasonCleared_prot_eq]⟩

theorem follow_extends (t : State) : Extends [.due, .prot] t (refreshAlarm (reasonCleared t)) :=
  (reasonCleared_extends t).step (.of_only (refreshAlarm_only _) (by decide)) (by decide)

theorem ReasonsGo.follow (h : ReasonsGo s t) (hp : t.prot.permit = s.prot.permit) (hs : Settled s) :
    Released s (refreshAlarm (reasonCleared t)) := by
  obtain ⟨lamp, hprot⟩ := follow_prot t
  have hreason : (refreshAlarm (reasonCleared t)).hasReason = t.hasReason := State.hasReason_congr (by rw [hprot]) (by rw [hprot])
  refine { h.andThen (follow_extends t) ⟨_, _, hprot⟩ with stays := fun hn => ?_, freed := fun ⟨hh, hr, ht⟩ => ?_ }
  · rw [hprot, ← hp]
    refine ite_eq_right_iff.2 fun ⟨hh, ht⟩ => ?_
    have hr : ¬ s.hasReason = true := fun hr => hn ⟨hp ▸ hh, hr, by rw [hreason]; exact ht⟩
    obtain ⟨he, hc⟩ := (hs.resolve_left hr).resolve_left fun hne => hne (hp ▸ hh)
    rw [h.freedPermit_eq, freedPermit_of_held he hc, hh]
  · rw [hreason] at ht
    refine ⟨?_, fun hf => ?_⟩
    · rw [hprot]
      exact (if_pos ⟨hp.trans hh, ht⟩).trans h.freedPermit_eq
    · rw [refreshAlarm_due]
      exact reasonCleared_running ⟨hp.trans hh, ht⟩ (h.freedPermit_eq.trans hf)

theorem follow_settled (t : State) : Settled (refreshAlarm (reasonCleared t)) := by
  obtain ⟨lamp, hprot⟩ := follow_prot t
  by_cases h : t.prot.permit = .halted ∧ ¬ t.hasReason = true
  · refine .inr ?_
    rw [hprot, if_pos h, freedPermit]
    cases t.prot.eligible <;> cases t.prot.coilHold <;> simp
  · rw [not_and_or, not_not] at h
    obtain hp | hr := h
    · refine .inr (.inl ?_)
      rw [hprot, if_neg (fun hh => hp hh.1)]
      exact hp
    · refine .inl ?_
      rw [← hr]
      exact State.hasReason_congr (by rw [hprot]) (by rw [hprot])

/-! ### A cause cleared -/

theorem clear_causes_eq (c : Cause) (s : State) : (clear c s).prot.causes = dropCause c s.prot.causes := by
  by_cases h : c ∈ s.prot.causes
  · obtain ⟨_, _, _, hp⟩ := clear_prot_frame h
    obtain ⟨_, _, hw⟩ := causeWithdrawn_prot c s
    rw [hp, hw]
  · rw [clear_of_absent c s h]
    refine (List.filter_eq_self.2 fun d hd => bne_iff_ne.2 ?_).symm
    rintro rfl
    exact h hd

theorem clear_table (c : Cause) (s : State) : (clear c s).prot.table = s.prot.table := by
  by_cases h : c ∈ s.prot.causes
  · exact (clear_causes h).2.1
  · rw [clear_of_absent c s h]

/-- A cause that leaves the set acts on the episode where it is group-wide (R128). -/
theorem causeWithdrawn_reasonsGo (c : Cause) (s : State) (h : c ∈ s.prot.causes) : ReasonsGo s (causeWithdrawn c s) := by
  obtain ⟨_, _, _, hp⟩ := clear_prot_frame h
  obtain ⟨_, _, hw⟩ := causeWithdrawn_prot c s
  have hcauses : (causeWithdrawn c s).prot.causes = dropCause c s.prot.causes := by rw [hw]
  refine ⟨(causeDropped_extends c s).trans (causeWithdrawn_extends c s), ?_, ?_, ?_, ?_, ?_, fun hn => ?_,
    fun ⟨he, ⟨d, hd, hg⟩, hno⟩ => ?_⟩
  · rw [hcauses]
    exact List.filter_sublist
  · rw [hw]
  · rw [hw]
  · rw [hw]
  · rw [hw]
  · have hkeep : c.groupWide = false ∨ s.prot.episode ≠ .standing ∨ ∃ d ∈ s.prot.causes, d ≠ c ∧ d.groupWide = true := by
      by_contra hall
      simp only [not_or, not_not, not_exists, not_and, Bool.not_eq_false, Bool.not_eq_true] at hall
      obtain ⟨hg, he, hothers⟩ := hall
      refine hn ⟨he, ⟨c, h, hg⟩, fun d hd => ?_⟩
      rw [hcauses, mem_dropCause] at hd
      exact hothers d hd.2 hd.1
    have hk := clear_keeps_episode h hkeep
    rwa [hp] at hk
  · rw [hcauses] at hno
    have hsame (b : Cause) (hb : b ∈ s.prot.causes) (hbg : b.groupWide = true) : b = c := by
      by_contra hne
      simp [hno b (mem_dropCause.2 ⟨hne, hb⟩)] at hbg
    have hcg : c.groupWide = true := hsame d hd hg ▸ hg
    have hnone : ∀ b ∈ (causeDropped c s).prot.causes, b.groupWide = false := hno
    rw [causeWithdrawn_of_groupWide c s hcg, episodeClear_of_none hnone he]
    exact ⟨rfl, rfl, List.mem_append_right _ (List.mem_singleton_self _)⟩

theorem clear_released (c : Cause) (s : State) : Released s (clear c s) := by
  by_cases h : c ∈ s.prot.causes
  · rw [clear_eq c s h]
    obtain ⟨_, _, hw⟩ := causeWithdrawn_prot c s
    exact (causeWithdrawn_reasonsGo c s h).follow (by rw [hw]) (.inl (State.hasReason_iff.2 (.inl (List.ne_nil_of_mem h))))
  · rw [clear_of_absent c s h]
    exact .refl s

/-! ### A halt removed -/

section
variable (n : Station) (s : State)

/-- The node with a station's halt out of its table, before that acts. -/
def haltDropped : State := s.withProt { s.prot with table := s.prot.table.filter (fun e => e.station != n) }

theorem removeHalt_eq : removeHalt n s = refreshAlarm (reasonCleared (haltDropped n s)) := rfl

theorem haltDropped_reasonsGo : ReasonsGo s (haltDropped n s) :=
  ⟨⟨(withProt_only s _).grow, List.Subset.refl _⟩, .refl _, List.filter_sublist, rfl, rfl, rfl, fun _ => ⟨rfl, rfl⟩,
    fun ⟨_, ⟨c, hc, hg⟩, hn⟩ => by simp [hn c hc] at hg⟩

theorem removeHalt_causes : (removeHalt n s).prot.causes = s.prot.causes := by
  obtain ⟨_, hp⟩ := follow_prot (haltDropped n s)
  rw [removeHalt_eq, hp]
  rfl

theorem removeHalt_table : (removeHalt n s).prot.table = s.prot.table.filter (fun e => e.station != n) := by
  obtain ⟨_, hp⟩ := follow_prot (haltDropped n s)
  rw [removeHalt_eq, hp]
  rfl

variable {s}

theorem removeHalt_released (h : Settled s) : Released s (removeHalt n s) := (haltDropped_reasonsGo n s).follow rfl h

end

/-- Halts removed one after the other: the first of them may be the last reason, which moves the node once. -/
theorem foldl_removeHalt_released (l : List HaltEntry) (h : Settled s) :
    Released s (l.foldl (fun t e => removeHalt e.station t) s) := by
  induction l generalizing s with
  | nil => exact .refl s
  | cons e l ih => exact (removeHalt_released e.station h).trans (ih (follow_settled _))

theorem foldl_removeHalt_causes (l : List HaltEntry) (s : State) :
    (l.foldl (fun t e => removeHalt e.station t) s).prot.causes = s.prot.causes := by
  induction l generalizing s with
  | nil => rfl
  | cons e l ih => exact (ih _).trans (removeHalt_causes _ _)

theorem foldl_removeHalt_table (l : List HaltEntry) (s : State) :
    (l.foldl (fun t e => removeHalt e.station t) s).prot.table =
      s.prot.table.filter (fun f => l.all (fun e => f.station != e.station)) := by
  induction l generalizing s with
  | nil => exact (List.filter_eq_self.2 fun _ _ => rfl).symm
  | cons e l ih =>
    rw [List.foldl_cons, ih, removeHalt_table, List.filter_filter]
    simp only [List.all_cons, Bool.and_comm]

theorem removeUnheard_released (s : State) : Released s (removeUnheard s) := by
  unfold removeUnheard
  cases hl : s.prot.table.filter (fun e => !s.stationHeard e.station) with
  | nil => exact .refl s
  | cons e l =>
    rw [← hl]
    refine foldl_removeHalt_released _ (.inl (State.hasReason_iff.2 (.inr fun hn => ?_)))
    rw [hn] at hl
    cases hl

theorem removeUnheard_causes (s : State) : (removeUnheard s).prot.causes = s.prot.causes := foldl_removeHalt_causes _ s

/-- Exactly the halts of stations that are HEARD stay (R119). -/
theorem removeUnheard_table (s : State) : (removeUnheard s).prot.table = s.prot.table.filter (fun e => s.stationHeard e.station) := by
  refine (foldl_removeHalt_table _ s).trans (List.filter_congr fun f hf => ?_)
  cases hh : s.stationHeard f.station with
  | true =>
    refine List.all_eq_true.2 fun e he => bne_iff_ne.2 fun hsame => ?_
    rw [hsame] at hh
    simp [hh] at he
  | false => exact List.all_eq_false.2 ⟨f, by simp [hf, hh], by simp⟩

/-! ### ALARM-RESET and the halt timer (R119, R122) -/

theorem foldl_clear_causes (l : List Cause) (s : State) {d : Cause} :
    d ∈ (l.foldl (fun t c => clear c t) s).prot.causes ↔ d ∈ s.prot.causes ∧ d ∉ l := by
  induction l generalizing s with
  | nil => simp
  | cons c l ih =>
    rw [List.foldl_cons, ih, clear_causes_eq, mem_dropCause, List.mem_cons, not_or]
    tauto

theorem foldl_clear_table (l : List Cause) (s : State) : (l.foldl (fun t c => clear c t) s).prot.table = s.prot.table := by
  induction l generalizing s with
  | nil => rfl
  | cons c l ih => exact (ih _).trans (clear_table c s)

/-- The node with some causes cleared, and BREAK where its chain is closed. -/
def causesReset (l : List Cause) (s : State) : State :=
  let s1 := l.foldl (fun t c => clear c t) s
  if s1.pins.breakOpen then s1 else clear .breakChain s1

section
variable (l : List Cause) (s : State)

theorem foldl_clear_released : Released s (l.foldl (fun t c => clear c t) s) := .foldl (fun s c => clear_released c s) l s

theorem causesReset_released : Released s (causesReset l s) := by
  unfold causesReset
  dsimp only
  split
  · exact foldl_clear_released l s
  · exact (foldl_clear_released l s).trans (clear_released _ _)

theorem causesReset_table : (causesReset l s).prot.table = s.prot.table := by
  unfold causesReset
  dsimp only
  split
  · exact foldl_clear_table l s
  · exact (clear_table _ _).trans (foldl_clear_table l s)

theorem mem_causesReset {d : Cause} : d ∈ (causesReset l s).prot.causes ↔
    d ∈ s.prot.causes ∧ d ∉ l ∧ (d = .breakChain → s.pins.breakOpen = true) := by
  unfold causesReset
  dsimp only
  rw [(foldl_clear_released l s).frame.1.pins_eq]
  split
  case isTrue ho => simp only [foldl_clear_causes, ho, implies_true, and_true]
  case isFalse ho =>
    rw [clear_causes_eq, mem_dropCause, foldl_clear_causes]
    tauto

end

/-- The node with everything cleared that ALARM-RESET clears, before its questions. -/
def alarmsReset (s : State) : State := removeUnheard (causesReset resetCauses s)

/-- In UNSET and RUNNING the command is only taken. -/
theorem exec_alarmReset (s : State) : exec .alarmReset s =
    let s0 := s.take .alarmReset
    .next (if s0.prot.permit = .unset ∨ s0.prot.permit = .running then s0
      else (alarmsReset s0).emit (resetQuestions (alarmsReset s0).prot.causes)) := by
  simp only [exec, execAlarmReset, alarmsReset, causesReset]

theorem alarmsReset_released (s : State) : Released s (alarmsReset s) :=
  (causesReset_released _ s).trans (removeUnheard_released _)

theorem mem_alarmsReset (s : State) {d : Cause} : d ∈ (alarmsReset s).prot.causes ↔
    d ∈ s.prot.causes ∧ d ∉ resetCauses ∧ (d = .breakChain → s.pins.breakOpen = true) := by
  rw [alarmsReset, removeUnheard_causes, mem_causesReset]

theorem alarmsReset_table (s : State) :
    (alarmsReset s).prot.table = s.prot.table.filter (fun e => (s.peer e.station).any Peer.heard) := by
  have hpeers : (causesReset resetCauses s).peers = s.peers := (causesReset_released _ s).frame.1.2 .peers (by decide)
  rw [alarmsReset, removeUnheard_table, causesReset_table]
  unfold State.stationHeard State.peer
  rw [hpeers]

/-- The three causes that ALARM-RESET cannot clear by itself are asked about (R119 step 4). -/
theorem resetQuestions_asked {causes : List Cause} :
    (.tension ∈ causes → .tensionClearQuestion ∈ resetQuestions causes) ∧
    (.cutter ∈ causes → .cutEndedQuestion ∈ resetQuestions causes) ∧
    (.store ∈ causes → .heldBackQuestion ∈ resetQuestions causes) := by
  unfold resetQuestions
  refine ⟨fun h => ?_, fun h => ?_, fun h => ?_⟩
  · rw [if_pos (by simpa using h)]
    simp
  · rw [if_pos (c := causes.contains Cause.cutter = true) (by simpa using h)]
    simp
  · rw [if_pos (c := causes.contains Cause.store = true) (by simpa using h)]
    simp

/-- What the last reason's going leaves, by eligibility and the coil hold. -/
theorem Released.freed_cases (h : Released s t) (hl : LastGone s t) :
    (s.prot.eligible = false → t.prot.permit = .standby) ∧
    (s.prot.eligible = true → s.prot.coilHold = true → t.prot.permit = .halted) ∧
    (s.prot.eligible = true → s.prot.coilHold = false → t.prot.permit = .running ∧ .coilRunningEntry ∈ t.due) := by
  obtain ⟨hpermit, hnotice⟩ := h.freed hl
  refine ⟨fun he => hpermit.trans (freedPermit_of_ineligible he), fun he hc => hpermit.trans (freedPermit_of_held he hc),
    fun he hc => ?_⟩
  have hf := freedPermit_of_eligible he hc
  exact ⟨hpermit.trans hf, hnotice hf⟩

theorem alarmReset_effect (s : State) : Completes .alarmReset s (fun t =>
    (s.prot.permit = .running ∨ s.prot.permit = .unset → t.prot = s.prot) ∧
    (s.prot.permit ≠ .running → s.prot.permit ≠ .unset → Released (s.take .alarmReset) t ∧
      t.prot = (alarmsReset (s.take .alarmReset)).prot ∧ resetQuestions t.prot.causes ⊆ t.due)) := by
  refine ⟨_, exec_alarmReset s, fun h => ?_, fun hr hu => ?_⟩
  · rw [if_pos (by exact h.symm)]
    rfl
  · rw [if_neg (by exact not_or.2 ⟨hu, hr⟩)]
    have hreleased := alarmsReset_released (s.take .alarmReset)
    generalize alarmsReset (s.take .alarmReset) = t at hreleased ⊢
    exact ⟨hreleased.emit _, rfl, List.subset_append_right _ _⟩

theorem exec_haltTimerExpiry (s : State) : exec .haltTimerExpiry s = .next (if s.prot.permit = .halting
    then refreshAlarm (haltingDecision (s.take .haltTimerExpiry)) else s.take .haltTimerExpiry) := rfl

/-- The halt timer's expiry is the decision of a HALTING node, and nothing in another state (R122). -/
theorem haltTimerExpiry_effect (s : State) : Completes .haltTimerExpiry s (fun t =>
    (s.prot.permit ≠ .halting → t.prot = s.prot) ∧
    (s.prot.permit = .halting → t = refreshAlarm (haltingDecision (s.take .haltTimerExpiry)))) :=
  ⟨_, exec_haltTimerExpiry s, fun h => by rw [if_neg h]; rfl, fun h => if_pos h⟩

theorem lastGone_iff : LastGone s t ↔
    s.prot.permit = .halted ∧ (s.prot.causes ≠ [] ∨ s.prot.table ≠ []) ∧ ¬ (t.prot.causes ≠ [] ∨ t.prot.table ≠ []) := by
  rw [LastGone, State.hasReason_iff, State.hasReason_iff]

/-- Settles O43: ALARM-RESET as reasons that go in succession, and the halt timer's decision. -/
theorem alarmResetAndHaltTimerAct : Obligations.AlarmResetAndHaltTimerAct := by
  refine fun s => ⟨?_, ?_⟩
  · refine ((alarmReset_only s).and (alarmReset_effect s)).imp fun t ⟨honly, hnone, hacts⟩ => ⟨honly, hnone, fun hr hu => ?_⟩
    obtain ⟨hreleased, hprot, hasked⟩ := hacts hr hu
    obtain ⟨htension, hcutter, hstore⟩ := resetQuestions_asked (causes := t.prot.causes)
    have hcauses (d : Cause) : d ∈ t.prot.causes ↔
        d ∈ s.prot.causes ∧ d ∉ resetCauses ∧ (d = .breakChain → s.pins.breakOpen = true) := by
      rw [hprot]
      exact mem_alarmsReset (s.take .alarmReset)
    have hlast := lastGone_iff (s := s.take .alarmReset) (t := t)
    exact ⟨hcauses, (congrArg Protection.table hprot).trans (alarmsReset_table _), hreleased.hold, hreleased.serial,
      fun hn => ⟨hreleased.stays (mt hlast.1 hn), hreleased.eligible⟩,
      fun hl => (hreleased.freed_cases (hlast.2 hl)).1,
      fun hl => (hreleased.freed_cases (hlast.2 hl)).2.1,
      fun hl => (hreleased.freed_cases (hlast.2 hl)).2.2,
      hreleased.closes, hreleased.keeps,
      fun h => hasked (htension ((hcauses _).2 ⟨h, by decide, nofun⟩)),
      fun h => hasked (hcutter ((hcauses _).2 ⟨h, by decide, nofun⟩)),
      fun h => hasked (hstore ((hcauses _).2 ⟨h, by decide, nofun⟩))⟩
  · refine ((haltTimerExpiry_only s).and (haltTimerExpiry_effect s)).imp fun t ⟨honly, helse, hdecides⟩ => ?_
    by_cases h : s.prot.permit = .halting
    · have heffect := haltingDecision_effect (s.take .haltTimerExpiry)
      rw [← hdecides h] at heffect
      obtain ⟨hcauses, htable, hleft, hnotice, hruns⟩ := heffect
      exact ⟨honly, hcauses, htable, helse, fun _ => ⟨hleft, hnotice, hruns⟩⟩
    · have hprot := helse h
      exact ⟨honly, congrArg _ hprot, congrArg _ hprot, helse, fun hp => absurd hp h⟩

end Sys2Proof.Machine
end

section
/-! SUPPORT. The halt table (R130 to R132): an entry put in station order or removed, the reason that a new entry is; and the claim
about the frames that set and remove entries. -/

namespace Sys2Proof.Machine

-- One declaration at a time, as in the frames: side by side these proofs ask for more threads than the memory limit allows.
set_option Elab.async false

/-! ### The entries of a table (R130) -/

theorem putHalt_find_self (e : HaltEntry) (l : List HaltEntry) : (putHalt e l).find? (fun f => f.station == e.station) = some e := by
  have before : (l.filter (fun f => f.station < e.station)).find? (fun f => f.station == e.station) = none := by
    refine List.find?_eq_none.2 fun f hf hs => ?_
    simp only [List.mem_filter, decide_eq_true_eq] at hf
    exact hf.2.ne (beq_iff_eq.1 hs)
  rw [putHalt, List.find?_append, List.find?_append, before]
  simp

theorem putHalt_find_ne {e : HaltEntry} {q : Station} (h : q ≠ e.station) (l : List HaltEntry) :
    (putHalt e l).find? (fun f => f.station == q) = l.find? (fun f => f.station == q) := by
  have own : [e].find? (fun f => f.station == q) = none := by simpa using h.symm
  have side (p : HaltEntry → Bool) (b : Bool) (hp : ∀ f : HaltEntry, f.station = q → p f = b) :
      (l.filter p).find? (fun f => f.station == q) = if b then l.find? (fun f => f.station == q) else none := by
    rw [List.find?_filter]
    cases b with
    | true =>
      refine congrArg (List.find? · l) (funext fun f => ?_)
      by_cases hf : f.station = q
      · simp only [hp f hf, true_and, Bool.decide_eq_true]
      · simp [hf]
    | false =>
      refine List.find?_eq_none.2 fun f _ => ?_
      by_cases hf : f.station = q
      · simp [hp f hf]
      · simp [hf]
  rw [putHalt, List.find?_append, List.find?_append, own]
  rcases lt_or_gt_of_ne h with hlt | hgt
  · rw [side _ true fun f hf => by simpa [hf] using hlt, side _ false fun f hf => by simpa [hf] using hlt.le]
    simp
  · rw [side _ false fun f hf => by simpa [hf] using hgt.le, side _ true fun f hf => by simpa [hf] using hgt]
    simp

theorem putHalt_ne_nil (e : HaltEntry) (l : List HaltEntry) : putHalt e l ≠ [] := by simp [putHalt]

theorem find_filter_station (n q : Station) (l : List HaltEntry) : (l.filter (fun e => e.station != n)).find? (fun e => e.station == q) =
    if q = n then none else l.find? (fun e => e.station == q) := by
  rw [List.find?_filter]
  split
  case isTrue h => exact List.find?_eq_none.2 fun e _ => by simp [h]
  case isFalse h =>
    refine congrArg (List.find? · l) (funext fun e => ?_)
    by_cases he : e.station = q
    · simp [he, h]
    · simp [he]

section
variable {s t : State}

theorem hasReason_of_haltOf {n : Station} (h : s.haltOf n ≠ none) : s.hasReason = true :=
  State.hasReason_iff.2 (.inr fun hn => h (by rw [State.haltOf, hn]; rfl))

/-! ### A reason that stands (R121, R124) -/

/-- Where a reason that stands takes the permit state. -/
theorem reasonAppears_permit (b : Bool) (hr : s.hasReason = true) :
    (s.prot.permit = .standby → (reasonAppears b s).prot.permit = .halted) ∧
    (s.prot.permit = .running → s.meter.atRest = false → (reasonAppears b s).prot.permit = .halting ∧
      (reasonAppears b s).prot.eligible = (s.settings.autoResume && !b)) ∧
    (s.prot.permit = .running → s.meter.atRest = true → (reasonAppears b s).prot.permit = .halted) := by
  refine ⟨fun hp => ?_, fun hp hm => ?_, fun hp hm => ?_⟩
  · rw [reasonAppears_of_standby b hp]
    rfl
  · rw [reasonAppears_of_running b hp, if_neg (by simp [hm])]
    exact ⟨rfl, rfl⟩
  · have hleft : (runningLeft b s).hasReason = true := (State.hasReason_congr rfl rfl).trans hr
    rw [reasonAppears_of_running b hp, if_pos hm, haltingDecision_prot]
    exact decisionOf_of_reason hleft

/-- A reason leaves a node that has begun in HALTING or HALTED. -/
theorem reasonAppears_stops (b : Bool) (hb : s.begun = true) (hr : s.hasReason = true) :
    (reasonAppears b s).prot.permit = .halting ∨ (reasonAppears b s).prot.permit = .halted := by
  obtain ⟨hstandby, hmoving, hrest⟩ := reasonAppears_permit b hr
  cases hp : s.prot.permit with
  | unset => simp [State.begun, hp] at hb
  | standby => exact .inr (hstandby hp)
  | running =>
    cases hm : s.meter.atRest with
    | false => exact .inl (hmoving hp hm).1
    | true => exact .inr (hrest hp hm)
  | halting =>
    rw [reasonAppears_of_stopped b (.inl hp)]
    exact .inl hp
  | halted =>
    rw [reasonAppears_of_stopped b (.inr hp)]
    exact .inr hp

theorem raise_stops {c : Cause} (hb : s.begun = true) (hc : c ∉ s.prot.causes) :
    (raise c s).prot.permit = .halting ∨ (raise c s).prot.permit = .halted := by
  obtain ⟨lamp, hp⟩ := raise_prot hb hc
  obtain ⟨_, _, _, _, _, htold⟩ := causeTold_prot c s
  rw [hp]
  refine reasonAppears_stops c.latching ?_ (State.hasReason_iff.2 (.inl ?_))
  · rw [State.begun, htold]
    exact hb
  · rw [htold]
    exact List.ne_nil_of_mem (mem_addCause.2 (.inl rfl))

/-! ### A halt set or replaced (R131, R132) -/

/-- The node with an entry put in its halt table, before that acts. -/
def haltPut (e : HaltEntry) (s : State) : State := s.withProt { s.prot with table := putHalt e s.prot.table }

variable {e f : HaltEntry}

theorem haltPut_hasReason : (haltPut e s).hasReason = true := State.hasReason_iff.2 (.inr (putHalt_ne_nil e _))

theorem setHalt_of_held (hf : s.haltOf e.station = some f) (hs : f.serial = e.serial) : setHalt e s = s := by
  simp only [setHalt, hf, if_pos hs]

theorem setHalt_held_prot (hf : s.haltOf e.station = some f) (hs : f.serial = e.serial) : (setHalt e s).prot = s.prot := by
  rw [setHalt_of_held hf hs]

theorem setHalt_of_other (hf : s.haltOf e.station = some f) (hs : f.serial ≠ e.serial) :
    setHalt e s = refreshAlarm ((haltPut e s).emit [.reasonNotice e.cause e.station false]) := by
  simp only [setHalt, hf, if_neg hs, haltPut]

theorem setHalt_of_none (hf : s.haltOf e.station = none) : setHalt e s =
    refreshAlarm ((reasonAppears false (haltPut e s)).emit [.reasonNotice e.cause e.station (s.prot.permit == .running)]) := by
  simp only [setHalt, hf, haltPut]

/-- A new entry moves nothing of the protection record but the table and what a reason moves. -/
theorem setHalt_new_prot (hf : s.haltOf e.station = none) : ∃ lamp,
    (setHalt e s).prot = { (reasonAppears false (haltPut e s)).prot with lamp := lamp } := by
  rw [setHalt_of_none hf]
  exact refreshAlarm_prot _

theorem setHalt_replaced_prot (hf : s.haltOf e.station = some f) (hs : f.serial ≠ e.serial) : ∃ lamp,
    (setHalt e s).prot = { s.prot with table := putHalt e s.prot.table, lamp := lamp } := by
  rw [setHalt_of_other hf hs]
  exact refreshAlarm_prot _

theorem haltOf_of_put (h : t.prot.table = putHalt e s.prot.table) :
    t.haltOf e.station = some e ∧ ∀ q : Station, q ≠ e.station → t.haltOf q = s.haltOf q := by
  unfold State.haltOf
  rw [h]
  exact ⟨putHalt_find_self e _, fun q hq => putHalt_find_ne hq _⟩

/-- An entry with another serial replaces the one of its station, and is no new reason (R131). -/
theorem setHalt_replaces (hf : s.haltOf e.station = some f) (hs : f.serial ≠ e.serial) :
    (setHalt e s).haltOf e.station = some e ∧ (∀ q : Station, q ≠ e.station → (setHalt e s).haltOf q = s.haltOf q) ∧
      (setHalt e s).prot.permit = s.prot.permit ∧ .reasonNotice e.cause e.station false ∈ (setHalt e s).due := by
  obtain ⟨lamp, hp⟩ := setHalt_replaced_prot hf hs
  obtain ⟨hself, hothers⟩ := haltOf_of_put (s := s) (t := setHalt e s) (by rw [hp])
  refine ⟨hself, hothers, by rw [hp], ?_⟩
  rw [setHalt_of_other hf hs, refreshAlarm_due]
  exact List.mem_append_right _ (List.mem_singleton_self _)

/-- A new entry is a reason (R121). -/
theorem setHalt_adds (hf : s.haltOf e.station = none) :
    (setHalt e s).haltOf e.station = some e ∧ (∀ q : Station, q ≠ e.station → (setHalt e s).haltOf q = s.haltOf q) ∧
      (setHalt e s).prot.causes = s.prot.causes ∧
      .reasonNotice e.cause e.station (s.prot.permit == .running) ∈ (setHalt e s).due ∧
      (s.prot.permit = .standby → (setHalt e s).prot.permit = .halted) ∧
      (s.prot.permit = .running → s.meter.atRest = false → (setHalt e s).prot.permit = .halting ∧
        (setHalt e s).prot.eligible = s.settings.autoResume) ∧
      (s.prot.permit = .running → s.meter.atRest = true → (setHalt e s).prot.permit = .halted) := by
  obtain ⟨lamp, hp⟩ := setHalt_new_prot hf
  obtain ⟨permit, eligible, left, hr⟩ := reasonAppears_prot false (haltPut e s)
  obtain ⟨hself, hothers⟩ := haltOf_of_put (s := s) (t := setHalt e s) (by rw [hp, hr]; rfl)
  obtain ⟨hstandby, hmoving, hrest⟩ := reasonAppears_permit false (haltPut_hasReason (e := e) (s := s))
  refine ⟨hself, hothers, by rw [hp, hr]; rfl, ?_, fun h => ?_, fun h hm => ?_, fun h hm => ?_⟩
  · rw [setHalt_of_none hf, refreshAlarm_due]
    exact List.mem_append_right _ (List.mem_singleton_self _)
  · rw [hp]
    exact hstandby h
  · obtain ⟨hpermit, heligible⟩ := hmoving h hm
    rw [hp]
    exact ⟨hpermit, heligible.trans (Bool.and_true _)⟩
  · rw [hp]
    exact hrest h hm

/-! ### A halt removed (R131, R132) -/

theorem removeHalt_haltOf (n : Station) (s : State) :
    (removeHalt n s).haltOf n = none ∧ ∀ q : Station, q ≠ n → (removeHalt n s).haltOf q = s.haltOf q := by
  unfold State.haltOf
  rw [removeHalt_table]
  exact ⟨(find_filter_station n n _).trans (if_pos rfl), fun q hq => (find_filter_station n q _).trans (if_neg hq)⟩

/-- The removal of an entry: it may be the last reason of a HALTED node (R123). -/
theorem removeHalt_effect {n : Station} (h : s.haltOf n ≠ none) :
    let last := s.prot.permit = .halted ∧ s.prot.causes = [] ∧ ∀ e ∈ s.prot.table, e.station = n
    let t := removeHalt n s
    t.haltOf n = none ∧ (∀ q : Station, q ≠ n → t.haltOf q = s.haltOf q) ∧ t.prot.causes = s.prot.causes ∧
      (¬ last → t.prot.permit = s.prot.permit) ∧ (last → s.prot.eligible = false → t.prot.permit = .standby) ∧
      (last → s.prot.eligible = true → s.prot.coilHold = true → t.prot.permit = .halted) ∧
      (last → s.prot.eligible = true → s.prot.coilHold = false → t.prot.permit = .running ∧ .coilRunningEntry ∈ t.due) := by
  intro last t
  obtain ⟨hnone, hothers⟩ := removeHalt_haltOf n s
  have hreason := hasReason_of_haltOf h
  have hr : Released s t := removeHalt_released n (.inl hreason)
  have hlast : LastGone s t ↔ last := by
    have hleft : ¬ t.hasReason = true ↔ s.prot.causes = [] ∧ ∀ e ∈ s.prot.table, e.station = n := by
      rw [State.not_hasReason_iff, removeHalt_causes, removeHalt_table, List.filter_eq_nil_iff]
      simp only [bne_iff_ne, ne_eq, not_not]
    unfold LastGone
    rw [hleft]
    simp only [hreason, true_and]
    rfl
  exact ⟨hnone, hothers, removeHalt_causes n s, fun hn => hr.stays (mt hlast.1 hn), fun hl => (hr.freed_cases (hlast.2 hl)).1,
    fun hl => (hr.freed_cases (hlast.2 hl)).2.1, fun hl => (hr.freed_cases (hlast.2 hl)).2.2⟩

end

/-! ### The frames -/

theorem foreign_of_ne {s : State} {n : Station} (h : s.station ≠ 0) (hn : n ≠ 0) (hs : n ≠ s.station) : s.foreign n = true := by
  simp [State.foreign, h, hn, hs]

section
variable {s : State} {station : Station}

theorem exec_haltFrame (cause serial : Byte) (length : BitVec 32) (hb : s.begun = true) (hf : s.foreign station = true) :
    exec (.haltFrame station cause serial length) s =
      .next (setHalt ⟨station, cause, serial, some length, true⟩ (s.take (.haltFrame station cause serial length))) :=
  congrArg Host.Outcome.next (if_pos (Bool.and_eq_true_iff.2 ⟨hb, hf⟩))

theorem not_ignored (hb : s.begun = true) (hf : s.foreign station = true) : ¬ (!(s.begun && s.foreign station)) = true := by
  simp [hb, hf]

theorem exec_presence_halted (halt : HaltPart) (hb : s.begun = true) (hf : s.foreign station = true) :
    exec (.presenceHaltPart station (some halt)) s =
      .next (setHalt ⟨station, halt.cause, halt.serial, none, false⟩ (s.take (.presenceHaltPart station (some halt)))) :=
  congrArg Host.Outcome.next (if_neg (not_ignored hb hf))

theorem exec_presence_free (hb : s.begun = true) (hf : s.foreign station = true) : exec (.presenceHaltPart station none) s =
    .next (if (s.haltOf station).isSome = true then removeHalt station (s.take (.presenceHaltPart station none))
      else s.take (.presenceHaltPart station none)) :=
  congrArg Host.Outcome.next (if_neg (not_ignored hb hf))

theorem exec_resumeFrame_of_some (serial : Byte) {e : HaltEntry} (hb : s.begun = true) (he : s.haltOf station = some e) :
    exec (.resumeFrame station serial) s = .next (if e.serial = serial
      then removeHalt station (s.take (.resumeFrame station serial)) else s.take (.resumeFrame station serial)) := by
  have htaken : (s.take (.resumeFrame station serial)).haltOf station = some e := he
  simp only [exec, execResumeFrame, htaken]
  exact congrArg Host.Outcome.next (if_congr (and_iff_right hb) rfl rfl)

theorem exec_resumeFrame_of_none (serial : Byte) (he : s.haltOf station = none) :
    exec (.resumeFrame station serial) s = .next (s.take (.resumeFrame station serial)) := by
  have htaken : (s.take (.resumeFrame station serial)).haltOf station = none := he
  simp only [exec, execResumeFrame, htaken]

end

/-- Settles O45: an entry set, kept or removed by the frame that comes, each by its own lemma. -/
theorem haltTableFollowsTheLine : Obligations.HaltTableFollowsTheLine := by
  intro station cause serial length s hb hs hn hne
  have hf : s.foreign station = true := foreign_of_ne hs hn hne
  refine ⟨(haltFrame_only s station cause serial length).and ⟨_, exec_haltFrame cause serial length hb hf, ?_, ?_, ?_⟩,
    (presenceHaltPart_only s station _).and ⟨_, exec_presence_halted _ hb hf, ?_, ?_, ?_⟩,
    (presenceHaltPart_only s station _).and ⟨_, exec_presence_free hb hf, fun h => ?_, fun h => ?_⟩, ?_⟩
  · exact fun f hf hs => setHalt_held_prot hf hs
  · exact fun f hf hs => setHalt_replaces hf hs
  · exact fun hf => setHalt_adds hf
  · exact fun f hf hs => setHalt_held_prot hf hs
  · exact fun f hf hs => setHalt_replaces hf hs
  · exact fun hf => setHalt_adds hf
  · rw [if_neg (by simp [h])]
    rfl
  · rw [if_pos (Option.isSome_iff_ne_none.2 h)]
    exact removeHalt_effect (s := s.take (.presenceHaltPart station none)) h
  · obtain ⟨t, hx, honly⟩ := resumeFrame_only s station serial
    refine ⟨t, hx, honly, fun f hf hs => ?_, fun f hf hs => ?_, fun h => ?_⟩
    · rw [exec_resumeFrame_of_some serial hb hf, if_pos hs] at hx
      cases hx
      exact removeHalt_effect (s := s.take (.resumeFrame station serial)) (Option.ne_none_iff_exists'.2 ⟨f, hf⟩)
    · rw [exec_resumeFrame_of_some serial hb hf, if_neg hs] at hx
      cases hx
      rfl
    · rw [exec_resumeFrame_of_none serial h] at hx
      cases hx
      rfl

end Sys2Proof.Machine
end

section
/-! SUPPORT. START (R116), the refusal blink and the lamp's own times (R114): what runs the machine, what refuses it, and what each
permit state makes of the button. -/

namespace Sys2Proof.Machine

-- One declaration at a time, as in the frames: side by side these proofs ask for more threads than the memory limit allows.
set_option Elab.async false

section
variable {s : State}

/-! ### START in STANDBY (R116) -/

/-- Beside the reasons, nothing stands against running: no coil hold, and the pace source is heard where FOLLOW is set. -/
def CleanToRun (s : State) : Prop := s.prot.coilHold = false ∧ (s.settings.follow = true →
  ∃ p ∈ s.peers, p.station.val = s.settings.paceSource ∧ p.heard = true)

theorem paceHeard_iff : s.paceHeard = true ↔
    (s.settings.follow = true → ∃ p ∈ s.peers, p.station.val = s.settings.paceSource ∧ p.heard = true) := by
  unfold State.paceHeard
  cases s.settings.follow <;> simp

theorem startStandby_of_clean (hr : ¬ s.hasReason = true) (hc : CleanToRun s) :
    startStandby s = refreshAlarm (setPermit .running s) := by
  obtain ⟨hhold, hpace⟩ := hc
  have hp : s.paceHeard = true := paceHeard_iff.2 hpace
  exact if_pos (by simp [hr, hhold, hp])

theorem startStandby_of_refused (h : s.hasReason = true ∨ ¬ CleanToRun s) : startStandby s = refuseStart s := by
  refine if_neg fun hall => ?_
  simp only [Bool.and_eq_true, Bool.not_eq_true', Bool.eq_false_iff] at hall
  obtain ⟨⟨hr, hhold⟩, hp⟩ := hall
  exact h.elim hr fun hn => hn ⟨Bool.eq_false_iff.2 hhold, paceHeard_iff.1 hp⟩

/-- The node has entered RUNNING, and its blocks have their notices (R120). -/
def Entered (t : State) : Prop := t.prot.permit = .running ∧ .twistRunningEntry ∈ t.due ∧ .samplerRunningEntry ∈ t.due ∧
  .knotRunningEntry ∈ t.due ∧ .coilRunningEntry ∈ t.due ∧ .permitStateNotice .running ∈ t.due

/-- The node stays in STANDBY and its lamp blinks (R114). -/
def Refused (t : State) : Prop := t.prot.permit = .standby ∧ t.prot.blinkLeft = some 1500000 ∧ t.prot.lamp.lit = true ∧
  t.prot.lamp.flashLeft = some 250000

theorem setPermit_running_entered (s : State) : Entered (refreshAlarm (setPermit .running s)) := by
  obtain ⟨lamp, hp⟩ := refreshAlarm_prot (setPermit .running s)
  unfold Entered
  rw [hp, refreshAlarm_due, setPermit_due, if_pos rfl]
  exact ⟨rfl, by simp [entryNotices], by simp [entryNotices], by simp [entryNotices], by simp [entryNotices], by simp⟩

theorem refuseStart_refused (hp : s.prot.permit = .standby) : Refused (refuseStart s) := ⟨hp, rfl, rfl, rfl⟩

/-! ### The button in each permit state -/

theorem exec_start_of_standby (hp : s.prot.permit = .standby) : exec .start s = .next (startStandby (s.take .start)) := by
  simp only [exec, execStart, State.take_prot, hp]

theorem exec_start_of_halting (hp : s.prot.permit = .halting) : exec .start s = .next (clear .operator (s.take .start)) := by
  simp only [exec, execStart, State.take_prot, hp]

theorem exec_start_of_none (hp : s.prot.permit = .running ∨ s.prot.permit = .unset ∨
    (s.prot.permit = .halted ∧ .operator ∉ s.prot.causes)) : exec .start s = .next (s.take .start) := by
  obtain hp | hp | ⟨hp, hc⟩ := hp
  · simp only [exec, execStart, State.take_prot, hp]
  · simp only [exec, execStart, State.take_prot, hp]
  · simp only [exec, execStart, State.take_prot, hp]
    exact congrArg Host.Outcome.next (if_neg (by simpa using hc))

/-- In HALTED the button clears OPERATOR, and a node that this takes to STANDBY is started in the same event. -/
theorem exec_start_of_halted (hp : s.prot.permit = .halted) (hc : .operator ∈ s.prot.causes) : exec .start s =
    .next (if (clear .operator (s.take .start)).prot.permit = .standby then startStandby (clear .operator (s.take .start))
      else clear .operator (s.take .start)) := by
  simp only [exec, execStart, State.take_prot, hp]
  exact congrArg Host.Outcome.next (if_pos (by simpa using hc))

theorem start_of_standby (hp : s.prot.permit = .standby) : Completes .start s (fun t =>
    (¬ s.hasReason = true → CleanToRun s → Entered t) ∧
    (s.hasReason = true ∨ ¬ CleanToRun s → Refused t ∧
      { t.prot with blinkLeft := s.prot.blinkLeft, lamp := s.prot.lamp } = s.prot)) := by
  refine ⟨_, exec_start_of_standby hp, fun hr hc => ?_, fun h => ?_⟩
  · rw [startStandby_of_clean (s := s.take .start) hr hc]
    exact setPermit_running_entered _
  · rw [startStandby_of_refused (s := s.take .start) h]
    exact ⟨refuseStart_refused (s := s.take .start) hp, rfl⟩

theorem start_of_halting (hp : s.prot.permit = .halting) : Completes .start s (fun t =>
    t.prot.permit = .halting ∧ ∀ d : Cause, d ∈ t.prot.causes ↔ d ≠ .operator ∧ d ∈ s.prot.causes) := by
  refine ⟨_, exec_start_of_halting hp, ?_, fun d => ?_⟩
  · exact ((clear_released .operator (s.take .start)).stays fun hl => by cases hp.symm.trans hl.1).trans hp
  · rw [clear_causes_eq]
    exact mem_dropCause

theorem start_of_none (hp : s.prot.permit = .running ∨ s.prot.permit = .unset ∨
    (s.prot.permit = .halted ∧ .operator ∉ s.prot.causes)) : Completes .start s (fun t => t.prot = s.prot) :=
  ⟨_, exec_start_of_none hp, rfl⟩

/-- OPERATOR as the last reason of a node that is not eligible: the clear takes it to STANDBY, and START judges it there. -/
theorem start_of_operator (hp : s.prot.permit = .halted) (hcauses : s.prot.causes = [.operator]) (htable : s.prot.table = [])
    (he : s.prot.eligible = false) : Completes .start s (fun t =>
      t.prot.causes = [] ∧ (CleanToRun s → Entered t) ∧ (¬ CleanToRun s → Refused t)) := by
  have hc : .operator ∈ s.prot.causes := by simp [hcauses]
  let u := clear .operator (s.take .start)
  have hu : Released (s.take .start) u := clear_released _ _
  have huc : u.prot.causes = [] := by
    rw [clear_causes_eq, State.take_prot, hcauses]
    rfl
  have hur : ¬ u.hasReason = true := State.not_hasReason_iff.2 ⟨huc, (clear_table _ _).trans htable⟩
  have hus : u.prot.permit = .standby := (hu.freed_cases ⟨hp, State.hasReason_iff.2 (.inl (List.ne_nil_of_mem hc)), hur⟩).1 he
  have hclean : CleanToRun u ↔ CleanToRun s := by
    unfold CleanToRun
    rw [hu.hold, hu.frame.1.settings_eq, hu.frame.1.2 .peers (by decide)]
    rfl
  refine ⟨_, exec_start_of_halted hp hc, ?_⟩
  rw [if_pos hus]
  by_cases hrun : CleanToRun u
  · rw [startStandby_of_clean hur hrun]
    obtain ⟨lamp, hl⟩ := refreshAlarm_prot (setPermit .running u)
    exact ⟨by rw [hl]; exact huc, fun _ => setPermit_running_entered _, fun hn => absurd (hclean.1 hrun) hn⟩
  · rw [startStandby_of_refused (.inr hrun)]
    exact ⟨huc, fun hy => absurd (hclean.2 hy) hrun, fun _ => refuseStart_refused hus⟩

/-- A reason that OPERATOR's clear leaves keeps the node in HALTED. -/
theorem start_of_held (hp : s.prot.permit = .halted) (hleft : (∃ d ∈ s.prot.causes, d ≠ .operator) ∨ s.prot.table ≠ []) :
    Completes .start s (fun t => t.prot.permit = .halted) := by
  by_cases hc : .operator ∈ s.prot.causes
  · let u := clear .operator (s.take .start)
    have hur : u.hasReason = true := by
      obtain ⟨d, hd, hne⟩ | htable := hleft
      · refine State.hasReason_iff.2 (.inl (List.ne_nil_of_mem (a := d) ?_))
        rw [clear_causes_eq]
        exact mem_dropCause.2 ⟨hne, hd⟩
      · refine State.hasReason_iff.2 (.inr ?_)
        rw [clear_table]
        exact htable
    have hup : u.prot.permit = .halted := ((clear_released .operator (s.take .start)).stays fun hl => hl.2.2 hur).trans hp
    refine ⟨_, exec_start_of_halted hp hc, ?_⟩
    rw [if_neg (by rw [hup]; decide)]
    exact hup
  · exact (start_of_none (.inr (.inr ⟨hp, hc⟩))).imp fun t ht => by rw [ht, hp]

/-- START, by the permit state that it finds (R116). -/
theorem start_effect (s : State) : Completes .start s (fun t =>
    Only [.due, .prot] s t ∧
    (s.prot.permit = .standby → s.prot.causes = [] → s.prot.table = [] → CleanToRun s → Entered t) ∧
    (s.prot.permit = .standby → s.prot.causes ≠ [] ∨ s.prot.table ≠ [] ∨ ¬ CleanToRun s → Refused t ∧
      { t.prot with blinkLeft := s.prot.blinkLeft, lamp := s.prot.lamp } = s.prot) ∧
    (s.prot.permit = .running ∨ s.prot.permit = .unset → t.prot = s.prot) ∧
    (s.prot.permit = .halting → t.prot.permit = .halting ∧
      ∀ d : Cause, d ∈ t.prot.causes ↔ d ≠ .operator ∧ d ∈ s.prot.causes) ∧
    (s.prot.permit = .halted → .operator ∉ s.prot.causes → t.prot = s.prot) ∧
    (s.prot.permit = .halted → s.prot.causes = [.operator] → s.prot.table = [] → s.prot.eligible = false →
      t.prot.causes = [] ∧ (CleanToRun s → Entered t) ∧ (¬ CleanToRun s → Refused t)) ∧
    (s.prot.permit = .halted → (∃ d ∈ s.prot.causes, d ≠ .operator) ∨ s.prot.table ≠ [] → t.prot.permit = .halted)) := by
  obtain ⟨t, hx, honly⟩ := start_only s
  refine ⟨t, hx, honly, fun hp hc ht => ?_, fun hp hr => ?_, fun hp => ?_, fun hp => ?_, fun hp hc => ?_, fun hp hc ht he => ?_,
    fun hp hleft => ?_⟩
  · exact ((start_of_standby hp).of_exec hx).1 (State.not_hasReason_iff.2 ⟨hc, ht⟩)
  · exact ((start_of_standby hp).of_exec hx).2 (by rwa [State.hasReason_iff, or_assoc])
  · exact (start_of_none (or_assoc.1 (.inl hp))).of_exec hx
  · exact (start_of_halting hp).of_exec hx
  · exact (start_of_none (.inr (.inr ⟨hp, hc⟩))).of_exec hx
  · exact (start_of_operator hp hc ht he).of_exec hx
  · exact (start_of_held hp hleft).of_exec hx

/-! ### The lamp's own times (R114) -/

theorem refusalBlinkEnd_effect (s : State) : Completes .refusalBlinkEnd s (fun t => (s.prot.blinkLeft = none → t.prot = s.prot) ∧
    (s.prot.blinkLeft ≠ none → t.prot = { s.prot with blinkLeft := none, lamp := lampFor s.prot.lamp.pattern })) := by
  refine ⟨_, rfl, fun h => ?_, fun h => ?_⟩
  · rw [State.take_prot, h]
    rfl
  · obtain ⟨n, hn⟩ := Option.ne_none_iff_exists'.1 h
    rw [State.take_prot, hn]
    rfl

theorem alarmFlash_effect (s : State) : Completes .alarmFlash s (fun t =>
    (s.prot.blinkLeft ≠ none →
      t.prot = { s.prot with lamp := { s.prot.lamp with lit := !s.prot.lamp.lit, flashLeft := some 250000 } }) ∧
    (s.prot.blinkLeft = none → s.prot.lamp.pattern = .flashing →
      t.prot = { s.prot with lamp := { s.prot.lamp with lit := !s.prot.lamp.lit, flashLeft := some 500000 } }) ∧
    (s.prot.blinkLeft = none → s.prot.lamp.pattern ≠ .flashing → t.prot = s.prot)) := by
  refine ⟨_, rfl, fun h => ?_, fun h hf => ?_, fun h hf => ?_⟩
  · rw [State.take_prot, if_pos (Option.isSome_iff_ne_none.2 h)]
    rfl
  · rw [State.take_prot, if_neg (by simp [h]), if_pos hf]
    rfl
  · rw [State.take_prot, if_neg (by simp [h]), if_neg hf]
    rfl

/-- A change of the lamp by its own time is one of its level and of the time to the next. -/
theorem alarmFlash_times (s : State) : Completes .alarmFlash s (fun t => ∃ lit flash,
    t.prot = { s.prot with lamp := { s.prot.lamp with lit := lit, flashLeft := flash } }) := by
  refine (alarmFlash_effect s).imp fun t ⟨hblink, hflashing, hdark⟩ => ?_
  by_cases hb : s.prot.blinkLeft = none
  · by_cases hf : s.prot.lamp.pattern = .flashing
    · exact ⟨_, _, hflashing hb hf⟩
    · exact ⟨_, _, hdark hb hf⟩
  · exact ⟨_, _, hblink hb⟩

end

end Sys2Proof.Machine
end

section
/-! SUPPORT. The answers to withdraw requests (R129), the coil hold (R125), the supply watch and the chain that closes (R118, R133);
and the claims about them. -/

namespace Sys2Proof.Machine

-- One declaration at a time, as in the frames: side by side these proofs ask for more threads than the memory limit allows.
set_option Elab.async false

/-! ### Answers to withdraw requests (R129) -/

section
variable {s : State}

/-- The protection record after an answer, before the end of the episode. -/
def Protection.answered (sent : Bool) (serial : Byte) (p : Protection) : Protection :=
  { p with
    outstanding := p.outstanding - 1
    sentSerial := if sent then some (nextSent p.serial p.sentSerial serial.toNat) else p.sentSerial }

theorem exec_withdrawAnswer (sent : Bool) (serial : Byte) (ho : s.prot.outstanding ≠ 0) : exec (.withdrawAnswer sent serial) s =
    let s1 := (s.take (.withdrawAnswer sent serial)).withProt (s.prot.answered sent serial)
    .next (if s.prot.outstanding - 1 = 0 ∧ s.prot.episode = .closing then endEpisode s1 else s1) :=
  congrArg Host.Outcome.next (if_neg ho)

theorem endEpisode_prot (s : State) :
    (endEpisode s).prot = { s.prot with episode := .quiet, sentSerial := none, latest := none } := by
  unfold endEpisode
  dsimp only
  cases s.prot.sentSerial with
  | none => rfl
  | some x =>
    have h : (sendFrame (.resume (BitVec.ofNat 8 x)) s).prot = s.prot := (sendFrame_only s _).prot_eq
    dsimp only
    rw [State.withProt_prot, h]

theorem endEpisode_resume {x : Nat} (h : s.prot.sentSerial = some x) : Joined (.resume (BitVec.ofNat 8 x)) s (endEpisode s) := by
  have hj : Joined (.resume (BitVec.ofNat 8 x)) s (sendFrame (.resume (BitVec.ofNat 8 x)) s) := sendFrame_joined s _ rfl (.inl nofun)
  unfold endEpisode
  rw [h]
  exact hj

theorem endEpisode_silent (h : s.prot.sentSerial = none) : (endEpisode s).line = s.line := by
  unfold endEpisode
  rw [h]
  rfl

/-- An answer is counted, and the last one of a CLOSING episode ends it. -/
theorem withdrawAnswer_effect (sent : Bool) (serial : Byte) (ho : s.prot.outstanding ≠ 0) :
    let known := (s.prot.answered sent serial).sentSerial
    let ends := s.prot.outstanding = 1 ∧ s.prot.episode = .closing
    Completes (.withdrawAnswer sent serial) s (fun t =>
      (¬ ends → t.line = s.line ∧ t.prot = s.prot.answered sent serial) ∧
      (ends → t.prot = { s.prot with outstanding := 0, sentSerial := none, episode := .quiet, latest := none } ∧
        (∀ x, known = some x → Joined (.resume (BitVec.ofNat 8 x)) s t) ∧ (known = none → t.line = s.line))) := by
  have hends : (s.prot.outstanding - 1 = 0 ∧ s.prot.episode = .closing) ↔ (s.prot.outstanding = 1 ∧ s.prot.episode = .closing) :=
    and_congr_left fun _ => by omega
  refine ⟨_, exec_withdrawAnswer sent serial ho, fun hn => ?_, fun hy => ?_⟩
  · rw [if_neg (mt hends.1 hn)]
    exact ⟨rfl, rfl⟩
  · rw [if_pos (hends.2 hy), endEpisode_prot]
    refine ⟨?_, fun x hx => ?_, fun hnone => ?_⟩
    · simp only [State.withProt_prot, Protection.answered, hy.1]
    · exact endEpisode_resume (s := (s.take (.withdrawAnswer sent serial)).withProt (s.prot.answered sent serial)) hx
    · exact endEpisode_silent (s := (s.take (.withdrawAnswer sent serial)).withProt (s.prot.answered sent serial)) hnone

end

/-- Settles O44: the answer counted, and the end of a CLOSING episode with its last one. -/
theorem withdrawAnswersEndTheEpisode : Obligations.WithdrawAnswersEndTheEpisode := by
  intro sent serial s ho
  refine ((withdrawAnswer_only s sent serial).and (withdrawAnswer_effect sent serial ho.ne')).imp fun t ⟨honly, hstays, hends⟩ => ?_
  intro back later known ends
  have hknown : (s.prot.answered sent serial).sentSerial = known := by
    dsimp only [Protection.answered, known, later]
    cases s.prot.sentSerial <;> rfl
  rw [hknown] at hends
  refine ⟨honly, ?_, fun hs hnone => ?_, fun hn => ?_, hends⟩
  · by_cases hy : ends
    · rw [(hends hy).1, hy.1]
    · rw [(hstays hy).2]
      rfl
  · simp only [known, later, hs, hnone, if_true]
  · rw [← hknown]
    exact hstays hn

/-! ### The coil hold and the supply watch (R125, R133, R134) -/

/-- SUPPLY is an own cause: the line is told nothing of it. -/
theorem raise_supply_only (s : State) : Only [.due, .prot] s (raise .supply s) := by
  rcases raise_acts_or_not .supply s with h | ⟨hb, hc⟩
  · rw [h]
    exact .refl _ s
  · have h := (raise_extends hb hc).1
    rw [causeTold_of_own .supply s rfl] at h
    exact (causeJoined_extends .supply s).1.trans h

theorem clear_supplyWarning (c : Cause) (s : State) : (clear c s).prot.supplyWarning = s.prot.supplyWarning := by
  by_cases h : c ∈ s.prot.causes
  · obtain ⟨_, _, _, hp⟩ := clear_prot_frame h
    obtain ⟨_, _, hw⟩ := causeWithdrawn_prot c s
    rw [hp, hw]
  · rw [clear_of_absent c s h]

section
variable {s : State} (hb : s.begun = true)
include hb

theorem coilHoldSet_effect : Completes .coilHoldSet s (fun t =>
    { t.prot with lamp := s.prot.lamp } = { s.prot with coilHold := true }) := by
  obtain ⟨lamp, hp⟩ := refreshAlarm_prot ((s.take .coilHoldSet).withProt { s.prot with coilHold := true })
  refine ⟨_, congrArg Host.Outcome.next (if_pos hb), ?_⟩
  change { (refreshAlarm _).prot with lamp := s.prot.lamp } = _
  rw [State.take_prot, hp]
  rfl

theorem coilHoldClear_effect :
    let resumes := s.prot.permit = .halted ∧ s.prot.causes = [] ∧ s.prot.table = [] ∧ s.prot.eligible = true
    Completes .coilHoldClear s (fun t =>
      { t.prot with lamp := s.prot.lamp } =
        { s.prot with coilHold := false, permit := if resumes then Permit.running else s.prot.permit } ∧
      (resumes → .coilRunningEntry ∈ t.due)) := by
  intro resumes
  let s1 := (s.take .coilHoldClear).withProt { s.prot with coilHold := false }
  have hcond : (s1.prot.permit = .halted ∧ (!s1.hasReason) = true ∧ s1.prot.eligible = true) ↔ resumes := by
    rw [Bool.not_eq_true', ← Bool.not_eq_true, State.not_hasReason_iff, and_assoc]
    rfl
  have hx : exec .coilHoldClear s = .next (if s1.prot.permit = .halted ∧ (!s1.hasReason) = true ∧ s1.prot.eligible = true
      then refreshAlarm (setPermit .running s1) else refreshAlarm s1) :=
    congrArg Host.Outcome.next (if_neg (by simpa using hb))
  refine ⟨_, hx, ?_, fun hy => ?_⟩
  · by_cases h : resumes
    · obtain ⟨lamp, hp⟩ := refreshAlarm_prot (setPermit .running s1)
      rw [if_pos (hcond.2 h), if_pos h, hp]
      rfl
    · obtain ⟨lamp, hp⟩ := refreshAlarm_prot s1
      rw [if_neg (mt hcond.1 h), if_neg h, hp]
      rfl
  · rw [if_pos (hcond.2 hy), refreshAlarm_due]
    exact coilRunningEntry_mem_setPermit s1

/-- A warning in NORMAL raises SUPPLY, and in WARNING it is not taken. -/
theorem supplyWarning_effect : Completes .supplyWarning s (fun t =>
    Only [.due, .pins, .prot] s t ∧ t.pins.supply < 17000 ∧ (s.prot.supplyWarning = true → t.prot = s.prot) ∧
    (s.prot.supplyWarning = false → t.prot.supplyWarning = true ∧ .supply ∈ t.prot.causes ∧
      (.supply ∉ s.prot.causes → .supplyNotice ∈ t.due ∧ t.prot.permit ≠ .running))) := by
  let s0 := (s.take .supplyWarning).withPins s.pins.supplyWarned
  have h0 : Only [.due, .pins, .prot] s s0 := (take_only s _).grow.step (withPins_only _ _)
  have hlow : s0.pins.supply < 17000 := Nat.lt_succ_of_le (Nat.min_le_right _ _)
  cases hw : s.prot.supplyWarning with
  | true =>
    have hx : exec .supplyWarning s = .next s0 := congrArg Host.Outcome.next (if_neg (by simp [hw]))
    exact ⟨s0, hx, h0, hlow, fun _ => rfl, nofun⟩
  | false =>
    let s1 := s0.withProt { s0.prot with supplyWarning := true }
    have hx : exec .supplyWarning s = .next (raise .supply s1) := by
      refine congrArg Host.Outcome.next (if_pos ?_)
      change (s.begun && !s.prot.supplyWarning) = true
      simp [hb, hw]
    have honly := raise_supply_only s1
    refine ⟨_, hx, (h0.step (withProt_only s0 _)).step honly, ?_, nofun, fun _ => ?_⟩
    · rw [honly.pins_eq]
      exact hlow
    by_cases hc : .supply ∈ s.prot.causes
    · rw [raise_of_present .supply s1 hc]
      exact ⟨rfl, hc, fun hn => absurd hc hn⟩
    · have hb1 : s1.begun = true := hb
      replace hc : .supply ∉ s1.prot.causes := hc
      obtain ⟨hcauses, -, -, hwarn⟩ := raise_causes hb1 hc
      obtain ⟨-, hnotice⟩ := raise_notices hb1 hc
      refine ⟨hwarn, (hcauses _).2 (.inl rfl), fun _ => ⟨hnotice rfl, ?_⟩⟩
      rcases raise_stops hb1 hc with hp | hp <;> rw [hp] <;> decide

/-- A recovery in WARNING clears SUPPLY, and in NORMAL it is not taken. -/
theorem supplyRecovery_effect : Completes .supplyRecovery s (fun t =>
    18000 < t.pins.supply ∧ (s.prot.supplyWarning = false → t.prot = s.prot) ∧
    (s.prot.supplyWarning = true → t.prot.supplyWarning = false ∧ .supply ∉ t.prot.causes)) := by
  let s0 := (s.take .supplyRecovery).withPins s.pins.supplyRecovered
  have hhigh : 18000 < s0.pins.supply := Nat.lt_of_succ_le (Nat.le_max_right _ _)
  cases hw : s.prot.supplyWarning with
  | false =>
    have hx : exec .supplyRecovery s = .next s0 := congrArg Host.Outcome.next (if_neg (by simp [hw]))
    exact ⟨s0, hx, hhigh, fun _ => rfl, nofun⟩
  | true =>
    let s1 := s0.withProt { s0.prot with supplyWarning := false }
    have hx : exec .supplyRecovery s = .next (clear .supply s1) := by
      refine congrArg Host.Outcome.next (if_pos ?_)
      change (s.begun && s.prot.supplyWarning) = true
      simp [hb, hw]
    refine ⟨_, hx, ?_, nofun, fun _ => ⟨?_, ?_⟩⟩
    · rw [(clear_only s1 .supply).pins_eq]
      exact hhigh
    · exact clear_supplyWarning .supply s1
    · rw [clear_causes_eq, mem_dropCause]
      exact fun h => h.1 rfl

end

/-- Settles O46: each event by its own lemma. -/
theorem holdAndSupplyAreWatched : Obligations.HoldAndSupplyAreWatched := fun s hb =>
  ⟨(coilHoldSet_only s).and (coilHoldSet_effect hb), (coilHoldClear_only s).and (coilHoldClear_effect hb),
    supplyWarning_effect hb, (supplyRecovery_only s).and (supplyRecovery_effect hb),
    ⟨_, rfl, (take_only s .breakClose).grow.step (withPins_only _ _), rfl⟩⟩

end Sys2Proof.Machine
end

section
/-! SUPPORT. What the operations of the protection unit keep, every command keeps: that induction over the commands once, for any
property of the protection record; and the claim about the record in UNSET (R112). -/

namespace Sys2Proof.Machine

-- One declaration at a time, as in the frames: side by side these proofs ask for more threads than the memory limit allows.
set_option Elab.async false

variable {s t : State} {c : Instr} {P : State → Prop}

/-! ### The packaging -/

/-- A property of the protection record that a reset establishes and that each operation of the protection unit keeps where a
command carries it out. -/
structure ProtectionKeeps (P : State → Prop) : Prop where
  frame : ∀ {s t : State}, t.prot = s.prot → P s → P t
  reset : ∀ {t : State}, t.prot = .reset → P t
  raise : ∀ {c : Cause} {s : State}, s.begun = true → c ∉ s.prot.causes → P s → P (raise c s)
  clear : ∀ {c : Cause} {s : State}, c ∈ s.prot.causes → P s → P (clear c s)
  removeHalt : ∀ {n : Station} {s : State}, Settled s → P s → P (removeHalt n s)
  setHalt : ∀ {e : HaltEntry} {s : State}, s.begun = true → P s → P (setHalt e s)
  decision : ∀ {s : State}, s.prot.permit = .halting → P s → P (refreshAlarm (haltingDecision s))
  start : ∀ {s : State}, s.prot.permit = .standby → P s → P (startStandby s)
  hold : ∀ {b : Bool} {s : State}, s.begun = true → P s → P (refreshAlarm (s.withProt { s.prot with coilHold := b }))
  resume : ∀ {s : State}, s.begun = true → ¬ s.hasReason = true → P s →
    P (refreshAlarm (setPermit .running (s.withProt { s.prot with coilHold := false })))
  warn : ∀ {b : Bool} {s : State}, s.begun = true → P s → P (s.withProt { s.prot with supplyWarning := b })
  answer : ∀ {o : Nat} {x : Option Nat} {e : Episode} {l : Option Cause} {s : State}, s.prot.outstanding ≠ 0 → P s →
    P (s.withProt { s.prot with outstanding := o, sentSerial := x, episode := e, latest := l })
  blinkEnd : ∀ {s : State}, s.prot.blinkLeft ≠ none → P s →
    P (s.withProt { s.prot with blinkLeft := none, lamp := lampFor s.prot.lamp.pattern })

namespace ProtectionKeeps

variable (h : ProtectionKeeps P)
include h

theorem of_only {l : List Part} (ho : Only l s t) (hp : P s) (hl : l.contains .prot = false := by rfl) : P t :=
  h.frame (ho.2 .prot (by simpa using hl)) hp

theorem take (e : Instr) (hp : P s) : P (s.take e) := h.frame (s := s) rfl hp

theorem raise_always (c : Cause) (hp : P s) : P (Machine.raise c s) := by
  rcases raise_acts_or_not c s with hr | ⟨hb, hc⟩
  · rw [hr]
    exact hp
  · exact h.raise hb hc hp

theorem clear_always (c : Cause) (hp : P s) : P (Machine.clear c s) := by
  by_cases hc : c ∈ s.prot.causes
  · exact h.clear hc hp
  · rw [clear_of_absent c s hc]
    exact hp

theorem foldl_clear (l : List Cause) (hp : P s) : P (l.foldl (fun t c => Machine.clear c t) s) := by
  induction l generalizing s with
  | nil => exact hp
  | cons c l ih => exact ih (h.clear_always c hp)

theorem foldl_removeHalt (l : List HaltEntry) (hs : Settled s) (hp : P s) :
    P (l.foldl (fun t e => Machine.removeHalt e.station t) s) := by
  induction l generalizing s with
  | nil => exact hp
  | cons e l ih => exact ih (follow_settled _) (h.removeHalt hs hp)

theorem removeUnheard (hp : P s) : P (Machine.removeUnheard s) := by
  unfold Machine.removeUnheard
  cases hl : s.prot.table.filter (fun e => !s.stationHeard e.station) with
  | nil => exact hp
  | cons e l =>
    refine h.foldl_removeHalt _ (.inl (State.hasReason_iff.2 (.inr fun hn => ?_))) hp
    rw [hn] at hl
    cases hl

theorem causesReset (l : List Cause) (hp : P s) : P (Machine.causesReset l s) := by
  have cleared := h.foldl_clear l hp
  unfold Machine.causesReset
  dsimp only
  split
  · exact cleared
  · exact h.clear_always _ cleared

/-! ### The commands -/

theorem of_reset (station : Station) (commission : Bool) (torn : Torn) : Completes (.reset station commission torn) s P :=
  ⟨_, rfl, h.reset (beginScan_only _).prot_eq⟩

theorem of_startEvent (hs : ∀ u : State, u.prot = s.prot → P (refreshAlarm (setPermit .standby u))) (hp : P s) :
    Completes .startEvent s P := by
  have begun : P (lineBegun s) := h.of_only (lineBegun_extends s) hp
  have jobs : P (jobsBegun (lineBegun s)) := by
    refine h.frame ?_ (hs (lineBegun s) (lineBegun_extends s).prot_eq)
    rw [(meterBegun_jobsBegun _).1.prot_eq, meterBegun, (beginMeter_only _).prot_eq]
  have left : P (leaveUnset (lineBegun s)) := by
    rw [leaveUnset_eq]
    exact iteInduction (fun _ => h.raise_always _ jobs) fun _ => jobs
  exact ⟨_, rfl, iteInduction (fun _ => h.take _ hp) fun _ => iteInduction (fun _ => left) fun _ => begun⟩

theorem of_speedEvaluation (hp : P s) : Completes .speedEvaluation s P := by
  by_cases hb : s.begun = true
  · have taken : P (s.take .speedEvaluation).speedTaken := h.of_only (speedTaken_only _) (h.take _ hp)
    exact ⟨_, exec_speedEvaluation hb, iteInduction (fun hh => h.decision hh.2.2 taken) fun _ => taken⟩
  · exact ⟨s.take .speedEvaluation, congrArg Host.Outcome.next (if_pos (by simpa using hb)), h.take _ hp⟩

theorem of_start (hp : P s) : Completes .start s P := by
  have taken := h.take .start hp
  have cleared := h.clear_always .operator taken
  cases hs : s.prot.permit with
  | standby => exact ⟨_, exec_start_of_standby hs, h.start hs taken⟩
  | halting => exact ⟨_, exec_start_of_halting hs, cleared⟩
  | running => exact ⟨_, exec_start_of_none (.inl hs), taken⟩
  | unset => exact ⟨_, exec_start_of_none (.inr (.inl hs)), taken⟩
  | halted =>
    by_cases hc : .operator ∈ s.prot.causes
    · exact ⟨_, exec_start_of_halted hs hc, iteInduction (fun hh => h.start hh cleared) fun _ => cleared⟩
    · exact ⟨_, exec_start_of_none (.inr (.inr ⟨hs, hc⟩)), taken⟩

theorem of_raise {c : Cause} {e : Instr} (he : e = .raiseCause c ∨ (e = .stop ∧ c = .operator) ∨ (e = .breakOpen ∧ c = .breakChain))
    (hp : P s) : Completes e s P :=
  ⟨_, exec_raise s he, h.raise_always c (h.of_only (raiseReady_only e s) hp)⟩

theorem of_clear {c : Cause} {e : Instr} (he : e = .clearCause c ∨ (e = .tensionAnswer true ∧ c = .tension) ∨
    (e = .cutEndedAnswer true ∧ c = .cutter) ∨ (e = .heldBackAnswer false ∧ c = .store)) (hp : P s) : Completes e s P :=
  ⟨_, exec_clear s he, h.clear_always c (h.take e hp)⟩

theorem of_denied {e : Instr} (he : e = .tensionAnswer false ∨ e = .cutEndedAnswer false ∨ e = .heldBackAnswer true) (hp : P s) :
    Completes e s P := ⟨_, exec_denied s he, h.take e hp⟩

theorem of_alarmReset (hp : P s) : Completes .alarmReset s P := by
  have taken := h.take .alarmReset hp
  have reset : P (alarmsReset (s.take .alarmReset)) := h.removeUnheard (h.causesReset _ taken)
  refine ⟨_, exec_alarmReset s, iteInduction (fun _ => taken) fun _ => ?_⟩
  generalize alarmsReset (s.take .alarmReset) = u at reset
  exact h.of_only (emit_only u _) reset

theorem of_haltTimerExpiry (hp : P s) : Completes .haltTimerExpiry s P :=
  ⟨_, exec_haltTimerExpiry s, iteInduction (fun hh => h.decision hh (h.take _ hp)) fun _ => h.take _ hp⟩

theorem of_withdrawAnswer (sent : Bool) (serial : Byte) (hp : P s) : Completes (.withdrawAnswer sent serial) s P := by
  by_cases ho : s.prot.outstanding = 0
  · exact ⟨s.take (.withdrawAnswer sent serial), congrArg Host.Outcome.next (if_pos ho), h.take _ hp⟩
  · have answered (x : Option Nat) (e : Episode) (l : Option Cause) := h.answer (o := s.prot.outstanding - 1) (x := x) (e := e)
      (l := l) (s := s.take (.withdrawAnswer sent serial)) ho (h.take _ hp)
    refine ⟨_, exec_withdrawAnswer sent serial ho, iteInduction (fun _ => ?_) fun _ => answered _ _ _⟩
    exact h.frame (endEpisode_prot _) (answered none .quiet none)

theorem of_haltFrame (station : Station) (cause serial : Byte) (length : BitVec 32) (hp : P s) :
    Completes (.haltFrame station cause serial length) s P :=
  ⟨_, rfl, iteInduction (fun hh => h.setHalt (Bool.and_eq_true_iff.1 hh).1 (h.take _ hp)) fun _ => h.take _ hp⟩

theorem of_resumeFrame (station : Station) (serial : Byte) (hp : P s) : Completes (.resumeFrame station serial) s P := by
  have taken := h.take (.resumeFrame station serial) hp
  refine ⟨_, rfl, ?_⟩
  split
  case h_1 e he =>
    have held : (s.take (.resumeFrame station serial)).haltOf station ≠ none := by simp [he]
    exact iteInduction (fun _ => h.removeHalt (.inl (hasReason_of_haltOf held)) taken) fun _ => taken
  case h_2 => exact taken

theorem of_presenceHaltPart (station : Station) (halt : Option HaltPart) (hp : P s) :
    Completes (.presenceHaltPart station halt) s P := by
  have taken := h.take (.presenceHaltPart station halt) hp
  refine ⟨_, rfl, iteInduction (fun _ => taken) fun hh => ?_⟩
  have hb : s.begun = true := by
    rw [Bool.not_eq_true', Bool.not_eq_false, Bool.and_eq_true] at hh
    exact hh.1
  split
  · exact h.setHalt hb taken
  · exact iteInduction (fun hs => h.removeHalt (.inl (hasReason_of_haltOf (Option.isSome_iff_ne_none.1 hs))) taken)
      fun _ => taken

theorem of_coilHoldSet (hp : P s) : Completes .coilHoldSet s P :=
  ⟨_, rfl, iteInduction (fun hb => h.hold hb (h.take _ hp)) fun _ => h.take _ hp⟩

theorem of_coilHoldClear (hp : P s) : Completes .coilHoldClear s P := by
  have taken := h.take .coilHoldClear hp
  refine ⟨_, rfl, iteInduction (fun _ => taken) fun hn => ?_⟩
  have hb : (s.take .coilHoldClear).begun = true := by simpa using hn
  exact iteInduction (fun ⟨_, hr, _⟩ => h.resume hb (ne_true_of_eq_false ((Bool.not_eq_true' _).mp hr)) taken) fun _ => h.hold hb taken

theorem of_supplyWarning (hp : P s) : Completes .supplyWarning s P := by
  have shown : P ((s.take .supplyWarning).withPins s.pins.supplyWarned) := h.frame (s := s) rfl hp
  exact ⟨_, rfl, iteInduction (fun hh => h.raise_always _ (h.warn (Bool.and_eq_true_iff.1 hh).1 shown)) fun _ => shown⟩

theorem of_supplyRecovery (hp : P s) : Completes .supplyRecovery s P := by
  have shown : P ((s.take .supplyRecovery).withPins s.pins.supplyRecovered) := h.frame (s := s) rfl hp
  exact ⟨_, rfl, iteInduction (fun hh => h.clear_always _ (h.warn (Bool.and_eq_true_iff.1 hh).1 shown)) fun _ => shown⟩

theorem of_refusalBlinkEnd (hp : P s) : Completes .refusalBlinkEnd s P := by
  refine (refusalBlinkEnd_effect s).imp fun t ⟨hnone, hends⟩ => ?_
  by_cases hb : s.prot.blinkLeft = none
  · exact h.frame (hnone hb) hp
  · exact h.frame (hends hb) (h.blinkEnd hb hp)

/-- Every command keeps it, but for a change of the lamp by its own time, and for the entry into STANDBY where that does not. -/
theorem exec (c : Instr) (hflash : c ≠ .alarmFlash)
    (hstart : c = .startEvent → ∀ u : State, u.prot = s.prot → P (refreshAlarm (setPermit .standby u))) (hp : P s) :
    Completes c s P := by
  cases c with
  | reset station commission torn => exact h.of_reset station commission torn
  | startEvent => exact h.of_startEvent (hstart rfl) hp
  | speedEvaluation => exact h.of_speedEvaluation hp
  | start => exact h.of_start hp
  | stop => exact h.of_raise (c := .operator) (.inr (.inl ⟨rfl, rfl⟩)) hp
  | breakOpen => exact h.of_raise (c := .breakChain) (.inr (.inr ⟨rfl, rfl⟩)) hp
  | alarmReset => exact h.of_alarmReset hp
  | raiseCause c => exact h.of_raise (c := c) (.inl rfl) hp
  | clearCause c => exact h.of_clear (c := c) (.inl rfl) hp
  | haltTimerExpiry => exact h.of_haltTimerExpiry hp
  | withdrawAnswer sent serial => exact h.of_withdrawAnswer sent serial hp
  | haltFrame station cause serial length => exact h.of_haltFrame station cause serial length hp
  | resumeFrame station serial => exact h.of_resumeFrame station serial hp
  | presenceHaltPart station halt => exact h.of_presenceHaltPart station halt hp
  | tensionAnswer yes =>
    cases yes with
    | true => exact h.of_clear (c := .tension) (.inr (.inl ⟨rfl, rfl⟩)) hp
    | false => exact h.of_denied (.inl rfl) hp
  | cutEndedAnswer ended =>
    cases ended with
    | true => exact h.of_clear (c := .cutter) (.inr (.inr (.inl ⟨rfl, rfl⟩))) hp
    | false => exact h.of_denied (.inr (.inl rfl)) hp
  | heldBackAnswer heldBack =>
    cases heldBack with
    | true => exact h.of_denied (.inr (.inr rfl)) hp
    | false => exact h.of_clear (c := .store) (.inr (.inr (.inr ⟨rfl, rfl⟩))) hp
  | coilHoldSet => exact h.of_coilHoldSet hp
  | coilHoldClear => exact h.of_coilHoldClear hp
  | supplyWarning => exact h.of_supplyWarning hp
  | supplyRecovery => exact h.of_supplyRecovery hp
  | refusalBlinkEnd => exact h.of_refusalBlinkEnd hp
  | alarmFlash => exact absurd rfl hflash
  | _ => exact (exec_only _ s).imp fun t ho => h.of_only ho hp

end ProtectionKeeps

/-! ### Time -/

/-- Time moves the timers of the protection unit and nothing else of its record. -/
theorem idle_times (s : State) : ∃ left blink flash, (idle s).prot = { s.prot with
    haltLeft := left, blinkLeft := blink, lamp := { s.prot.lamp with flashLeft := flash } } := by
  unfold idle
  split
  · exact ⟨_, _, _, (giveExpiry_only s _ _).prot_eq⟩
  · exact ⟨_, _, _, tick_prot s⟩

/-! ### UNSET (R112) -/

theorem decidedPattern_unset (h : s.prot.permit = .unset) : decidedPattern s = .dark := if_pos h

theorem refreshAlarm_of_decided (h : decidedPattern s = s.prot.lamp.pattern) : refreshAlarm s = s := if_pos h

theorem refreshAlarm_reset (h : s.prot = .reset) : (refreshAlarm s).prot = .reset := by
  rw [refreshAlarm_of_decided ((decidedPattern_unset (by rw [h]; rfl)).trans (by rw [h]; rfl)), h]

/-- On the record after reset no operation of the protection unit acts but a halt's removal, which finds no halt. -/
theorem unset_keeps : ProtectionKeeps fun s => s.prot = .reset where
  frame h hp := h.trans hp
  reset h := h
  raise hb _ hp := by simp [State.begun, hp, Protection.reset] at hb
  clear hc hp := by simp [hp, Protection.reset] at hc
  removeHalt {n s} _ hp := by
    have dropped : (haltDropped n s).prot = .reset := by
      unfold haltDropped
      rw [State.withProt_prot, hp]
      rfl
    rw [removeHalt_eq, reasonCleared_of_kept (by rw [dropped]; rintro ⟨hh, -⟩; cases hh)]
    exact refreshAlarm_reset dropped
  setHalt hb hp := by simp [State.begun, hp, Protection.reset] at hb
  decision hh hp := by simp [hp, Protection.reset] at hh
  start hs hp := by simp [hp, Protection.reset] at hs
  hold hb hp := by simp [State.begun, hp, Protection.reset] at hb
  resume hb _ hp := by simp [State.begun, hp, Protection.reset] at hb
  warn hb hp := by simp [State.begun, hp, Protection.reset] at hb
  answer ho hp := by simp [hp, Protection.reset] at ho
  blinkEnd hb hp := by simp [hp, Protection.reset] at hb

/-- Settles O11: the record after reset is kept by every operation, and no lamp flashes in it. -/
theorem unsetProtectionTakesNothing : Obligations.UnsetProtectionTakesNothing := by
  intro c s t hp hc hx
  by_cases hflash : c = .alarmFlash
  · rw [hflash] at hx
    have hblink : s.prot.blinkLeft = none := by rw [hp]; rfl
    have hdark : s.prot.lamp.pattern ≠ .flashing := by rw [hp]; decide
    exact (((alarmFlash_effect s).of_exec hx).2.2 hblink hdark).trans hp
  · exact (unset_keeps.exec c hflash (fun h => absurd h hc) hp).of_exec hx

end Sys2Proof.Machine
end

section
/-! SUPPORT. The rules that speak of the permit state, the reasons and eligibility alone (R113, R123, R124, R130): what a step needs to
keep one of them; and the claims about those that every step keeps. -/

namespace Sys2Proof.Machine

-- One declaration at a time, as in the frames: side by side these proofs ask for more threads than the memory limit allows.
set_option Elab.async false

variable {s t : State} {P : State → Prop}

/-! ### The packaging -/

/-- A property of the permit state, the reasons and eligibility, kept by what raises, sets and releases reasons and by what runs the
machine. -/
structure HaltRule (P : State → Prop) : Prop where
  congr : ∀ {s t : State}, t.prot.permit = s.prot.permit → t.prot.causes = s.prot.causes → t.prot.table = s.prot.table →
    t.prot.eligible = s.prot.eligible → P s → P t
  reset : ∀ {t : State}, t.prot = .reset → P t
  raise : ∀ {c : Cause} {s : State}, s.begun = true → c ∉ s.prot.causes → P s → P (raise c s)
  setHalt : ∀ {e : HaltEntry} {s : State}, s.begun = true → P s → P (setHalt e s)
  released : ∀ {s t : State}, Released s t → P s → P t
  decision : ∀ {s : State}, s.prot.permit = .halting → P s → P (haltingDecision s)
  run : ∀ {s : State}, ¬ s.hasReason = true → P s → P (setPermit .running s)

namespace HaltRule

variable (h : HaltRule P)
include h

theorem refresh (hp : P s) : P (refreshAlarm s) := by
  obtain ⟨lamp, hl⟩ := refreshAlarm_prot s
  exact h.congr (by rw [hl]) (by rw [hl]) (by rw [hl]) (by rw [hl]) hp

theorem keeps : ProtectionKeeps P where
  frame ht := h.congr (by rw [ht]) (by rw [ht]) (by rw [ht]) (by rw [ht])
  reset := h.reset
  raise := h.raise
  clear {c s} _ := h.released (clear_released c s)
  removeHalt {n _} hs := h.released (removeHalt_released n hs)
  setHalt := h.setHalt
  decision hh hp := h.refresh (h.decision hh hp)
  start {s} hs hp := by
    by_cases hr : ¬ s.hasReason = true ∧ CleanToRun s
    · rw [startStandby_of_clean hr.1 hr.2]
      exact h.refresh (h.run hr.1 hp)
    · rw [startStandby_of_refused (by rwa [not_and_or, not_not] at hr)]
      exact h.congr (s := s) rfl rfl rfl rfl hp
  hold {_ s} _ hp := h.refresh (h.congr (s := s) rfl rfl rfl rfl hp)
  resume {s} _ hr hp := h.refresh (h.run (by exact hr) (h.congr (s := s) rfl rfl rfl rfl hp))
  warn {_ s} _ hp := h.congr (s := s) rfl rfl rfl rfl hp
  answer {_ _ _ _ s} _ hp := h.congr (s := s) rfl rfl rfl rfl hp
  blinkEnd {s} _ hp := h.congr (s := s) rfl rfl rfl rfl hp

theorem exec (c : Instr) (hstart : P (setPermit .standby s)) (hp : P s) : Completes c s P := by
  by_cases hflash : c = .alarmFlash
  · rw [hflash]
    refine (alarmFlash_times s).imp fun t ⟨_, _, ht⟩ => ?_
    exact h.congr (by rw [ht]) (by rw [ht]) (by rw [ht]) (by rw [ht]) hp
  · refine h.keeps.exec c hflash (fun _ u hu => h.refresh ?_) hp
    refine h.congr (s := setPermit .standby s) rfl ?_ ?_ rfl hstart
    · exact (congrArg Protection.causes hu :)
    · exact (congrArg Protection.table hu :)

theorem idle (hp : P s) : P (Machine.idle s) := by
  obtain ⟨_, _, _, ht⟩ := idle_times s
  exact h.congr (by rw [ht]) (by rw [ht]) (by rw [ht]) (by rw [ht]) hp

/-- Every step keeps the rule, from a node where the entry into STANDBY would keep it. -/
theorem step (hstart : P (setPermit .standby s)) (hp : P s) (hx : step s = .next t) : P t := by
  obtain ⟨c, rest, -, hx⟩ | ⟨e, rest, -, -, hx⟩ | ⟨-, -, rfl⟩ := step_cases hx
  · have hstart' : P (setPermit .standby { s with pending := rest }) := h.congr (s := setPermit .standby s) rfl rfl rfl rfl hstart
    exact (h.exec c hstart' (h.congr (s := s) rfl rfl rfl rfl hp)).of_exec hx
  · exact (h.exec e hstart hp).of_exec hx
  · exact h.idle hp

end HaltRule

/-! ### No reason in some permit states (R113) -/

/-- In the permit states listed no reason is present. -/
def UnheldIn (l : List Permit) (s : State) : Prop := s.prot.permit ∈ l → ¬ s.hasReason = true

theorem runsUnheld_iff : RunsUnheld s ↔ UnheldIn [.running] s := by
  unfold RunsUnheld UnheldIn
  rw [State.not_hasReason_iff, List.mem_singleton]

theorem unheldIn_of_stopped {l : List Permit} (hl : .halting ∉ l ∧ .halted ∉ l)
    (h : s.prot.permit = .halting ∨ s.prot.permit = .halted) : UnheldIn l s := by
  intro hp
  rcases h with h | h <;> rw [h] at hp
  · exact absurd hp hl.1
  · exact absurd hp hl.2

theorem setHalt_stops {e : HaltEntry} (hb : s.begun = true) (hf : s.haltOf e.station = none) :
    (setHalt e s).prot.permit = .halting ∨ (setHalt e s).prot.permit = .halted := by
  obtain ⟨lamp, hp⟩ := setHalt_new_prot hf
  rw [hp]
  exact reasonAppears_stops false hb haltPut_hasReason

/-- A reason stops the machine, and no reason is taken up but in HALTING and HALTED. -/
theorem unheldIn_rule {l : List Permit} (hl : .halting ∉ l ∧ .halted ∉ l) : HaltRule (UnheldIn l) where
  congr {s t} hp hc ht _ h hm := by
    rw [State.hasReason_congr hc ht]
    exact h (hp ▸ hm)
  reset h _ := State.not_hasReason_iff.2 ⟨by rw [h]; rfl, by rw [h]; rfl⟩
  raise hb hc _ := unheldIn_of_stopped hl (raise_stops hb hc)
  setHalt {e s} hb h := by
    cases hf : s.haltOf e.station with
    | none => exact unheldIn_of_stopped hl (setHalt_stops hb hf)
    | some f =>
      by_cases hs : f.serial = e.serial
      · rw [setHalt_of_held hf hs]
        exact h
      · intro hm
        rw [(setHalt_replaces hf hs).2.2.1] at hm
        exact absurd (hasReason_of_haltOf (n := e.station) (by simp [hf])) (h hm)
  released {s t} hr h hm := by
    by_cases hgone : LastGone s t
    · exact hgone.2.2
    · rw [hr.stays hgone] at hm
      exact mt hr.hasReason (h hm)
  decision {s} _ _ hm hr := by
    have hs : s.hasReason = true := hr
    have hp : (haltingDecision s).prot.permit = .halted := decisionOf_of_reason hs
    rw [hp] at hm
    exact hl.2 hm
  run hr _ _ := hr

/-- Settles O5: in RUNNING nothing holds the machine, and a reason that a step adds leaves it for HALTING or HALTED. -/
theorem runningStaysUnheld : Obligations.RunningStaysUnheld := by
  intro s t hs hx
  have unheld : RunsUnheld t := runsUnheld_iff.2 ((unheldIn_rule (by decide)).step nofun (runsUnheld_iff.1 hs) hx)
  have hrun : t.runOut = true ↔ t.prot.permit = .running := beq_iff_eq
  have hbrake : t.brakeOut = true ↔ t.prot.permit ≠ .running := bne_iff_ne
  refine ⟨unheld, hrun, hbrake, fun hr => ?_⟩
  have hstopped : t.prot.permit ≠ .running := fun hp => hr.elim (fun hc => hc (unheld hp).1) fun ht => ht (unheld hp).2
  refine ⟨Bool.eq_false_iff.2 (mt hrun.1 hstopped), hbrake.2 hstopped, fun hp => ?_⟩
  have none : ¬ s.hasReason = true := State.not_hasReason_iff.2 (hs hp)
  have every : UnheldIn [.unset, .standby, .running] t :=
    (unheldIn_rule (by decide)).step (fun _ => none) (fun _ => none) hx
  have held := mt every (not_not.2 (State.hasReason_iff.2 hr))
  cases htp : t.prot.permit <;> simp [htp] at held ⊢

/-! ### Eligibility in STANDBY (R123, R124) -/

theorem standbyIneligible_of_stopped (h : s.prot.permit = .halting ∨ s.prot.permit = .halted) : StandbyIneligible s := by
  intro hp
  rcases h with h | h <;> rw [h] at hp <;> cases hp

/-- STANDBY is entered without eligibility, and none is given in it. -/
theorem standbyIneligible_rule : HaltRule StandbyIneligible where
  congr hp _ _ he h hs := by
    rw [he]
    exact h (hp ▸ hs)
  reset h hs := by rw [h]; rfl
  raise hb hc _ := standbyIneligible_of_stopped (raise_stops hb hc)
  setHalt {e s} hb h := by
    cases hf : s.haltOf e.station with
    | none => exact standbyIneligible_of_stopped (setHalt_stops hb hf)
    | some f =>
      by_cases hs : f.serial = e.serial
      · rw [setHalt_of_held hf hs]
        exact h
      · obtain ⟨lamp, hp⟩ := setHalt_replaced_prot hf hs
        unfold StandbyIneligible
        rw [hp]
        exact h
  released {s t} hr h hs := by
    rw [hr.eligible]
    by_cases hl : LastGone s t
    · exact freedPermit_standby ((hr.freed hl).1.symm.trans hs)
    · exact h ((hr.stays hl).symm.trans hs)
  decision _ _ hs := if_pos hs
  run _ _ := nofun

/-! ### The halt table (R130) -/

theorem putHalt_sorted {e : HaltEntry} {l : List HaltEntry} (h : l.Pairwise (fun e f => e.station < f.station)) :
    (putHalt e l).Pairwise (fun e f => e.station < f.station) := by
  have lower (f : HaltEntry) (hf : f ∈ l.filter (fun f => f.station < e.station)) : f.station < e.station := by
    simpa using (List.mem_filter.1 hf).2
  have higher (f : HaltEntry) (hf : f ∈ l.filter (fun f => e.station < f.station)) : e.station < f.station := by
    simpa using (List.mem_filter.1 hf).2
  unfold putHalt
  refine List.pairwise_append.2 ⟨List.pairwise_append.2 ⟨h.filter _, List.pairwise_singleton _ _, ?_⟩, h.filter _, ?_⟩
  · intro f hf g hg
    rw [List.mem_singleton.1 hg]
    exact lower f hf
  · intro f hf g hg
    rcases List.mem_append.1 hf with hf | hf
    · exact (lower f hf).trans (higher g hg)
    · rw [List.mem_singleton.1 hf]
      exact higher g hg

/-- An entry takes the place of its station's own. -/
theorem haltsUnique_rule : HaltRule HaltsUnique where
  congr _ _ ht _ h := by
    unfold HaltsUnique
    rw [ht]
    exact h
  reset h := by
    unfold HaltsUnique
    rw [h]
    exact .nil
  raise hb hc h := by
    unfold HaltsUnique
    rw [(raise_causes hb hc).2.1]
    exact h
  setHalt {e s} hb h := by
    unfold HaltsUnique
    cases hf : s.haltOf e.station with
    | none =>
      obtain ⟨lamp, hp⟩ := setHalt_new_prot hf
      obtain ⟨_, _, _, hr⟩ := reasonAppears_prot false (haltPut e s)
      rw [hp, hr]
      exact putHalt_sorted h
    | some f =>
      by_cases hs : f.serial = e.serial
      · rw [setHalt_of_held hf hs]
        exact h
      · obtain ⟨lamp, hp⟩ := setHalt_replaced_prot hf hs
        rw [hp]
        exact putHalt_sorted h
  released hr h := h.sublist hr.table
  decision _ h := h
  run _ h := h

/-- Settles O6: each of the two is a rule of the halts that the entry into STANDBY keeps. -/
theorem standbyStaysIneligible : Obligations.StandbyStaysIneligible :=
  ⟨fun _ _ h hx => standbyIneligible_rule.step (fun _ => rfl) h hx, fun _ _ h hx => haltsUnique_rule.step h h hx⟩

end Sys2Proof.Machine
end

section
/-! SUPPORT. The lamp's pattern as an invariant (R114): what decides it, that every operation of the protection unit leaves it decided
and freshly begun where it changes; and the claim about START and the lamp's own times. -/

namespace Sys2Proof.Machine

-- One declaration at a time, as in the frames: side by side these proofs ask for more threads than the memory limit allows.
set_option Elab.async false

variable {s t u : State} {p : AlarmPattern}

/-! ### The pattern that R114 decides -/

theorem decidedPattern_congr (hp : t.prot.permit = s.prot.permit) (hc : t.prot.causes = s.prot.causes)
    (ht : t.prot.table = s.prot.table) (hh : t.prot.coilHold = s.prot.coilHold) : decidedPattern t = decidedPattern s := by
  unfold decidedPattern
  rw [hp, hc, ht, hh]

theorem decidedPattern_steady (hu : s.prot.permit ≠ .unset) (hl : ∃ c ∈ s.prot.causes, c.latching = true) :
    decidedPattern s = .steady :=
  (if_neg hu).trans (if_pos (List.any_eq_true.2 hl))

theorem decidedPattern_recovering (hu : s.prot.permit ≠ .unset) (hl : ∀ c ∈ s.prot.causes, c.latching = false) :
    decidedPattern s = if s.prot.causes ≠ [] ∨ s.prot.table ≠ [] ∨ (s.prot.coilHold = true ∧ s.prot.permit ≠ .running)
      then .flashing else .dark := by
  have hany : ¬ s.prot.causes.any Cause.latching = true := by simpa using hl
  refine (if_neg hu).trans ((if_neg hany).trans (if_congr ?_ rfl rfl))
  simp only [Bool.or_eq_true, Bool.and_eq_true, bne_iff_ne, or_assoc]

/-- R114's table, row by row. -/
theorem decidedPattern_iff : p = decidedPattern s ↔
    (s.prot.permit = .unset → p = .dark) ∧
    (s.prot.permit ≠ .unset → (∃ c ∈ s.prot.causes, c.latching = true) → p = .steady) ∧
    (s.prot.permit ≠ .unset → (∀ c ∈ s.prot.causes, c.latching = false) →
      (s.prot.causes ≠ [] ∨ s.prot.table ≠ [] ∨ (s.prot.coilHold = true ∧ s.prot.permit ≠ .running) → p = .flashing) ∧
      (s.prot.causes = [] → s.prot.table = [] → s.prot.coilHold = false ∨ s.prot.permit = .running → p = .dark)) := by
  by_cases hu : s.prot.permit = .unset
  · rw [decidedPattern_unset hu]
    exact ⟨fun h => ⟨fun _ => h, fun hn => absurd hu hn, fun hn => absurd hu hn⟩, fun h => h.1 hu⟩
  by_cases hl : ∃ c ∈ s.prot.causes, c.latching = true
  · rw [decidedPattern_steady hu hl]
    refine ⟨fun h => ⟨fun hh => absurd hh hu, fun _ _ => h, fun _ hno => ?_⟩, fun h => h.2.1 hu hl⟩
    obtain ⟨c, hc, hlatching⟩ := hl
    simp [hno c hc] at hlatching
  have hno : ∀ c ∈ s.prot.causes, c.latching = false := by simpa using hl
  rw [decidedPattern_recovering hu hno]
  split
  case isTrue hf =>
    refine ⟨fun h => ⟨fun hh => absurd hh hu, fun _ hy => absurd hy hl, fun _ _ => ⟨fun _ => h, fun hc ht hh => ?_⟩⟩,
      fun h => (h.2.2 hu hno).1 hf⟩
    obtain hf | hf | ⟨hhold, hrun⟩ := hf
    · exact absurd hc hf
    · exact absurd ht hf
    · exact hh.elim (fun hn => by simp [hn] at hhold) fun hp => absurd hp hrun
  case isFalse hf =>
    refine ⟨fun h => ⟨fun hh => absurd hh hu, fun _ hy => absurd hy hl, fun _ _ => ⟨fun hy => absurd hy hf, fun _ _ _ => h⟩⟩,
      fun h => ?_⟩
    simp only [not_or, not_and, not_not] at hf
    obtain ⟨hc, ht, hh⟩ := hf
    refine (h.2.2 hu hno).2 hc ht ?_
    cases hhold : s.prot.coilHold with
    | false => exact .inl rfl
    | true => exact .inr (hh hhold)

/-! ### A pattern decided and begun -/

/-- The lamp shows the pattern decided; where that is not the pattern `p`, and no refusal blinks, it is as the pattern begins. -/
def LampFollows (p : AlarmPattern) (s : State) : Prop :=
  s.prot.lamp.pattern = decidedPattern s ∧
    (s.prot.lamp.pattern ≠ p → s.prot.blinkLeft = none → s.prot.lamp = lampFor s.prot.lamp.pattern)

/-- What changes nothing that the pattern depends on, and leaves the lamp alone. -/
theorem LampFollows.congr (h : LampFollows p s) (hp : t.prot.permit = s.prot.permit) (hc : t.prot.causes = s.prot.causes)
    (ht : t.prot.table = s.prot.table) (hh : t.prot.coilHold = s.prot.coilHold) (hl : t.prot.lamp = s.prot.lamp)
    (hb : t.prot.blinkLeft = s.prot.blinkLeft) : LampFollows p t := by
  unfold LampFollows
  rw [decidedPattern_congr hp hc ht hh, hl, hb]
  exact h

theorem refreshAlarm_decided (s : State) : (refreshAlarm s).prot.lamp.pattern = decidedPattern (refreshAlarm s) := by
  obtain ⟨lamp, hl⟩ := refreshAlarm_prot s
  rw [decidedPattern_congr (s := s) (t := refreshAlarm s) (by rw [hl]) (by rw [hl]) (by rw [hl]) (by rw [hl])]
  unfold refreshAlarm
  dsimp only
  split
  case isTrue h => exact h.symm
  case isFalse => split <;> rfl

/-- A pattern decided afresh begins, or waits for the refusal blink to end. -/
theorem refreshAlarm_follows (h : LampFollows p s) (hl : t.prot.lamp = s.prot.lamp) (hb : t.prot.blinkLeft = s.prot.blinkLeft) :
    LampFollows p (refreshAlarm t) := by
  refine ⟨refreshAlarm_decided t, ?_⟩
  unfold refreshAlarm
  dsimp only
  split
  · rw [hl, hb]
    exact h.2
  · split
    case isTrue hs =>
      intro _ (hnone : t.prot.blinkLeft = none)
      exact absurd hnone (Option.isSome_iff_ne_none.1 hs)
    case isFalse => exact fun _ _ => rfl

/-! ### What the operations leave of the lamp before it is decided afresh -/

theorem reasonAppears_lamp (b : Bool) (s : State) : (reasonAppears b s).prot.lamp = s.prot.lamp ∧
    (reasonAppears b s).prot.blinkLeft = s.prot.blinkLeft := by
  obtain ⟨_, _, _, hr⟩ := reasonAppears_prot b s
  rw [hr]
  exact ⟨rfl, rfl⟩

theorem raise_follows {c : Cause} (hb : s.begun = true) (hc : c ∉ s.prot.causes) (h : LampFollows p s) : LampFollows p (raise c s) := by
  obtain ⟨_, _, _, _, _, htold⟩ := causeTold_prot c s
  obtain ⟨hlamp, hblink⟩ := reasonAppears_lamp c.latching (causeTold c s)
  rw [raise_eq c s hb hc]
  refine refreshAlarm_follows h ?_ ?_
  · rw [State.emit_prot, hlamp, htold]
    rfl
  · rw [State.emit_prot, hblink, htold]
    rfl

/-- Reasons that go, as the lamp takes them. -/
theorem follow_follows (h : LampFollows p s) (hl : t.prot.lamp = s.prot.lamp) (hb : t.prot.blinkLeft = s.prot.blinkLeft) :
    LampFollows p (refreshAlarm (reasonCleared t)) :=
  refreshAlarm_follows h (by rw [reasonCleared_prot_eq]; exact hl) (by rw [reasonCleared_prot_eq]; exact hb)

theorem clear_follows {c : Cause} (hc : c ∈ s.prot.causes) (h : LampFollows p s) : LampFollows p (clear c s) := by
  obtain ⟨_, _, hw⟩ := causeWithdrawn_prot c s
  rw [clear_eq c s hc]
  exact follow_follows h (by rw [hw]) (by rw [hw])

theorem setHalt_follows {e : HaltEntry} (h : LampFollows p s) : LampFollows p (setHalt e s) := by
  cases hf : s.haltOf e.station with
  | none =>
    obtain ⟨hlamp, hblink⟩ := reasonAppears_lamp false (haltPut e s)
    rw [setHalt_of_none hf]
    exact refreshAlarm_follows h hlamp hblink
  | some f =>
    by_cases hs : f.serial = e.serial
    · rw [setHalt_of_held hf hs]
      exact h
    · rw [setHalt_of_other hf hs]
      exact refreshAlarm_follows h rfl rfl

theorem startStandby_follows (h : LampFollows p s) : LampFollows p (startStandby s) :=
  iteInduction (fun _ => refreshAlarm_follows h rfl rfl) fun _ => ⟨h.1, fun _ hb => by cases hb⟩

/-- Every operation of the protection unit leaves the lamp following. -/
theorem lampFollows_keeps (p : AlarmPattern) : ProtectionKeeps (LampFollows p) where
  frame hp h := h.congr (by rw [hp]) (by rw [hp]) (by rw [hp]) (by rw [hp]) (by rw [hp]) (by rw [hp])
  reset hp := by
    refine ⟨?_, fun _ _ => ?_⟩
    · rw [decidedPattern_unset (by rw [hp]; rfl), hp]
      rfl
    · rw [hp]
      rfl
  raise := raise_follows
  clear := clear_follows
  removeHalt _ h := follow_follows h rfl rfl
  setHalt _ := setHalt_follows
  decision _ h := refreshAlarm_follows h rfl rfl
  start _ := startStandby_follows
  hold _ h := refreshAlarm_follows h rfl rfl
  resume _ _ h := refreshAlarm_follows h rfl rfl
  warn _ h := h.congr rfl rfl rfl rfl rfl rfl
  answer _ h := h.congr rfl rfl rfl rfl rfl rfl
  blinkEnd _ h := ⟨h.1, fun _ _ => rfl⟩

/-! ### The lamp's own times -/

/-- What changes the lamp's times and its level, and no pattern. -/
theorem LampFollows.of_times (h : LampFollows p s) {left blink flash : Option Nat} {lit : Bool}
    (ht : t.prot = { s.prot with
      haltLeft := left, blinkLeft := blink, lamp := { s.prot.lamp with lit := lit, flashLeft := flash } })
    (hs : s.prot.lamp.pattern = p) : LampFollows p t := by
  refine ⟨?_, fun hne => absurd ?_ hne⟩
  · rw [decidedPattern_congr (s := s) (t := t) (by rw [ht]) (by rw [ht]) (by rw [ht]) (by rw [ht]), ht]
    exact h.1
  · rw [ht]
    exact hs

theorem exec_lampFollows (c : Instr) (hs : s.prot.lamp.pattern = p) (h : LampFollows p s) : Completes c s (LampFollows p) := by
  by_cases hflash : c = .alarmFlash
  · rw [hflash]
    exact (alarmFlash_times s).imp fun t ⟨lit, flash, ht⟩ => h.of_times ht hs
  · exact (lampFollows_keeps p).exec c hflash (fun _ u hu => refreshAlarm_follows h (congrArg Protection.lamp hu :)
      (congrArg Protection.blinkLeft hu :)) h

/-- Every step leaves the lamp following, from a lamp that shows what is decided. -/
theorem step_lampFollows (h : s.prot.lamp.pattern = decidedPattern s) (hx : step s = .next t) :
    LampFollows s.prot.lamp.pattern t := by
  have follows : LampFollows s.prot.lamp.pattern s := ⟨h, fun hne => absurd rfl hne⟩
  obtain ⟨c, rest, -, hx⟩ | ⟨e, rest, -, -, hx⟩ | ⟨-, -, rfl⟩ := step_cases hx
  · exact (exec_lampFollows c rfl (s := { s with pending := rest }) follows).of_exec hx
  · exact (exec_lampFollows e rfl follows).of_exec hx
  · obtain ⟨left, blink, flash, ht⟩ := idle_times s
    exact follows.of_times ht rfl

/-- Settles O42: the lamp as an invariant of every step, then START by the permit state and the lamp's own times. -/
theorem startRunsOrIsRefused : Obligations.StartRunsOrIsRefused := by
  refine ⟨fun s t hx => ?_, fun s => ?_⟩
  · intro decided hd
    obtain ⟨hdecided, hbegun⟩ := step_lampFollows (decidedPattern_iff.2 hd) hx
    refine ⟨decidedPattern_iff.1 hdecided, fun hne hblink => ?_⟩
    rw [hbegun hne hblink]
    exact ⟨bne_iff_ne, rfl⟩
  · exact ⟨start_effect s, (refusalBlinkEnd_only s).and (refusalBlinkEnd_effect s), (alarmFlash_only s).and (alarmFlash_effect s)⟩

end Sys2Proof.Machine
end

section
/-! SUPPORT. The memory's canonical form and R137 as invariants: whatever command or time comes, the memory stays in its canonical form,
and the lists of a record in any slot stay within their sizes; and the claim that every step keeps them. -/

namespace Sys2Proof.Machine

-- One declaration at a time, as in the frames: side by side these proofs ask for more threads than the memory limit allows.
set_option Elab.async false

variable {s t : State} {l : List Part} {c : Instr}

/-! ### The canonical form of the memory (log entry 2) -/

theorem MemoryCanonical.of_only (h : MemoryCanonical s) (ho : Only l s t) (hl : l.contains .memory = false := by rfl) :
    MemoryCanonical t := by
  have same : t.memory = s.memory := ho.2 .memory (by simpa using hl)
  rw [MemoryCanonical, same]
  exact h

section
variable (wear : Wear) (h : MemoryCanonical s)
include h

theorem runOp_endOp_canonical (f : InFlight) : MemoryCanonical (endOp (runOp wear f s).1) :=
  MemoryCanonical.of_only (s := (runOp wear f s).1) (runOp_wf wear f h) (endOp_only _)

theorem markSector_canonical (n p : Nat) : MemoryCanonical (markSector wear (s, n) p).1 := by
  have programmed : (programNow wear (sectorBase p + 16) [0x00] s).1.memory.wf := by
    rw [programNow_memory]
    exact Memory.program_wf _ _ _ h
  unfold markSector
  split <;> rename_i heq <;> rw [heq] at programmed
  · exact programmed
  · exact programmed

theorem foldl_markSector_canonical (k : List Nat) (n : Nat) : MemoryCanonical (k.foldl (markSector wear) (s, n)).1 := by
  induction k generalizing s n with
  | nil => exact h
  | cons p k ih => exact ih (markSector_canonical wear h n p) _

theorem eraseBankNow_canonical (b : Nat) : MemoryCanonical (eraseBankNow wear b s) := by
  rw [MemoryCanonical, eraseBankNow_memory]
  exact Memory.eraseBank_wf _ _ h

end

section
variable (s) (wear : Wear)

theorem reset_canonical (station : Station) (commission : Bool) (torn : Torn) :
    Completes (.reset station commission torn) s fun t => MemoryCanonical s → MemoryCanonical t :=
  ⟨_, rfl, fun h => MemoryCanonical.of_only (s := startedNode station commission (tornMemory torn s) s) (tornMemory_wf torn s h)
    (beginScan_only _)⟩

theorem programHeaderComplete_canonical :
    Completes (.programHeaderComplete wear) s fun t => MemoryCanonical s → MemoryCanonical t := by
  refine ⟨_, rfl, fun h => ?_⟩
  split
  · exact runOp_endOp_canonical (s := s.takeLike isCompletion) wear h _
  · exact h

theorem keepComplete_canonical : Completes (.keepComplete wear) s fun t => MemoryCanonical s → MemoryCanonical t := by
  refine ⟨_, rfl, fun h => ?_⟩
  split
  case h_1 coil step retry left _ =>
    have ran := runOp_wf (s := s.takeLike isCompletion) wear ⟨.keep coil, step, retry, left⟩ h
    split
    case h_1 s1 kept _ hran =>
      rw [hran] at ran
      exact MemoryCanonical.of_only (s := s1) ran ((emit_only _ _).after (l := [.due, .meter, .line, .store]) (endOp_only _))
    case h_2 => exact MemoryCanonical.of_only (s := s.takeLike isCompletion) h (endOp_only _)
  case h_2 => exact h

theorem markCollectedComplete_canonical :
    Completes (.markCollectedComplete wear) s fun t => MemoryCanonical s → MemoryCanonical t := by
  refine ⟨_, rfl, fun h => ?_⟩
  split
  · exact (foldl_markSector_canonical (s := s.takeLike isCompletion) wear h _ 0).of_only (endOp_reply_only _ _ _ _)
  · exact h

theorem eraseBankComplete_canonical :
    Completes (.eraseBankComplete wear) s fun t => MemoryCanonical s → MemoryCanonical t := by
  refine ⟨_, rfl, fun h => ?_⟩
  split
  · exact (eraseBankNow_canonical (s := s.takeLike isCompletion) wear h _).of_only (endOp_reply_only _ _ _ _)
  · exact h

theorem lostCompletion_canonical : Completes (.lostCompletion wear) s fun t => MemoryCanonical s → MemoryCanonical t := by
  refine ⟨_, rfl, fun h => ?_⟩
  split
  case h_1 p step retry left _ =>
    have ran : MemoryCanonical (runOp wear ⟨.lostRecord p, step, retry, left⟩ (s.takeLike isCompletion)).1 := runOp_wf wear _ h
    dsimp only
    split
    · exact ran.of_only ((withStore_only _ _).trans (beginOp_only _ _))
    · exact ran.of_only ((endOp_only _).step (emit_only _ _))
  case h_2 => exact h

theorem commitComplete_canonical : Completes (.commitComplete wear) s fun t => MemoryCanonical s → MemoryCanonical t := by
  refine ⟨_, rfl, fun h => ?_⟩
  split
  case h_1 image source step retry left _ =>
    have ran : MemoryCanonical (runOp wear ⟨.commit image source, step, retry, left⟩ (s.takeLike isCompletion)).1 := runOp_wf wear _ h
    exact ran.of_only (endOp_reply_only _ _ _ _)
  case h_2 => exact h

end

/-- A command that ends a step of the store keeps the canonical form, and so does a reset; every other leaves the memory alone. -/
theorem exec_canonical (c : Instr) (s : State) : Completes c s fun t => MemoryCanonical s → MemoryCanonical t := by
  cases c with
  | reset station commission torn => exact reset_canonical s station commission torn
  | programHeaderComplete wear => exact programHeaderComplete_canonical s wear
  | keepComplete wear => exact keepComplete_canonical s wear
  | markCollectedComplete wear => exact markCollectedComplete_canonical s wear
  | eraseBankComplete wear => exact eraseBankComplete_canonical s wear
  | lostCompletion wear => exact lostCompletion_canonical s wear
  | commitComplete wear => exact commitComplete_canonical s wear
  | _ => exact (exec_only _ s).imp fun t ho h => h.of_only ho

theorem endStepByTime_canonical (f : InFlight) (h : MemoryCanonical s) : MemoryCanonical (endStepByTime f s) := by
  have ended := endStep_wf s.world.wear f h
  unfold endStepByTime
  split <;> rename_i heq
  · rw [heq] at ended
    exact ended
  · exact h

theorem tickStore_canonical (h : MemoryCanonical s) : MemoryCanonical (tickStore s) := by
  unfold tickStore
  split
  · exact iteInduction (fun _ => endStepByTime_canonical _ h) fun _ => h
  · exact h

theorem idle_canonical (s : State) (h : MemoryCanonical s) : MemoryCanonical (idle s) := by
  unfold idle
  split
  · exact h.of_only (giveExpiry_only s _ _)
  · rw [tick_eq]
    exact tickStore_canonical (h.of_only (coilTicked_extends s).1)

/-! ### The lists of a record (R137) -/

section
variable {r : CoilRecord} (h : RecordFits r)
include h

theorem RecordFits.of_lists {q : CoilRecord} (hh : q.halts.length ≤ r.halts.length) (hs : q.splices.length ≤ r.splices.length)
    (hc : q.contributors.length ≤ r.contributors.length) : RecordFits q :=
  ⟨hh.trans h.1, hs.trans h.2.1, hc.trans h.2.2⟩

theorem logNote_fits (code : Byte) (station : Station) (offset : Nat) (stopped : Bool) :
    RecordFits (logNote code station offset stopped r) := by
  obtain ⟨halts, splices, contributors⟩ := h
  refine ⟨?_, splices, contributors⟩
  unfold logNote
  dsimp only
  split
  · rw [List.length_append, List.length_singleton]
    omega
  · exact halts

theorem changeContributor_fits (station : Station) (f : Contributor → Contributor) : RecordFits (changeContributor station f r) :=
  h.of_lists le_rfl le_rfl (List.length_map _).le

theorem mergePart_fits (p : SegmentPart) : RecordFits (mergePart p r) := by
  cases p <;> exact h

theorem mergeParts_fits (y : Tally) : RecordFits (mergeParts y r) := by
  unfold mergeParts
  split <;> split
  · exact mergePart_fits (mergePart_fits h _) _
  · exact mergePart_fits h _
  · exact mergePart_fits h _
  · exact h

theorem mergeTally_fits (station : Station) (y : Tally) : RecordFits (mergeTally station y r) :=
  changeContributor_fits (mergeParts_fits (r := { r with flags := r.flags.union y.flags }) h y) _ _

/-- An entry is appended only where fewer than 15 stand (R150). -/
theorem gatherTally_fits (station : Station) (y : Tally) : RecordFits (gatherTally station y r) := by
  unfold gatherTally
  split
  · exact iteInduction (fun _ => mergeTally_fits h _ _) fun _ => h
  · refine iteInduction (fun hlt => mergeTally_fits (r := { r with
      contributors := r.contributors ++ [{ ownContributor station with listed := false }] }) ⟨h.1, h.2.1, ?_⟩ _ _) fun _ => h
    rw [List.length_append, List.length_singleton]
    exact hlt

theorem settleOwn_fits (station : Station) : RecordFits (settleOwn station r) :=
  iteInduction (fun _ => h) fun _ => changeContributor_fits h _ _

theorem takeOwnPart_fits (station : Station) (p : SegmentPart) : RecordFits (takeOwnPart station p r) := by
  cases p with
  | twist u => exact settleOwn_fits (r := { mergePart (.twist u) r with awaitTwist := false }) (mergePart_fits h _) _
  | knot u => exact settleOwn_fits (r := { mergePart (.knot u) r with awaitKnot := false }) (mergePart_fits h _) _

theorem fixSegment_fits (s : State) : RecordFits (fixSegment s r) := settleOwn_fits (r := { r with
  segment := some (mmOf (s.segmentOf r)), awaitTwist := s.settings.twist, awaitKnot := s.settings.knot }) h _

theorem asHeld_fits : RecordFits r.asHeld := h.of_lists le_rfl le_rfl le_rfl

theorem heldBack_fits : RecordFits { r with heldBack := true } := h.of_lists le_rfl le_rfl le_rfl

theorem expire_fits : RecordFits r.expire := h.of_lists le_rfl le_rfl (List.length_map _).le

theorem sealedBy_fits (s : State) : RecordFits (r.sealedBy s) := h.of_lists le_rfl le_rfl (List.length_map _).le

/-- The list is cut at 15 entries (R149). -/
theorem listContributors_fits (s : State) : RecordFits (listContributors s r) := ⟨h.1, h.2.1, List.length_take_le _ _⟩

end

theorem newRecord_fits (s : State) (n : Nat) : RecordFits (newRecord s n) := ⟨Nat.zero_le 8, Nat.zero_le 8, Nat.one_le_ofNat⟩

/-! ### The slots -/

/-- R137 for the three slots of a coil builder. -/
structure CoilBuilder.Fits (c : CoilBuilder) : Prop where
  opened : ∀ r ∈ c.openSlot, RecordFits r
  closing : ∀ r ∈ c.closingSlot, RecordFits r
  held : ∀ r ∈ c.heldSlot, RecordFits r

theorem recordsFit_iff : RecordsFit s ↔ s.coil.Fits := by
  unfold RecordsFit State.records
  simp only [List.mem_append, Option.mem_toList]
  exact ⟨fun h => ⟨fun r hr => h r (.inl (.inl hr)), fun r hr => h r (.inl (.inr hr)), fun r hr => h r (.inr hr)⟩,
    fun h r hr => hr.elim (fun hr => hr.elim (h.opened r) (h.closing r)) (h.held r)⟩

theorem forall_mem_some {r : CoilRecord} (h : RecordFits r) : ∀ q ∈ some r, RecordFits q := by
  rintro q ⟨⟩
  exact h

theorem releaseTallies_coil (s : State) :
    (releaseTallies s).coil = { s.coil with forming := s.coil.forming.filter fun f => !f.ready } := by
  have sent (k : List FormingTally) (u : State) :
      (k.foldl (fun t f => sendFrame (.tally f.destination f.tally) t) u).coil = u.coil :=
    (Only.foldl (fun t f => sendFrame_only t (.tally f.destination f.tally)) k u).coil_eq (by decide)
  exact sent _ _

theorem forall_mem_none : ∀ q ∈ (none : Option CoilRecord), RecordFits q := fun _ h => by cases h

theorem forall_mem_map {f : CoilRecord → CoilRecord} (hf : ∀ r, RecordFits r → RecordFits (f r)) {o : Option CoilRecord}
    (h : ∀ r ∈ o, RecordFits r) : ∀ r ∈ o.map f, RecordFits r := by
  intro q hq
  obtain ⟨r, hr, rfl⟩ := Option.mem_map.1 hq
  exact hf r (h r hr)

namespace CoilBuilder.Fits

theorem of_only (h : s.coil.Fits) (ho : Only l s t) (hl : l.contains .coil = false := by rfl) : t.coil.Fits := by
  rw [ho.coil_eq (by simpa using hl)]
  exact h

variable (h : s.coil.Fits)
include h

theorem setOpen {r : CoilRecord} (hr : RecordFits r) : (s.setOpen (some r)).coil.Fits := ⟨forall_mem_some hr, h.closing, h.held⟩

theorem setClosing {r : CoilRecord} (hr : RecordFits r) : (s.setClosing (some r)).coil.Fits := ⟨h.opened, forall_mem_some hr, h.held⟩

/-- A change of every record, in whichever slot it stands. -/
theorem mapSlots {f : CoilRecord → CoilRecord} (hf : ∀ r, RecordFits r → RecordFits (f r))
    (ht : t.coil = { s.coil with
      openSlot := s.coil.openSlot.map f, closingSlot := s.coil.closingSlot.map f, heldSlot := s.coil.heldSlot.map f }) :
    t.coil.Fits := by
  rw [ht]
  exact ⟨forall_mem_map hf h.opened, forall_mem_map hf h.closing, forall_mem_map hf h.held⟩

end CoilBuilder.Fits

/-! ### What the coil builder's operations do to the slots -/

section
variable {r : CoilRecord} (h : s.coil.Fits)
include h

theorem openCoil_fits : (openCoil s).coil.Fits := by
  unfold openCoil
  split
  · exact h
  · rename_i n _
    exact CoilBuilder.Fits.of_only (s := (convertFlag s.lineLength s).withCoil
      { s.coil with openSlot := some (newRecord s n), next := nextCoil n })
      ⟨forall_mem_some (newRecord_fits s n), h.closing, h.held⟩ (enqueue_only _ _)

theorem startCut_fits (hr : RecordFits r) : (startCut r s).coil.Fits := ⟨forall_mem_some hr, h.closing, h.held⟩

theorem judgeCut_fits (hr : RecordFits r) : (judgeCut r s).coil.Fits := by
  unfold judgeCut
  split
  · exact startCut_fits h hr
  · exact ⟨h.opened, h.closing, h.held⟩

theorem judgeAfterGathering_fits : (judgeAfterGathering s).coil.Fits := by
  unfold judgeAfterGathering
  split
  · split
    · exact startCut_fits h (h.opened _ ‹_›)
    · exact h
  · exact h

theorem endCoil_fits (reason : EndReason) (hr : RecordFits r) : (endCoil reason r s).coil.Fits := by
  unfold endCoil
  dsimp only
  refine judgeCut_fits ?_ ?_
  · exact ⟨forall_mem_some hr, h.closing, h.held⟩
  · exact hr

theorem compareTarget_fits : (compareTarget s).coil.Fits := by
  unfold compareTarget
  split
  · rename_i r hr
    have flagged : (convertFlag (s.segmentOf r) s).coil.Fits := h.of_only (convertFlag_only s _)
    split
    · dsimp only
      split
      · exact endCoil_fits flagged _ (h.opened r hr)
      · exact flagged
    · exact h
  · exact h

theorem sealClosing_fits (hr : RecordFits r) : (sealClosing r s).coil.Fits := by
  rw [sealClosing_coil]
  exact h.setClosing (sealedBy_fits hr s)

theorem sealOpen_fits (hr : RecordFits r) : (sealOpen r s).coil.Fits := by
  rw [sealOpen_coil]
  exact h.setOpen (sealedBy_fits hr s)

theorem closeUp_fits (hr : RecordFits r) : (closeUp r s).coil.Fits := by
  rw [closeUp_eq, gatheredOrSealed]
  have marked : (cutMarked r s).coil.Fits := by
    rw [cutMarked_coil]
    exact ⟨forall_mem_none, forall_mem_some (hr.of_lists le_rfl le_rfl le_rfl), h.held⟩
  have opened : (openedAfterCut (cutMarked r s)).coil.Fits := (openCoil_fits marked).of_only (afterOpen_extends _).1
  have listed := listContributors_fits (r := { r with state := .gathering }) (hr.of_lists le_rfl le_rfl le_rfl)
    (openedAfterCut (cutMarked r s))
  split
  · exact sealClosing_fits opened listed
  · exact opened.setClosing listed

theorem closingEmptied_fits : (closingEmptied s).coil.Fits := by
  unfold closingEmptied
  split
  · exact iteInduction (motive := fun u : State => u.coil.Fits) (fun _ => closeUp_fits h (h.opened _ ‹_›)) fun _ => h
  · exact h

theorem heldFromOpen_fits : (heldEmptied.heldFromOpen s).coil.Fits := by
  unfold heldEmptied.heldFromOpen
  split
  · rename_i r hr
    split
    · have moved : (s.withCoil { s.coil with openSlot := none, heldSlot := some r.asHeld }).coil.Fits :=
        ⟨forall_mem_none, h.closing, forall_mem_some (asHeld_fits (h.opened r hr))⟩
      exact (moved.of_only (queueOffer_only _)).of_only (clearHold_only _)
    · exact h
  · exact h

theorem heldEmptied_fits : (heldEmptied s).coil.Fits := by
  unfold heldEmptied
  split
  · rename_i r hr
    split
    · have moved : (s.withCoil { s.coil with closingSlot := none, heldSlot := some r.asHeld }).coil.Fits :=
        ⟨h.opened, forall_mem_none, forall_mem_some (asHeld_fits (h.closing r hr))⟩
      exact closingEmptied_fits (moved.of_only (queueOffer_only _))
    · exact heldFromOpen_fits h
  · exact heldFromOpen_fits h

theorem notKeptClosing_fits (hr : RecordFits r) : (notKeptClosing r s).coil.Fits := by
  unfold notKeptClosing
  split
  · exact closingEmptied_fits (s := s.withCoil _) ⟨h.opened, forall_mem_none, forall_mem_some (asHeld_fits hr)⟩
  · exact h.setClosing (heldBack_fits hr)

theorem notKeptOpen_fits (hr : RecordFits r) : (notKeptOpen r s).coil.Fits := by
  unfold notKeptOpen
  split
  · exact CoilBuilder.Fits.of_only (s := s.withCoil { s.coil with openSlot := none, heldSlot := some r.asHeld })
      ⟨forall_mem_none, h.closing, forall_mem_some (asHeld_fits hr)⟩ (clearHold_only _)
  · exact h.setOpen (heldBack_fits hr)

theorem takeKeepReport_fits (coil : Nat) (kept : Bool) : (takeKeepReport coil kept s).coil.Fits := by
  unfold takeKeepReport
  split
  · split
    · exact heldEmptied_fits (s := s.setHeld none) ⟨h.opened, h.closing, forall_mem_none⟩
    · exact h
  · split
    · split
      · exact closingEmptied_fits (s := s.setClosing none) ⟨h.opened, forall_mem_none, h.held⟩
      · exact notKeptClosing_fits h (h.closing _ ‹_›)
      · exact h
    · split
      · split
        · exact CoilBuilder.Fits.of_only (s := s.setOpen none) ⟨forall_mem_none, h.closing, h.held⟩ (clearHold_only _)
        · exact notKeptOpen_fits h (h.opened _ ‹_›)
        · exact h
      · exact h

theorem logOpen_fits (code : Byte) (station : Station) (stopped own : Bool) : (logOpen code station stopped own s).coil.Fits := by
  unfold logOpen
  split
  · rename_i r hr
    split
    · have flagged : (offsetFlag r.halts.length (s.segmentOf r) s).coil.Fits := h.of_only (offsetFlag_only s _ _)
      exact flagged.setOpen (logNote_fits (h.opened r hr) code station (mmOf (s.segmentOf r)) stopped)
    · exact h
  · exact h

theorem answerClosing_fits (coil : BitVec 32) (p : SegmentPart) (hr : ∀ r ∈ s.coil.closingSlot, RecordFits r) :
    (execSegmentStatisticsAnswer.answerClosing coil p s.coil.closingSlot s).coil.Fits := by
  unfold execSegmentStatisticsAnswer.answerClosing
  split
  · rename_i r hc
    have own := takeOwnPart_fits (hr r hc) s.station p
    split
    · dsimp only
      split
      · exact judgeAfterGathering_fits (sealClosing_fits (s := s.emit _) h own)
      · exact h.setClosing own
    · exact h
  · exact h

theorem late_fits : (execTallyReceived.late s).coil.Fits := by
  unfold execTallyReceived.late
  split
  · rename_i r hr
    split
    · exact h.setOpen (r := { r with lateCount := holdInc 65535 r.lateCount }) (h.opened r hr)
    · exact h
  · exact h

theorem releaseTallies_fits : (releaseTallies s).coil.Fits := by
  rw [releaseTallies_coil]
  exact ⟨h.opened, h.closing, h.held⟩

theorem sealGathering_fits : (execSupplyNotice.sealGathering s).coil.Fits := by
  unfold execSupplyNotice.sealGathering
  split
  · exact iteInduction (motive := fun u : State => u.coil.Fits)
      (fun _ => sealClosing_fits (s := s.emit _) h (expire_fits (h.closing _ ‹_›))) fun _ => h
  · exact h

theorem endSupply_fits : (execSupplyNotice.endSupply s).coil.Fits := by
  unfold execSupplyNotice.endSupply
  split
  · rename_i r hr
    split
    · exact ⟨forall_mem_some (fixSegment_fits (h.opened r hr) s), h.closing, h.held⟩
    · exact h
  · exact h

theorem sealSupply_fits : (execSupplyNotice.sealSupply s).coil.Fits := by
  unfold execSupplyNotice.sealSupply
  split
  · exact iteInduction (motive := fun u : State => u.coil.Fits) (fun _ => sealOpen_fits h (expire_fits (h.opened _ ‹_›))) fun _ => h
  · exact h

end

/-! ### The anchors (R162 to R164) -/

section
variable (wear : Wear) (h : s.coil.Fits)
include h

theorem updateRecord_fits (coil : Nat) {f : CoilRecord → CoilRecord} (hf : ∀ r, RecordFits r → RecordFits (f r)) :
    (s.updateRecord coil f).coil.Fits := h.mapSlots
  (fun r hr => iteInduction (motive := fun q : CoilRecord => RecordFits q) (fun _ => hf r hr) fun _ => hr) rfl

theorem entered_fits (op : StoreOp) (p : Nat) : (entered op p s).coil.Fits := by
  unfold entered
  split
  · exact updateRecord_fits (s := s.setEntry p _) h _ fun _ hr => hr
  · split
    · exact updateRecord_fits (s := s.setEntry p _) h _ fun _ hr => hr
    · exact h
  · exact h
  · exact h

theorem endProgram_fits (f : InFlight) (p : Nat) : (endProgram wear f p s).1.coil.Fits := by
  unfold endProgram
  dsimp only
  have programmed := h.of_only (programNow_only s wear (programmed f.op p s).1 (programmed f.op p s).2)
  generalize programNow wear _ _ s = x at programmed ⊢
  obtain ⟨s1, result⟩ := x
  cases result with
  | good => exact entered_fits programmed _ _
  | addressError => cases f.op <;> exact programmed
  | dataError => cases f.op <;> exact programmed

theorem voidMark_fits (p : Nat) : (voidMark wear p s).coil.Fits := by
  refine h.mapSlots (f := fun r => if r.anchor = some p then { r with anchor := none } else r) (fun r hr => ?_) ?_
  · split <;> exact hr
  · unfold voidMark
    dsimp only [State.setEntry_coil]
    split
    · rfl
    · rw [(countStep_only _ _).coil_eq]

theorem endStep_fits (f : InFlight) : (endStep wear f s).1.coil.Fits := by
  unfold endStep
  split
  · exact h
  · exact h
  · split
    · exact h.of_only (eraseBankNow_only s wear 0)
    · exact h.of_only (searchOn_only s wear _ _)
  · exact endProgram_fits wear h f _
  · have marked := voidMark_fits wear h ‹Nat›
    unfold endVoid
    dsimp only
    split
    · exact marked.of_only (searchSector_only _)
    · exact marked
    · exact marked

theorem runOp_fits (f : InFlight) : (runOp wear f s).1.coil.Fits := by
  have runs : ∀ (n : Nat) (f : InFlight) (s : State), s.coil.Fits → (runSteps wear n f s).1.coil.Fits := by
    intro n
    induction n with
    | zero => exact fun _ _ h => h
    | succ n ih =>
      intro f s h
      have ended := endStep_fits wear h f
      rw [runSteps]
      generalize endStep wear f s = x at ended ⊢
      obtain ⟨s1, onward⟩ := x
      cases onward with
      | done good => exact ended
      | next step retry => exact ih _ _ ended
  exact runs 40 f s h

end

/-! ### The slots over a command and over time (R137) -/

section
variable (s) (wear : Wear)

theorem reset_fits (station : Station) (commission : Bool) (torn : Torn) :
    Completes (.reset station commission torn) s fun t => t.coil.Fits :=
  ⟨_, rfl, CoilBuilder.Fits.of_only (s := startedNode station commission (tornMemory torn s) s)
    ⟨forall_mem_none, forall_mem_none, forall_mem_none⟩ (beginScan_only _)⟩

theorem takeCount_fits (e : EncoderId) (k : Int) (h : s.coil.Fits) : (takeCount e k s).coil.Fits := by
  unfold takeCount
  have counted (x : Metering) (f : Option ArithFlag) (o : Origin) : (setFlagIf f o (s.withMeter x)).coil.Fits :=
    CoilBuilder.Fits.of_only (s := s.withMeter x) h (setFlagIf_only _ f o)
  have checked (u : State) (c : Prop) [Decidable c] (hu : u.coil.Fits) : (if c then checkSlip u else u).coil.Fits :=
    iteInduction (motive := fun v : State => v.coil.Fits) (fun _ => hu.of_only (checkSlip_only u)) fun _ => hu
  exact iteInduction (motive := fun v : State => v.coil.Fits) (fun _ => checked _ _ (counted _ _ _))
    fun _ => compareTarget_fits (checked _ _ (counted _ _ _))

theorem encoderTransition_fits (e : EncoderId) (line1 line2 : Bool) :
    Completes (.encoderTransition e line1 line2) s fun t => s.coil.Fits → t.coil.Fits := by
  refine ⟨_, rfl, fun h => ?_⟩
  have shown : (pairShown e (line1, line2) s).coil.Fits := h.of_only (pairShown_only e (line1, line2) s)
  refine iteInduction (motive := fun v : State => v.coil.Fits) (fun _ => ?_) fun _ => shown
  change (takePair e (line1, line2) (pairShown e (line1, line2) s)).coil.Fits
  unfold takePair
  dsimp only
  split
  · exact shown
  · exact shown
  · exact takeCount_fits _ e _ shown

theorem coilRunningEntry_fits : Completes .coilRunningEntry s fun t => s.coil.Fits → t.coil.Fits := by
  refine ⟨_, rfl, fun h => ?_⟩
  have taken : (s.take .coilRunningEntry).coil.Fits := h
  split
  · exact taken
  · split
    · split
      · exact openCoil_fits taken
      · exact taken
    · split
      · exact taken
      · exact ⟨h.opened, h.closing, h.held⟩

theorem cutRequest_fits : Completes .cutRequest s fun t => s.coil.Fits → t.coil.Fits := by
  refine ⟨_, rfl, fun h => ?_⟩
  have taken : (s.take .cutRequest).coil.Fits := h
  split
  · rename_i r hr
    have fits := h.opened r hr
    repeat' split
    · exact taken
    · exact taken
    · exact endCoil_fits taken _ fits
    · exact startCut_fits taken fits
    · exact taken
  · exact taken

theorem restTimerExpiry_fits : Completes .restTimerExpiry s fun t => s.coil.Fits → t.coil.Fits := by
  refine ⟨_, rfl, fun h => ?_⟩
  have taken : (s.take .restTimerExpiry).coil.Fits := h
  split
  · rename_i r _ hr _
    repeat' split
    · exact startCut_fits taken (h.opened r hr)
    · exact ⟨h.opened, h.closing, h.held⟩
    · exact taken
  · exact taken

theorem cutDriveStart_fits : Completes .cutDriveStart s fun t => s.coil.Fits → t.coil.Fits := by
  refine ⟨_, rfl, fun h => ?_⟩
  have driven : (if s.due.contains .cutDriveStart then s.take .cutDriveStart else driveChannel 7 s).coil.Fits :=
    iteInduction (motive := fun v : State => v.coil.Fits) (fun _ => h) fun _ => h.of_only (driveChannel_only s 7)
  have marked := forall_mem_map (f := fun r => { r with cutDriven := true }) (fun _ hr => hr.of_lists le_rfl le_rfl le_rfl) driven.opened
  exact ⟨marked, driven.closing, driven.held⟩

theorem cutPulseExpiry_fits : Completes .cutPulseExpiry s fun t => s.coil.Fits → t.coil.Fits := by
  refine ⟨_, rfl, fun h => ?_⟩
  have ready : (takeExpiry (s.due.contains .cutPulseExpiry) 7 .pulse (s.take .cutPulseExpiry)).coil.Fits :=
    CoilBuilder.Fits.of_only (s := s.take .cutPulseExpiry) h (takeExpiry_only _ _ _ _)
  split
  · exact iteInduction (motive := fun v : State => v.coil.Fits) (fun _ => ⟨ready.opened, ready.closing, ready.held⟩) fun _ => ready
  · exact ready

theorem cutTimerExpiry_fits : Completes .cutTimerExpiry s fun t => s.coil.Fits → t.coil.Fits := by
  refine ⟨_, rfl, fun h => ?_⟩
  split
  · dsimp only
    split <;> exact ⟨h.opened, h.closing, h.held⟩
  · exact h

theorem cutDone_fits : Completes .cutDone s fun t => s.coil.Fits → t.coil.Fits := by
  refine ⟨_, rfl, fun h => ?_⟩
  split
  · rename_i r hr
    have fixed : RecordFits (fixSegment (s.take .cutDone) r) := fixSegment_fits (h.opened r hr) _
    have ended : (segmentEnded r (s.take .cutDone)).coil.Fits := ⟨h.opened, h.closing, h.held⟩
    split
    · dsimp only
      split
      · exact ended.setOpen (r := { fixSegment (s.take .cutDone) r with state := .ended }) fixed
      · exact closeUp_fits ended fixed
    · exact h
  · exact h

theorem segmentStatisticsAnswer_fits (coil : BitVec 32) (part : SegmentPart) :
    Completes (.segmentStatisticsAnswer coil part) s fun t => s.coil.Fits → t.coil.Fits := by
  refine ⟨_, rfl, fun h => ?_⟩
  have taken : (s.take (.segmentStatisticsAnswer coil part)).coil.Fits := h
  have answered := answerClosing_fits taken coil part taken.closing
  split
  · exact taken
  · split
    · split
      · rename_i r hr
        split
        · exact taken.setOpen (takeOwnPart_fits (h.opened r hr) _ _)
        · exact answered
      · exact answered
    · exact releaseTallies_fits ⟨h.opened, h.closing, h.held⟩

theorem reasonNotice_fits (code : Byte) (station : Station) (stopped : Bool) :
    Completes (.reasonNotice code station stopped) s fun t => s.coil.Fits → t.coil.Fits := by
  refine ⟨_, rfl, fun h => ?_⟩
  have taken : (s.take (.reasonNotice code station stopped)).coil.Fits := h
  repeat' split
  · exact taken
  · exact logOpen_fits taken _ _ _ _
  · exact ⟨h.opened, h.closing, h.held⟩
  · exact taken

theorem markSpliceReceived_fits (station : Station) :
    Completes (.markSpliceReceived station) s fun t => s.coil.Fits → t.coil.Fits := by
  refine ⟨_, rfl, fun h => ?_⟩
  have taken : (s.take (.markSpliceReceived station)).coil.Fits := h
  split
  · exact logOpen_fits taken _ _ _ _
  · exact taken

theorem splice_fits : Completes .splice s fun t => s.coil.Fits → t.coil.Fits := by
  refine ⟨_, rfl, fun h => ?_⟩
  have marked : (sendMark .splice (s.take .splice).currentCoil (s.take .splice)).coil.Fits :=
    CoilBuilder.Fits.of_only (s := s.take .splice) h (sendMark_only _ _ _)
  split
  · exact h
  · dsimp only
    split
    · rename_i r hr
      obtain ⟨halts, splices, contributors⟩ := marked.opened r hr
      split
      · refine CoilBuilder.Fits.setOpen (marked.of_only (offsetFlag_only _ _ _)) ⟨halts, ?_, contributors⟩
        dsimp only
        split
        · rw [List.length_append, List.length_singleton]
          omega
        · exact splices
      · exact marked
    · exact marked

theorem markCutReceived_fits (station : Station) (coil : BitVec 32) :
    Completes (.markCutReceived station coil) s fun t => s.coil.Fits → t.coil.Fits := by
  refine ⟨_, rfl, fun h => ?_⟩
  split
  · exact h
  · dsimp only
    split
    · exact ⟨h.opened, h.closing, h.held⟩
    · have asked : ((convertFlag ((s.take (.markCutReceived station coil)).lineLength -
          (s.take (.markCutReceived station coil)).coil.tally.startLength) (s.take (.markCutReceived station coil))).emit
          (askOwn (s.take (.markCutReceived station coil)).settings coil.toNat)).coil.Fits :=
        CoilBuilder.Fits.of_only (s := s.take (.markCutReceived station coil)) h
          ((convertFlag_only _ _).step (emit_only _ _))
      exact releaseTallies_fits ⟨asked.opened, asked.closing, asked.held⟩

theorem target_fits (source : Station) (length : BitVec 32) :
    Completes (.target source length) s fun t => s.coil.Fits → t.coil.Fits := by
  refine ⟨_, rfl, fun h => ?_⟩
  have reply {u : State} (hu : u.coil.Fits) (b : List Byte) : (sendReply .target source b u).coil.Fits :=
    hu.of_only (sendReply_only u _ _ b)
  have taken : (s.take (.target source length)).coil.Fits := h
  repeat' split
  · exact taken
  · exact reply taken _
  · exact reply taken _
  · exact reply taken _
  · refine reply ?_ _
    exact ⟨h.opened, h.closing, h.held⟩

theorem tallyReceived_fits (station : Station) (y : Tally) :
    Completes (.tallyReceived station y) s fun t => s.coil.Fits → t.coil.Fits := by
  refine ⟨_, rfl, fun h => ?_⟩
  have taken : (s.take (.tallyReceived station y)).coil.Fits := h
  split
  · exact taken
  · split
    · rename_i r hr
      have gathered := gatherTally_fits (h.closing r hr) station y
      split
      · dsimp only
        split
        · exact judgeAfterGathering_fits (sealClosing_fits (s := State.emit _ _) taken gathered)
        · exact taken.setClosing gathered
      · exact late_fits taken
    · exact late_fits taken

theorem tallyWaitExpiry_fits : Completes .tallyWaitExpiry s fun t => s.coil.Fits → t.coil.Fits := by
  refine ⟨_, rfl, fun h => ?_⟩
  have ready : (takeExpiry (s.due.contains .tallyWaitExpiry) 7 .delay (s.take .tallyWaitExpiry)).coil.Fits :=
    CoilBuilder.Fits.of_only (s := s.take .tallyWaitExpiry) h (takeExpiry_only _ _ _ _)
  split
  · rename_i r hr
    exact iteInduction (motive := fun v : State => v.coil.Fits)
      (fun _ => judgeAfterGathering_fits (sealClosing_fits ready (expire_fits (ready.closing r hr)))) fun _ => ready
  · exact ready

theorem keepReport_fits (coil : BitVec 32) (kept : Bool) :
    Completes (.keepReport coil kept) s fun t => s.coil.Fits → t.coil.Fits :=
  ⟨_, rfl, fun h => takeKeepReport_fits (s := s.take (.keepReport coil kept)) h _ _⟩

theorem supplyNotice_fits : Completes .supplyNotice s fun t => s.coil.Fits → t.coil.Fits := by
  refine ⟨_, rfl, fun h => ?_⟩
  have taken : (s.take .supplyNotice).coil.Fits := h
  split
  · exact taken
  · exact sealSupply_fits ((endSupply_fits (sealGathering_fits taken)).of_only (clearCoilEnd_only _))

theorem programHeaderComplete_fits : Completes (.programHeaderComplete wear) s fun t => s.coil.Fits → t.coil.Fits := by
  refine ⟨_, rfl, fun h => ?_⟩
  split
  · exact (runOp_fits (s := s.takeLike isCompletion) wear h _).of_only (endOp_only _)
  · exact h

theorem keepComplete_fits : Completes (.keepComplete wear) s fun t => s.coil.Fits → t.coil.Fits := by
  refine ⟨_, rfl, fun h => ?_⟩
  split
  case h_1 coil step retry left _ =>
    have ran := runOp_fits (s := s.takeLike isCompletion) wear h ⟨.keep coil, step, retry, left⟩
    split
    case h_1 s1 kept _ hran =>
      rw [hran] at ran
      exact ran.of_only ((emit_only s1 _).after (l := [.due, .meter, .line, .store]) (endOp_only _))
    case h_2 => exact CoilBuilder.Fits.of_only (s := s.takeLike isCompletion) h (endOp_only _)
  case h_2 => exact h

theorem lostCompletion_fits : Completes (.lostCompletion wear) s fun t => s.coil.Fits → t.coil.Fits := by
  refine ⟨_, rfl, fun h => ?_⟩
  split
  case h_1 p step retry left _ =>
    have ran := runOp_fits (s := s.takeLike isCompletion) wear h ⟨.lostRecord p, step, retry, left⟩
    dsimp only
    split
    · exact ran.of_only ((withStore_only _ _).trans (beginOp_only _ _))
    · exact ran.of_only ((endOp_only _).step (emit_only _ _))
  case h_2 => exact h

theorem commitComplete_fits : Completes (.commitComplete wear) s fun t => s.coil.Fits → t.coil.Fits := by
  refine ⟨_, rfl, fun h => ?_⟩
  split
  case h_1 image source step retry left _ =>
    exact (runOp_fits (s := s.takeLike isCompletion) wear h ⟨.commit image source, step, retry, left⟩).of_only
      (endOp_reply_only _ _ _ _)
  case h_2 => exact h

end

/-- A command that changes the coil builder's slots keeps R137, and every other leaves them alone. -/
theorem exec_fits (c : Instr) (s : State) : Completes c s fun t => s.coil.Fits → t.coil.Fits := by
  cases c with
  | reset station commission torn => exact (reset_fits s station commission torn).imp fun t ht _ => ht
  | encoderTransition e line1 line2 => exact encoderTransition_fits s e line1 line2
  | coilRunningEntry => exact coilRunningEntry_fits s
  | cutRequest => exact cutRequest_fits s
  | restTimerExpiry => exact restTimerExpiry_fits s
  | cutDriveStart => exact cutDriveStart_fits s
  | cutPulseExpiry => exact cutPulseExpiry_fits s
  | cutTimerExpiry => exact cutTimerExpiry_fits s
  | cutDone => exact cutDone_fits s
  | segmentStatisticsAnswer coil part => exact segmentStatisticsAnswer_fits s coil part
  | reasonNotice code station stopped => exact reasonNotice_fits s code station stopped
  | splice => exact splice_fits s
  | markSpliceReceived station => exact markSpliceReceived_fits s station
  | markCutReceived station coil => exact markCutReceived_fits s station coil
  | target source length => exact target_fits s source length
  | tallyReceived station y => exact tallyReceived_fits s station y
  | tallyWaitExpiry => exact tallyWaitExpiry_fits s
  | keepReport coil kept => exact keepReport_fits s coil kept
  | supplyNotice => exact supplyNotice_fits s
  | programHeaderComplete wear => exact programHeaderComplete_fits s wear
  | keepComplete wear => exact keepComplete_fits s wear
  | lostCompletion wear => exact lostCompletion_fits s wear
  | commitComplete wear => exact commitComplete_fits s wear
  | _ => exact (exec_only _ s).imp fun t ho h => h.of_only ho

theorem endStepByTime_fits (f : InFlight) (h : s.coil.Fits) : (endStepByTime f s).coil.Fits := by
  have ended := endStep_fits s.world.wear h f
  unfold endStepByTime
  split <;> rename_i heq
  · rw [heq] at ended
    exact ended
  · exact h

theorem idle_fits (s : State) (h : s.coil.Fits) : (idle s).coil.Fits := by
  unfold idle
  split
  · exact h.of_only (giveExpiry_only s _ _)
  · have ticked : s.coilTicked.coil.Fits := by
      have before : s.supplyTicked.coil.Fits := h.of_only (supplyTicked_extends s).1
      rw [coilTicked_eq, tickCoil_coil]
      exact ⟨before.opened, before.closing, before.held⟩
    rw [tick_eq, tickStore]
    split
    · exact iteInduction (motive := fun v : State => v.coil.Fits) (fun _ => endStepByTime_fits _ ticked) fun _ => ticked
    · exact ticked

/-- Settles O9: each of the two is kept by every command and by time. -/
theorem memoryStaysCanonical : Obligations.MemoryStaysCanonical := by
  refine ⟨fun _ _ => step_keeps exec_canonical idle_canonical fun _ _ h => h, fun s t h ht => ?_⟩
  exact recordsFit_iff.2 (step_keeps (P := fun s => s.coil.Fits) exec_fits idle_fits (fun _ _ h => h) (recordsFit_iff.1 h) ht)

end Sys2Proof.Machine
end

section
/-! SUPPORT. The notice of entering RUNNING at the coil builder (R138, R148): a coil that opens, and the claim about it. -/

namespace Sys2Proof.Machine

-- One declaration at a time, as in the frames: side by side these proofs ask for more threads than the memory limit allows.
set_option Elab.async false

variable {s : State} {n : Nat}

/-- The node with a record of the next number in its OPEN slot, before the header is handed over (R138). -/
def coilOpened (n : Nat) (s : State) : State :=
  (convertFlag s.lineLength s).withCoil { s.coil with openSlot := some (newRecord s n), next := nextCoil n }

theorem openCoil_of_some (hn : s.coil.next = some n) :
    openCoil s = enqueue (.programHeader n (headerBytes (newRecord s n))) (coilOpened n s) := by
  unfold openCoil
  rw [hn]
  rfl

theorem openCoil_of_none (hn : s.coil.next = none) : openCoil s = s.emit [.coilHoldSet] := by
  unfold openCoil
  rw [hn]

section
variable (hn : s.coil.next = some n)
include hn

theorem openCoil_slots : (openCoil s).coil = { s.coil with openSlot := some (newRecord s n), next := nextCoil n } := by
  rw [openCoil_of_some hn]
  exact (enqueue_only _ _).coil_eq

theorem openCoil_handed : HandedToStore (.programHeader n (headerBytes (newRecord s n))) (openCoil s) := by
  rw [openCoil_of_some hn]
  exact enqueue_handed _ _ trivial

/-- A coil that opens at a negative line length converts it (R29; log entry 45). -/
theorem openCoil_flagged (h : s.lineLength < 0) : Flagged .rng .convert s (openCoil s) := by
  rw [openCoil_of_some hn]
  exact Flagged.enqueue (t := coilOpened n s) ((convertFlag_flagged h s).kept rfl rfl fun _ he => he) _

end

theorem openCoil_meter (h : 0 ≤ s.lineLength ∨ s.coil.next = none) : (openCoil s).meter = s.meter := by
  cases hn : s.coil.next with
  | none => rw [openCoil_of_none hn]; rfl
  | some n =>
    have length : 0 ≤ s.lineLength := h.resolve_right (by simp [hn])
    rw [openCoil_of_some hn, coilOpened, convertFlag_of_nonneg length]
    exact enqueue_meter _ (.inl length)

theorem exec_coilRunningEntry (hb : s.begun = true) : exec .coilRunningEntry s = .next (
    if s.settings.coil = true then
      if s.coil.openSlot.isNone = true then openCoil (s.take .coilRunningEntry) else s.take .coilRunningEntry
    else if s.coil.tally.begun = true then s.take .coilRunningEntry
    else (s.take .coilRunningEntry).withCoil { s.coil with
      tally := { s.coil.tally with begun := true, startLength := s.lineLength, halts := 0 } }) := by
  change execCoilRunningEntry s = _
  simp only [execCoilRunningEntry, State.take_begun, hb, Bool.not_true, Bool.false_eq_true, if_false]
  rfl

/-- Settles O47: a COIL node with its OPEN slot taken, with its numbers exhausted and with a number left; and a node without COIL. -/
theorem runningOpensACoil : Obligations.RunningOpensACoil := by
  intro s hb
  have hx := exec_coilRunningEntry hb
  set s0 := s.take .coilRunningEntry with hs0
  obtain ⟨t, ht, only⟩ := coilRunningEntry_only s
  refine ⟨t, ht, ?_⟩
  rw [hx] at ht
  cases ht
  dsimp only at only ⊢
  by_cases hc : s.settings.coil = true
  · rw [if_pos hc] at only ⊢
    cases ho : s.coil.openSlot with
    | some r =>
      rw [if_neg (by simp [ho])] at only ⊢
      exact ⟨only, rfl, fun h => by simp at h, fun _ => ⟨rfl, rfl⟩, fun _ _ _ => ⟨rfl, rfl⟩,
        fun _ h => by simp at h, fun _ _ h => by simp at h, by simp [hc]⟩
    | none =>
      rw [if_pos (by simp [ho])] at only ⊢
      obtain ⟨-, meter, -⟩ := openCoil_kept s0
      have unflagged (h : 0 ≤ s.lineLength ∨ s.coil.next = none) : Unflagged s (openCoil s0) := .of_meter (openCoil_meter (s := s0) h)
      refine ⟨only, meter, fun h hl => ?_, fun h => unflagged ?_, fun _ _ h => by simp at h, fun _ _ hn => ?_, fun n _ _ hn => ?_,
        by simp [hc]⟩
      · obtain ⟨n, hn⟩ := Option.ne_none_iff_exists'.1 h.2.2
        exact (openCoil_flagged (s := s0) hn hl).before rfl rfl
      · exact h.symm.imp id fun h => by simpa [hc] using h
      · rw [openCoil_of_none (s := s0) hn]
        exact ⟨rfl, List.mem_append_right _ (List.mem_singleton_self _)⟩
      · exact ⟨newRecord s0 n, openCoil_slots (s := s0) hn, rfl, rfl, rfl, rfl, rfl, rfl, rfl, rfl, rfl, rfl, rfl, rfl, rfl, rfl, rfl,
          rfl, rfl, rfl, rfl, openCoil_handed (s := s0) hn⟩
  · rw [if_neg hc] at only ⊢
    refine ⟨only, ?_, fun h => absurd h.1 hc, fun _ => ?_, fun _ h => absurd h hc, fun h => absurd h hc, fun _ h => absurd h hc,
      fun _ => ?_⟩
    all_goals split
    · rfl
    · rfl
    · exact ⟨rfl, rfl⟩
    · exact ⟨rfl, rfl⟩
    · exact ⟨rfl, rfl⟩
    · exact ⟨rfl, rfl⟩

end Sys2Proof.Machine
end

section
/-! SUPPORT. A keep report (R145, R153, R154): which slot it is for, what a slot that empties lets in, and the claim about it. -/

namespace Sys2Proof.Machine

-- One declaration at a time, as in the frames: side by side these proofs ask for more threads than the memory limit allows.
set_option Elab.async false

variable {s : State} {r q : CoilRecord} {coil : Nat} {kept : Bool}

/-! ### The coil hold (R139) -/

theorem coilHoldClear_mem_clearHold (h : s.coil.next ≠ none) : .coilHoldClear ∈ (clearHold s).due := by
  rw [clearHold, if_pos (Option.isSome_iff_ne_none.2 h)]
  exact List.mem_append_right _ (List.mem_singleton_self _)

theorem clearHold_coil (s : State) : (clearHold s).coil = s.coil := (clearHold_only s).coil_eq

/-! ### A CLOSING slot that empties (R145) -/

theorem closingEmptied_of_not (h : ∀ q, s.coil.openSlot = some q → q.state ≠ .ended) : closingEmptied s = s := by
  unfold closingEmptied
  split
  · exact if_neg (h _ ‹_›)
  · rfl

theorem closingEmptied_of_ended (hq : s.coil.openSlot = some q) (he : q.state = .ended) : closingEmptied s = closeUp q s := by
  unfold closingEmptied
  rw [hq]
  exact if_pos he

theorem gatheredOrSealed_closingSlot (q : CoilRecord) (s : State) : ∃ c, (gatheredOrSealed q s).coil.closingSlot = some c ∧
    c.coil = q.coil ∧ c.segment = q.segment := by
  unfold gatheredOrSealed
  split
  · exact ⟨q.sealedBy s, by rw [sealClosing_coil], rfl, rfl⟩
  · exact ⟨q, rfl, rfl, rfl⟩

theorem HandedToStore.openCoil {op : StoreOp} (hop : ∀ b source, op ≠ .eraseBank b source) (h : HandedToStore op s) :
    HandedToStore op (openCoil s) := by
  cases hn : s.coil.next with
  | none =>
    rw [openCoil_of_none hn]
    exact h.of_store rfl
  | some n =>
    rw [openCoil_of_some hn]
    refine HandedToStore.enqueue hop (h.of_store (t := coilOpened n s) ?_) _
    exact (convertFlag_only s _).2 .store (by decide)

/-- The record that closes up stands in the CLOSING slot, and the HELD slot and what the store has stay (R144, R145). -/
theorem closeUp_closes (r : CoilRecord) (s : State) : let t := closeUp r s
    (∃ c, t.coil.closingSlot = some c ∧ c.coil = r.coil ∧ c.segment = r.segment) ∧ t.coil.heldSlot = s.coil.heldSlot ∧
      ∀ {op}, (∀ b source, op ≠ .eraseBank b source) → HandedToStore op s → HandedToStore op t := by
  rw [closeUp_eq]
  set u := openedAfterCut (cutMarked r s) with hu
  obtain ⟨-, -, -, slots, stays⟩ := gatheredOrSealed_kept (listContributors u { r with state := .gathering }) u
  refine ⟨gatheredOrSealed_closingSlot _ _, ?_, fun hop h => stays hop ?_⟩
  · rw [slots, hu, openedAfterCut_coil, cutMarked_coil]
  · have marked : HandedToStore _ (cutMarked r s) := h.of_store ((cutMarked_only r s).2 .store (by decide))
    refine HandedToStore.of_store (s := openCoil (cutMarked r s)) ?_ ((afterOpen_extends _).1.2 .store (by decide))
    exact marked.openCoil hop

/-! ### The slot of a report (R153, R154) -/

theorem slotHolds_false {slot : Option CoilRecord} (h : slot.all (fun q => q.coil != coil) = true) : slotHolds slot coil = false := by
  cases slot with
  | none => rfl
  | some q =>
    have other : q.coil ≠ coil := by simpa using h
    simp [slotHolds, other]

theorem takeKeepReport_of_held (hh : s.coil.heldSlot = some r) (hc : r.coil = coil) (hs : r.state = .held) :
    takeKeepReport coil kept s = if kept = true then heldEmptied (s.setHeld none) else s :=
  if_pos (by simp [slotHolds, hh, hc, hs])

section
variable (hheld : s.coil.heldSlot.all (fun q => q.coil != coil) = true) (hc : r.coil = coil) (hs : r.state = .sealing)
include hheld hc hs

theorem takeKeepReport_of_closing (hr : s.coil.closingSlot = some r) :
    takeKeepReport coil kept s = if kept = true then closingEmptied (s.setClosing none) else notKeptClosing r s := by
  have mine : slotHolds s.coil.closingSlot coil = true := by simp [slotHolds, hr, hc, hs]
  unfold takeKeepReport
  rw [slotHolds_false hheld, mine, hr]
  cases kept <;> rfl

theorem takeKeepReport_of_open (hnone : s.coil.closingSlot = none) (hr : s.coil.openSlot = some r) :
    takeKeepReport coil kept s = if kept = true then clearHold (s.setOpen none) else notKeptOpen r s := by
  have mine : slotHolds s.coil.openSlot coil = true := by simp [slotHolds, hr, hc, hs]
  have other : slotHolds s.coil.closingSlot coil = false := by rw [hnone]; rfl
  unfold takeKeepReport
  rw [slotHolds_false hheld, other, mine, hr]
  cases kept <;> rfl

end

/-! ### A record not kept (R154) -/

theorem notKeptClosing_of_free (h : s.coil.heldSlot = none) : notKeptClosing r s =
    closingEmptied (s.withCoil { s.coil with closingSlot := none, heldSlot := some r.asHeld }) := if_pos (by rw [h]; rfl)

theorem notKeptClosing_of_taken (h : s.coil.heldSlot ≠ none) : notKeptClosing r s =
    (s.setClosing (some { r with heldBack := true })).emit [.raiseCause .store] := if_neg (by simpa using h)

theorem notKeptOpen_of_free (h : s.coil.heldSlot = none) : notKeptOpen r s =
    clearHold (s.withCoil { s.coil with openSlot := none, heldSlot := some r.asHeld }) := if_pos (by rw [h]; rfl)

theorem notKeptOpen_of_taken (h : s.coil.heldSlot ≠ none) : notKeptOpen r s =
    (s.setOpen (some { r with heldBack := true })).emit [.raiseCause .store] := if_neg (by simpa using h)

/-! ### A HELD slot that empties (R154, R161) -/

theorem heldEmptied_of_closing (hr : s.coil.closingSlot = some r) (hb : r.heldBack = true) : heldEmptied s =
    closingEmptied (queueOffer (s.withCoil { s.coil with closingSlot := none, heldSlot := some r.asHeld })) := by
  unfold heldEmptied
  rw [hr]
  exact if_pos hb

theorem heldEmptied_of_not_closing (h : ∀ r, s.coil.closingSlot = some r → r.heldBack = false) :
    heldEmptied s = heldEmptied.heldFromOpen s := by
  unfold heldEmptied
  split
  · exact if_neg (by simp [h _ ‹_›])
  · rfl

theorem heldFromOpen_of (hr : s.coil.openSlot = some r) (hb : r.heldBack = true) : heldEmptied.heldFromOpen s =
    clearHold (queueOffer (s.withCoil { s.coil with openSlot := none, heldSlot := some r.asHeld })) := by
  unfold heldEmptied.heldFromOpen
  rw [hr]
  exact if_pos hb

theorem heldFromOpen_of_not (h : ∀ r, s.coil.openSlot = some r → r.heldBack = false) : heldEmptied.heldFromOpen s = s := by
  unfold heldEmptied.heldFromOpen
  split
  · exact if_neg (by simp [h _ ‹_›])
  · rfl

theorem mem_offerInto_self (ops : List StoreOp) (op : StoreOp) : op ∈ offerInto ops op := by
  unfold offerInto
  split
  · exact List.mem_cons_self
  · exact List.mem_append_right _ List.mem_cons_self

/-- A record in the HELD slot that the store has not kept is offered, or its keep is with the store already (R161). -/
theorem queueOffer_handed (hr : s.coil.heldSlot = some r) (hk : s.recordKept r = false) :
    HandedToStore (.keep r.coil) (queueOffer s) := by
  by_cases hp : s.keepPending r.coil = true
  · refine HandedToStore.queueOffer (by simp) ?_
    simp only [State.keepPending, Bool.or_eq_true, List.any_eq_true, Option.any_eq_true, beq_iff_eq] at hp
    obtain ⟨op, hop, rfl⟩ | ⟨f, hf, hop⟩ := hp
    · exact .inr hop
    · exact .inl ⟨f, hf, hop⟩
  · have offered : .keep r.coil ∈ s.offerHeld := by
      unfold State.offerHeld
      simp only [hr, hk, hp, Bool.or_self, Bool.false_eq_true, if_false]
      exact mem_offerInto_self _ _
    unfold queueOffer
    dsimp only
    split
    · exact startNext_handed (by simp) s offered
    · exact .inr offered

theorem queueOffer_coil (s : State) : (queueOffer s).coil = s.coil := (queueOffer_only s).coil_eq

/-- Settles O53: the slot that the report is for, and what moves into a slot that empties. -/
theorem keepReportsEmptyTheSlots : Obligations.KeepReportsEmptyTheSlots := by
  refine ⟨fun coil kept r s hc hs hheld => ?_, fun coil kept h s hc hs hh => ?_⟩
  · intro held back waits
    set s0 := s.take (.keepReport coil kept) with hs0
    have closing (hr : s.coil.closingSlot = some r) := takeKeepReport_of_closing (s := s0) (kept := kept) hheld hc hs hr
    have opened (hn : s.coil.closingSlot = none) (hr : s.coil.openSlot = some r) :=
      takeKeepReport_of_open (s := s0) (kept := kept) hheld hc hs hn hr
    refine ⟨takeKeepReport coil.toNat kept s0, rfl, (take_only s _).after (takeKeepReport_only s0 _ _), fun hr hw hk => ?_,
      fun hr hw hk hn => ?_, fun hr hk hn => ?_, fun q hr hq he hk => ?_, fun hn hr hk => ?_, fun hn hr hk hf => ?_,
      fun hn hr hk hf => ?_⟩
    · rw [closing hr, if_pos hk, closingEmptied_of_not (s := s0.setClosing none) fun q hq he => hw ⟨q, hq, he⟩]
      rfl
    · rw [closing hr, if_neg (by simp [hk]), notKeptClosing_of_free (s := s0) hn,
        closingEmptied_of_not (s := s0.withCoil { s0.coil with closingSlot := none, heldSlot := some r.asHeld })
          fun q hq he => hw ⟨q, hq, he⟩]
      rfl
    · rw [closing hr, if_neg (by simp [hk]), notKeptClosing_of_taken (s := s0) hn]
      exact ⟨rfl, List.mem_append_right _ (List.mem_singleton_self _)⟩
    · rw [closing hr, if_pos hk, closingEmptied_of_ended (s := s0.setClosing none) hq he]
      exact (closeUp_closes q _).1
    · rw [opened hn hr, if_pos hk, clearHold_coil]
      exact ⟨rfl, fun hx => coilHoldClear_mem_clearHold (s := s0.setOpen none) hx⟩
    · rw [opened hn hr, if_neg (by simp [hk]), notKeptOpen_of_free (s := s0) hf, clearHold_coil]
      exact ⟨rfl, fun hx => coilHoldClear_mem_clearHold (s := s0.withCoil _) hx⟩
    · rw [opened hn hr, if_neg (by simp [hk]), notKeptOpen_of_taken (s := s0) hf]
      exact ⟨rfl, List.mem_append_right _ (List.mem_singleton_self _)⟩
  · intro moved offered fromClosing fromOpen
    set s0 := s.take (.keepReport coil kept) with hs0
    have report := takeKeepReport_of_held (s := s0) (kept := kept) hh hc hs
    refine ⟨takeKeepReport coil.toNat kept s0, rfl, (take_only s _).after (takeKeepReport_only s0 _ _), fun hk => ?_,
      fun hk hcl hop => ?_, fun r hk hr hb => ?_, fun r hk hcl hr hb => ?_⟩
    · rw [report, if_neg (by simp [hk])]
      exact ⟨rfl, rfl, rfl⟩
    · rw [report, if_pos hk, heldEmptied_of_not_closing (s := s0.setHeld none) fun q hq => by simpa using fun hb => hcl ⟨q, hq, hb⟩,
        heldFromOpen_of_not (s := s0.setHeld none) fun q hq => by simpa using fun hb => hop ⟨q, hq, hb⟩]
      exact ⟨rfl, rfl⟩
    · set u := queueOffer ((s0.setHeld none).withCoil
        { (s0.setHeld none).coil with closingSlot := none, heldSlot := some r.asHeld }) with hu
      have slots : u.coil = { s.coil with closingSlot := none, heldSlot := some (moved r) } := queueOffer_coil _
      have offer : offered r u := fun hkept => queueOffer_handed (r := r.asHeld) rfl hkept
      rw [report, if_pos hk, heldEmptied_of_closing (s := s0.setHeld none) hr hb, ← hu]
      by_cases he : ∃ q, s.coil.openSlot = some q ∧ q.state = .ended
      · obtain ⟨q, hq, he⟩ := he
        obtain ⟨closes, holds, stays⟩ := closeUp_closes q u
        rw [closingEmptied_of_ended (s := u) (by rw [slots]; exact hq) he]
        refine ⟨by rw [holds, slots], fun hkept => stays (by simp) (offer hkept), fun hno => absurd he (hno q hq), fun q' hq' _ => ?_⟩
        cases hq.symm.trans hq'
        exact closes
      · rw [closingEmptied_of_not (s := u) fun q hq he' => he ⟨q, by rw [slots] at hq; exact hq, he'⟩]
        exact ⟨by rw [slots], offer, fun _ => slots, fun q hq he' => absurd ⟨q, hq, he'⟩ he⟩
    · rw [report, if_pos hk, heldEmptied_of_not_closing (s := s0.setHeld none) fun q hq => by simpa using fun hb => hcl ⟨q, hq, hb⟩,
        heldFromOpen_of (s := s0.setHeld none) hr hb, clearHold_coil, queueOffer_coil]
      refine ⟨rfl, fun hkept => ?_, fun hx => coilHoldClear_mem_clearHold ?_⟩
      · have offer := queueOffer_handed (s := (s0.setHeld none).withCoil
          { (s0.setHeld none).coil with openSlot := none, heldSlot := some r.asHeld }) (r := r.asHeld) rfl hkept
        exact offer.of_store ((clearHold_only _).2 .store (by decide))
      · rw [queueOffer_coil]
        exact hx

end Sys2Proof.Machine
end

section
/-! SUPPORT. Tallies and own parts at the record that gathers (R144, R150 to R153): what a merge makes of the record, what the merge that
ends the gathering does, and the claim about them. -/

namespace Sys2Proof.Machine

-- One declaration at a time, as in the frames: side by side these proofs ask for more threads than the memory limit allows.
set_option Elab.async false

variable {s : State} {r q g : CoilRecord}

/-! ### A merge (R151) -/

/-- A record's twist part once the twist part of a tally, if it has one, is merged. -/
def mergedTwist (a : Option TwistMerge) : Option TwistTotals → Option TwistMerge
  | none => a
  | some u => some (mergeTwist a u)

/-- A record's knot part once the knot part of a tally, if it has one, is merged. -/
def mergedKnot (a : Option KnotCounts) : Option KnotCounts → Option KnotCounts
  | none => a
  | some u => some (mergeKnot a u)

/-- The entry of a station whose tally is merged. -/
def Contributor.filledFrom (y : Tally) (c : Contributor) : Contributor :=
  { c with status := .received, halts := y.halts.toNat, flags := y.flags, origin := y.origin }

theorem mergeTally_eq (station : Station) (y : Tally) (r : CoilRecord) : mergeTally station y r = { r with
    twist := mergedTwist r.twist y.twist
    knot := mergedKnot r.knot y.knot
    flags := r.flags.union y.flags
    contributors := r.contributors.map fun d => if d.station = station then d.filledFrom y else d } := by
  unfold mergeTally mergeParts changeContributor
  cases y.twist <;> cases y.knot <;> rfl

theorem layWindowsOf_of_le {u : TwistTotals} (h : u.stalled ≤ u.windows) : layWindowsOf u = u.windows - u.stalled := if_pos h

/-- The mean's sum and its windows take part only where the part has a mean. -/
theorem mergeTwist_mean (a : Option TwistMerge) (u : TwistTotals) :
    (u.meanLay = none → (mergeTwist a u).sumLay = (a.getD .zero).sumLay ∧ (mergeTwist a u).layWindows = (a.getD .zero).layWindows) ∧
    (∀ mean, u.meanLay = some mean → u.stalled ≤ u.windows →
      (mergeTwist a u).sumLay = (a.getD .zero).sumLay + mean * (u.windows - u.stalled) ∧
      (mergeTwist a u).layWindows = (a.getD .zero).layWindows + (u.windows - u.stalled)) := by
  refine ⟨fun h => ?_, fun mean h hle => ?_⟩
  · simp only [mergeTwist, h, and_self]
  · simp only [mergeTwist, h, layWindowsOf_of_le hle, and_self]

/-! ### A tally taken (R150) -/

section
variable {station : Station} {y : Tally} {c : Contributor}

theorem gatherTally_of_expected (hf : r.contributors.find? (fun c => c.station == station) = some c) (hc : c.status = .expected) :
    gatherTally station y r = mergeTally station y r := by
  unfold gatherTally
  rw [hf]
  exact if_pos hc

theorem gatherTally_of_taken (hf : r.contributors.find? (fun c => c.station == station) = some c) (hc : c.status ≠ .expected) :
    gatherTally station y r = r := by
  unfold gatherTally
  rw [hf]
  exact if_neg hc

theorem gatherTally_of_full (hf : r.contributors.find? (fun c => c.station == station) = none) (hl : 15 ≤ r.contributors.length) :
    gatherTally station y r = r := by
  unfold gatherTally
  rw [hf]
  exact if_neg (by omega)

theorem map_filledFrom_of_absent {k : List Contributor} (hf : k.find? (fun c => c.station == station) = none) :
    (k.map fun d => if d.station = station then d.filledFrom y else d) = k := by
  refine (List.map_congr_left fun d hd => if_neg ?_).trans (List.map_id _)
  simpa using List.find?_eq_none.1 hf d hd

theorem map_filledFrom_append {k : List Contributor} (hf : k.find? (fun c => c.station == station) = none) :
    ((k ++ [{ ownContributor station with listed := false }]).map fun d : Contributor =>
      if d.station = station then d.filledFrom y else d) =
      k ++ [⟨station, false, .received, y.halts.toNat, y.flags, y.origin⟩] := by
  rw [List.map_append, map_filledFrom_of_absent hf, List.map_singleton]
  exact congrArg (fun c => k ++ [c]) (if_pos rfl)

theorem gatherTally_of_absent (hf : r.contributors.find? (fun c => c.station == station) = none) (hl : r.contributors.length < 15) :
    gatherTally station y r = { r with
      twist := mergedTwist r.twist y.twist
      knot := mergedKnot r.knot y.knot
      flags := r.flags.union y.flags
      contributors := r.contributors ++ [⟨station, false, .received, y.halts.toNat, y.flags, y.origin⟩] } := by
  unfold gatherTally
  rw [hf]
  refine (if_pos hl).trans ?_
  rw [mergeTally_eq, map_filledFrom_append hf]

end

/-! ### An own part taken (R144 step 2) -/

theorem settleOwn_eq (station : Station) (r : CoilRecord) : settleOwn station r = { r with
    contributors := if r.awaitTwist || r.awaitKnot then r.contributors else
      r.contributors.map fun c => if c.station = station then { c with status := .received, halts := r.ownHalts } else c } := by
  unfold settleOwn changeContributor
  split <;> rfl

/-- The own entry is settled once no part is awaited. -/
theorem settledContributors {k m : List Contributor} {a b : Bool} : (a = true ∨ b = true → (if (a || b) = true then k else m) = k) ∧
    (a = false → b = false → (if (a || b) = true then k else m) = m) :=
  ⟨fun h => if_pos (Bool.or_eq_true_iff.2 h), fun ha hb => if_neg (by simp [ha, hb])⟩

section
variable (station : Station) (r : CoilRecord)

theorem takeOwnPart_twist (u : TwistTotals) : takeOwnPart station (.twist u) r =
    settleOwn station { r with twist := some (mergeTwist r.twist u), awaitTwist := false } := rfl

theorem takeOwnPart_knot (u : KnotCounts) : takeOwnPart station (.knot u) r =
    settleOwn station { r with knot := some (mergeKnot r.knot u), awaitKnot := false } := rfl

theorem takeOwnPart_coil (p : SegmentPart) : (takeOwnPart station p r).coil = r.coil := by
  cases p with
  | twist u => rw [takeOwnPart_twist, settleOwn_eq]
  | knot u => rw [takeOwnPart_knot, settleOwn_eq]

end

/-! ### A seal that ends a gathering (R142, R152, R153) -/

theorem gathered_iff : g.gathered = true ↔ ∀ c ∈ g.contributors, c.status ≠ .expected := by
  simp [CoilRecord.gathered]

theorem judgeAfterGathering_cuts (hq : s.coil.openSlot = some q) (he : q.state = .ending) (hc : s.cutMayStart = true) :
    judgeAfterGathering s = startWaitingCut q s := by
  unfold judgeAfterGathering
  rw [hq]
  exact if_pos ⟨he, hc⟩

theorem judgeAfterGathering_stays (h : ∀ q, s.coil.openSlot = some q → q.state ≠ .ending ∨ s.cutMayStart = false) :
    judgeAfterGathering s = s := by
  unfold judgeAfterGathering
  split
  · rename_i q hq
    refine if_neg fun ⟨he, hc⟩ => ?_
    obtain h | h := h q hq
    · exact h he
    · rw [h] at hc
      cases hc
  · rfl

/-- After a seal of the CLOSING slot's record nothing gathers, so a waiting cut turns on the line alone. -/
theorem cutMayStart_sealClosing (g : CoilRecord) (s : State) : (sealClosing g s).cutMayStart = s.meter.atRest := by
  have rest : (sealClosing g s).meter.atRest = s.meter.atRest := congrArg (·.atRest) (sealClosing_sealed g s).meter
  rw [State.cutMayStart, sealClosing_coil, rest]
  exact Bool.and_true _

/-- The seal that ends a gathering: the record's keep is at the store, the record stands SEALING with the node's own flags and origin, the
arithmetic status is clear where no pace part goes out, and a cut that waits for the gathering starts where the line is at rest. -/
structure GatheringSealed (g : CoilRecord) (s t : State) : Prop where
  kept : HandedToStore (.keep g.coil) t
  slot : t.coil.closingSlot = some (g.sealedBy s)
  clear : s.settings.pacePublish = false → t.meter.flags = clearFlags ∧ t.meter.origin = .none
  cuts : ∀ q, s.coil.openSlot = some q → q.state = .ending → s.meter.atRest = true →
    t.coil.openSlot = some { q with state := .cutting } ∧ t.coil.restLeft = none ∧ .coilHoldSet ∈ t.due ∧
      .channelStartRequest 7 (cutStart s.settings) ∈ t.due
  stays : (∀ q, s.coil.openSlot = some q → q.state ≠ .ending ∨ s.meter.atRest = false) →
    t.coil.openSlot = s.coil.openSlot ∧ t.coil.restLeft = s.coil.restLeft
  due : s.due ⊆ t.due

theorem quiet_of_unpublished (h : s.settings.pacePublish = false) : Quiet s := .inr (by simp [State.publishes, h])

theorem gatheringSealed (g : CoilRecord) (s : State) : GatheringSealed g s (judgeAfterGathering (sealClosing g s)) := by
  have sealing := sealClosing_sealed g s
  have coil := sealClosing_coil g s
  have rest := cutMayStart_sealClosing g s
  have settings : (sealClosing g s).settings = s.settings := (sealClosing_only s g).settings_eq
  have slots : (sealClosing g s).coil.openSlot = s.coil.openSlot := congrArg (·.openSlot) coil
  by_cases h : ∃ q, s.coil.openSlot = some q ∧ q.state = .ending ∧ s.meter.atRest = true
  · obtain ⟨q, hq, he, hr⟩ := h
    rw [judgeAfterGathering_cuts (slots.trans hq) he (rest.trans hr)]
    refine ⟨sealing.kept.of_store rfl, congrArg (·.closingSlot) coil, fun h => sealing.clear (quiet_of_unpublished h),
      fun q' hq' _ _ => ?_, fun h => ?_, ?_⟩
    · cases hq.symm.trans hq'
      refine ⟨rfl, rfl, List.mem_append_right _ (List.mem_singleton_self _), List.mem_append_left _ ?_⟩
      rw [← settings]
      exact List.mem_append_right _ (List.mem_singleton_self _)
    · obtain h | h := h q hq
      · exact absurd he h
      · rw [hr] at h
        cases h
    · exact List.Subset.trans sealing.due (List.Subset.trans (List.subset_append_left _ _) (List.subset_append_left _ _))
  · rw [judgeAfterGathering_stays fun q hq => ?_]
    · exact ⟨sealing.kept, congrArg (·.closingSlot) coil, fun h => sealing.clear (quiet_of_unpublished h),
        fun q hq he hr => absurd ⟨q, hq, he, hr⟩ h, fun _ => ⟨slots, congrArg (·.restLeft) coil⟩, sealing.due⟩
    · rw [rest]
      by_cases he : q.state = .ending
      · exact .inr (Bool.eq_false_iff.2 fun hr => h ⟨q, slots.symm.trans hq, he, hr⟩)
      · exact .inl he

/-- What a merge does with the record it leaves: the record goes on gathering, or CH7 stops and the record is sealed (R152). -/
def gatherInto (g : CoilRecord) (s : State) : State :=
  if g.gathered then judgeAfterGathering (sealClosing g (s.emit [.channelStopRequest 7])) else s.setClosing (some g)

theorem gatherInto_of_waiting (h : ∃ c ∈ g.contributors, c.status = .expected) : gatherInto g s = s.setClosing (some g) :=
  if_neg fun hg => let ⟨c, hc, he⟩ := h; gathered_iff.1 hg c hc he

theorem gatherInto_of_gathered (h : ∀ c ∈ g.contributors, c.status ≠ .expected) :
    gatherInto g s = judgeAfterGathering (sealClosing g (s.emit [.channelStopRequest 7])) := if_pos (gathered_iff.2 h)

/-! ### The commands -/

section
variable (station : Station) (y : Tally)

/-- Whether the CLOSING slot's record gathers for a coil. -/
def State.gathersFor (s : State) (coil : Nat) (r : CoilRecord) : Prop :=
  s.coil.closingSlot = some r ∧ r.coil = coil ∧ r.state = .gathering

theorem exec_tallyReceived_gathered (hn : s.coilNode = true) (h : s.gathersFor y.coil.toNat r) :
    exec (.tallyReceived station y) s = .next (gatherInto (gatherTally station y r) (s.take (.tallyReceived station y))) := by
  obtain ⟨hr, hc, hg⟩ := h
  change execTallyReceived station y s = _
  simp only [execTallyReceived, State.take_coilNode, State.take_coil, hn, hr, hc, hg, Bool.not_true, Bool.false_eq_true, and_self,
    if_true, if_false]
  rfl

theorem exec_tallyReceived_late (hn : s.coilNode = true) (h : ∀ r, ¬ s.gathersFor y.coil.toNat r) :
    exec (.tallyReceived station y) s = .next (execTallyReceived.late (s.take (.tallyReceived station y))) := by
  change execTallyReceived station y s = _
  simp only [execTallyReceived, State.take_coilNode, State.take_coil, hn, Bool.not_true, Bool.false_eq_true, if_false]
  split
  · rename_i r hr
    rw [if_neg fun hg => h r ⟨hr, hg⟩]
  · rfl

theorem late_of_logs (hq : s.coil.openSlot = some q) (hl : q.state.logs = true) :
    execTallyReceived.late s = s.setOpen (some { q with lateCount := holdInc 65535 q.lateCount }) := by
  unfold execTallyReceived.late
  rw [hq]
  exact if_pos hl

theorem late_of_not (h : ∀ q, s.coil.openSlot = some q → q.state.logs = false) : execTallyReceived.late s = s := by
  unfold execTallyReceived.late
  split
  · exact if_neg (by simp [h _ ‹_›])
  · rfl

end

section
variable {coil : BitVec 32} (part : SegmentPart)

theorem exec_segmentStatisticsAnswer_gathered (hn : s.coilNode = true) (h : s.gathersFor coil.toNat r)
    (ho : ∀ q, s.coil.openSlot = some q → q.coil ≠ coil.toNat) : exec (.segmentStatisticsAnswer coil part) s =
      .next (gatherInto (takeOwnPart s.station part r) (s.take (.segmentStatisticsAnswer coil part))) := by
  obtain ⟨hr, hc, hg⟩ := h
  obtain ⟨hb, hcoil⟩ := Bool.and_eq_true_iff.1 hn
  have answered : execSegmentStatisticsAnswer.answerClosing coil part (some r) (s.take (.segmentStatisticsAnswer coil part)) =
      gatherInto (takeOwnPart s.station part r) (s.take (.segmentStatisticsAnswer coil part)) := if_pos ⟨hc, hg⟩
  change execSegmentStatisticsAnswer coil part s = _
  simp only [execSegmentStatisticsAnswer, State.take_begun, State.take_coil, State.take_settings, hb, hcoil, hr, Bool.not_true,
    Bool.false_eq_true, if_true, if_false]
  cases hq : s.coil.openSlot with
  | none => exact congrArg _ answered
  | some q => exact congrArg _ ((if_neg fun h => ho q hq h.1).trans answered)

theorem exec_segmentStatisticsAnswer_ended (hn : s.coilNode = true) (hq : s.coil.openSlot = some q) (hc : q.coil = coil.toNat)
    (he : q.state = .ended) : exec (.segmentStatisticsAnswer coil part) s =
      .next ((s.take (.segmentStatisticsAnswer coil part)).setOpen (some (takeOwnPart s.station part q))) := by
  obtain ⟨hb, hcoil⟩ := Bool.and_eq_true_iff.1 hn
  change execSegmentStatisticsAnswer coil part s = _
  simp only [execSegmentStatisticsAnswer, State.take_begun, State.take_coil, State.take_settings, hb, hcoil, hq, hc, he, Bool.not_true,
    Bool.false_eq_true, and_self, if_true, if_false]
  rfl

end

theorem exec_tallyWaitExpiry_gathering (hr : s.coil.closingSlot = some r) (hg : r.state = .gathering) :
    let u := takeExpiry (s.due.contains .tallyWaitExpiry) 7 .delay (s.take .tallyWaitExpiry)
    exec .tallyWaitExpiry s = .next (judgeAfterGathering (sealClosing r.expire u)) := by
  intro u
  have coil : u.coil = s.coil := (takeExpiry_only (s := s.take .tallyWaitExpiry) _ _ _).coil_eq
  change execTallyWaitExpiry s = _
  unfold execTallyWaitExpiry
  change Host.Outcome.next (match u.coil.closingSlot with
    | some r => if r.state = RecordState.gathering then judgeAfterGathering (sealClosing r.expire u) else u
    | none => u) = _
  rw [coil, hr]
  exact congrArg _ (if_pos hg)

/-! ### The claim -/

/-- A record of the CLOSING slot left as it stood. -/
theorem setClosing_coil_of_same (hr : s.coil.closingSlot = some r) : (s.setClosing (some r)).coil = s.coil := by
  rw [← hr]
  rfl

/-- Settles O50: a tally that is late; a tally merged, ignored or appended; an own part for the CLOSING and for the OPEN slot; and the
tally wait's end. -/
theorem talliesAreGathered : Obligations.TalliesAreGathered := by
  refine ⟨fun station y s hb hc hnot => ?_, fun station y part r s hb hc hr hg => ?_⟩
  · intro making
    have node : s.coilNode = true := Bool.and_eq_true_iff.2 ⟨hb, hc⟩
    have logs (q : CoilRecord) : making q ↔ q.state.logs = true := by cases h : q.state <;> simp [making, h, RecordState.logs]
    have other : ∀ r, ¬ s.gathersFor y.coil.toNat r := fun r ⟨hr, hcoil, hg⟩ => (hnot r hr).elim (· hg) (· hcoil)
    refine ⟨_, exec_tallyReceived_late station y node other, (take_only s (.tallyReceived station y)).after ?_, fun q hq hm => ?_,
      fun h => ?_⟩
    · unfold execTallyReceived.late
      split
      · exact .ite (setOpen_only _ _).grow (.refl _ _)
      · exact .refl _ _
    · rw [late_of_logs (s := s.take _) hq ((logs q).1 hm)]
      rfl
    · rw [late_of_not (s := s.take _) fun q hq => Bool.eq_false_iff.2 fun hl => h q hq ((logs q).2 hl)]
      rfl
  · intro entry add least greatest twisted knotted seals settles merges owned filled waits
    have node : s.coilNode = true := Bool.and_eq_true_iff.2 ⟨hb, hc⟩
    have twists (a : Option TwistMerge) (u : TwistTotals) : twisted a u (some (mergeTwist a u)) :=
      ⟨_, rfl, rfl, rfl, rfl, rfl, rfl, rfl, mergeTwist_mean a u⟩
    have knots (a : Option KnotCounts) (u : KnotCounts) : knotted a u (some (mergeKnot a u)) := rfl
    have sealed (g : CoilRecord) (u : State) (hcoil : g.coil = r.coil) (hm : u.meter = s.meter) (ho : u.coil = s.coil)
        (hset : u.settings = s.settings) (hst : u.startRec = s.startRec) : seals g (judgeAfterGathering (sealClosing g u)) := by
      obtain ⟨kept, slot, clear, cuts, stays, -⟩ := gatheringSealed g u
      rw [CoilRecord.sealedBy, CoilRecord.withOwnFlags, State.station, hm, hst] at slot
      rw [hset] at clear
      rw [ho, hset, hm] at cuts
      rw [ho, hm] at stays
      exact ⟨hcoil ▸ kept, slot, clear, cuts, stays⟩
    have settle (g : CoilRecord) (e : Instr) (hcoil : g.coil = r.coil) : settles g (gatherInto g (s.take e)) := by
      refine ⟨fun h => ?_, fun h => ?_⟩
      · rw [gatherInto_of_waiting h]
        exact ⟨rfl, rfl⟩
      · rw [gatherInto_of_gathered h]
        exact ⟨sealed g _ hcoil rfl rfl rfl rfl, (gatheringSealed g _).due (List.mem_append_right _ (List.mem_singleton_self _))⟩
    have own (q : CoilRecord) : owned q (takeOwnPart s.station part q) := by
      cases part with
      | twist u =>
        rw [takeOwnPart_twist, settleOwn_eq]
        refine ⟨rfl, fun v hv => ?_, fun v hv => (by cases hv), settledContributors.1, settledContributors.2⟩
        cases hv
        exact ⟨twists _ _, rfl, rfl, rfl⟩
      | knot u =>
        rw [takeOwnPart_knot, settleOwn_eq]
        refine ⟨rfl, fun v hv => (by cases hv), fun v hv => ?_, settledContributors.1, settledContributors.2⟩
        cases hv
        exact ⟨knots _ _, rfl, rfl, rfl⟩
    have merge (g : CoilRecord) (e : Instr) (entries : List Contributor) (hg : g = { r with
        twist := mergedTwist r.twist y.twist
        knot := mergedKnot r.knot y.knot
        flags := r.flags.union y.flags
        contributors := entries }) : merges entries (gatherInto g (s.take e)) := by
      subst hg
      refine ⟨_, rfl, fun h => ?_, fun u h => ?_, fun h => ?_, fun u h => ?_, settle _ e rfl⟩ <;> dsimp only <;> rw [h]
      · rfl
      · exact twists _ _
      · rfl
      · exact knots _ _
    have toNat {c : Nat} (h : c < 4294967296) : (BitVec.ofNat 32 c).toNat = c := by simpa using Nat.mod_eq_of_lt h
    refine ⟨?_, fun hlt => ?_, fun q hq he hlt => ?_, ?_⟩
    · obtain ⟨t, ht, only⟩ := tallyReceived_only s station y
      have gathers (h : y.coil.toNat = r.coil) : t = gatherInto (gatherTally station y r) (s.take (.tallyReceived station y)) := by
        rw [exec_tallyReceived_gathered station y node ⟨hr, h.symm, hg⟩] at ht
        cases ht
        rfl
      have ignored (h : y.coil.toNat = r.coil) (hx : gatherTally station y r = r) (hw : waits) : t.coil = s.coil := by
        rw [gathers h, hx, gatherInto_of_waiting hw]
        exact setClosing_coil_of_same (s := s.take _) hr
      refine ⟨t, ht, only, fun c h hf he => ?_, fun c h hf he => ignored h (gatherTally_of_taken hf he), fun h hf hl => ?_,
        fun h hf hl => ignored h (gatherTally_of_full hf hl)⟩
      · rw [gathers h, gatherTally_of_expected hf he]
        exact merge _ _ _ (mergeTally_eq _ _ _)
      · rw [gathers h, gatherTally_of_absent hf hl]
        exact merge _ _ _ rfl
    · obtain ⟨t, ht, only⟩ := segmentStatisticsAnswer_only s (BitVec.ofNat 32 r.coil) part
      refine ⟨t, ht, only, fun ho => ⟨takeOwnPart s.station part r, own r, ?_⟩⟩
      rw [exec_segmentStatisticsAnswer_gathered part node ⟨hr, (toNat hlt).symm, hg⟩ (by rwa [toNat hlt])] at ht
      cases ht
      exact settle _ _ (takeOwnPart_coil _ _ _)
    · exact ⟨_, exec_segmentStatisticsAnswer_ended part node hq (toNat hlt).symm he, (take_only s _).after (setOpen_only _ _).grow,
        _, own q, rfl⟩
    · set u := takeExpiry (s.due.contains .tallyWaitExpiry) 7 .delay (s.take .tallyWaitExpiry)
      have expired : Only [.due, .channels] s u := (take_only s _).after (takeExpiry_only _ _ _ _)
      obtain ⟨t, ht, only⟩ := tallyWaitExpiry_only s
      refine ⟨t, ht, only, ?_⟩
      rw [exec_tallyWaitExpiry_gathering hr hg] at ht
      cases ht
      exact sealed r.expire u rfl expired.meter_eq expired.coil_eq expired.settings_eq expired.startRec_eq

end Sys2Proof.Machine
end

section
/-! SUPPORT. The bytes of a record's sector (Table 10-9): where each field of the header and the body stands, and what it carries. -/

namespace Sys2Proof.Machine

-- One declaration at a time, as in the frames: side by side these proofs ask for more threads than the memory limit allows.
set_option Elab.async false

/-! ### Bytes that stand at a place -/

/-- Bytes that stand at a place of a longer list. -/
def HoldsAt (b : List Byte) (i : Nat) (x : List Byte) : Prop := (b.drop i).take x.length = x

theorem holdsAt_self (b : List Byte) : HoldsAt b 0 b := List.take_length

section
variable {b x y : List Byte} {i j k n : Nat} {v : Byte}

theorem holdsAt_append : HoldsAt b i (x ++ y) ↔ HoldsAt b i x ∧ HoldsAt b (i + x.length) y := by
  unfold HoldsAt
  rw [List.length_append, List.take_add, List.drop_drop]
  refine ⟨fun h => List.append_inj h ?_, fun ⟨hx, hy⟩ => by rw [hx, hy]⟩
  have total := congrArg List.length h
  simp only [List.length_append, List.length_take, List.length_drop] at total ⊢
  omega

theorem holdsAt_cons_cons {u : Byte} : HoldsAt b i (u :: v :: x) ↔ HoldsAt b i [u] ∧ HoldsAt b (i + 1) (v :: x) :=
  holdsAt_append (x := [u]) (y := v :: x)

theorem HoldsAt.getElem? (h : HoldsAt b i x) (hj : j < x.length) : b[i + j]? = x[j]? := by
  conv_rhs => rw [← h]
  rw [List.getElem?_take_of_lt hj, List.getElem?_drop]

theorem HoldsAt.byte (h : HoldsAt b i x) (hj : j < x.length) : byteAt b (i + j) = byteAt x j := by
  simp only [Machine.byteAt, List.getD_eq_getElem?_getD, h.getElem? hj]

/-- The number that `k` bytes at a place carry. -/
def numberAt (b : List Byte) (i k : Nat) : Nat := natBE ((b.drop i).take k)

theorem HoldsAt.number (h : HoldsAt b i x) (hk : x.length = k) : numberAt b i k = natBE x := by rw [numberAt, ← hk, h]

theorem HoldsAt.replicate (h : HoldsAt b i (List.replicate k v)) : ∀ j, i ≤ j → j < i + k → Machine.byteAt b j = v := by
  intro j hlo hhi
  have here := h.byte (j := j - i) (by rw [List.length_replicate]; omega)
  rw [Nat.add_sub_cancel' hlo] at here
  rw [here]
  simp only [Machine.byteAt, List.getD_eq_getElem?_getD, List.getElem?_replicate_of_lt (show j - i < k by omega), Option.getD_some]

theorem HoldsAt.padTo (h : HoldsAt b i (padTo n x)) (hx : x.length ≤ n) :
    HoldsAt b i x ∧ ∀ j, i + x.length ≤ j → j < i + n → Machine.byteAt b j = 0xFF := by
  obtain ⟨front, back⟩ := holdsAt_append.1 h
  exact ⟨front, fun j hlo hhi => back.replicate j hlo (by omega)⟩

/-- An entry of a list whose entries are all of one size. -/
theorem HoldsAt.entry {α : Type} {f : α → List Byte} {w : Nat} (hw : ∀ a, (f a).length = w) {l : List α} (h : HoldsAt b i (l.flatMap f))
    {m : Nat} {a : α} (hm : l[m]? = some a) : HoldsAt b (i + w * m) (f a) := by
  induction l generalizing i m with
  | nil => simp at hm
  | cons c l ih =>
    obtain ⟨first, rest⟩ := holdsAt_append.1 (List.flatMap_cons ▸ h)
    cases m with
    | zero =>
      rw [List.getElem?_cons_zero, Option.some_inj] at hm
      exact hm ▸ first
    | succ m =>
      have next := ih rest hm
      rw [hw] at next
      rwa [show i + w * (m + 1) = i + w + w * m by ring]

theorem flatMap_length {α : Type} {f : α → List Byte} {w : Nat} (hw : ∀ a, (f a).length = w) (l : List α) :
    (l.flatMap f).length = w * l.length := by
  induction l with
  | nil => rfl
  | cons a l ih =>
    rw [List.flatMap_cons, List.length_append, hw, ih, List.length_cons]
    ring

theorem padTo_length (h : x.length ≤ n) : (padTo n x).length = n := by
  rw [padTo, List.length_append, List.length_replicate]
  omega

end

/-! ### The numbers that fields carry -/

theorem bytesBE_length (k n : Nat) : (bytesBE k n).length = k := by
  induction k with
  | zero => rfl
  | succ k ih => rw [bytesBE, List.length_cons, ih]

theorem foldl_bytesBE (k n m : Nat) : (bytesBE k n).foldl (fun n b => n * 256 + b.toNat) m = m * 256 ^ k + n % 256 ^ k := by
  induction k generalizing m with
  | zero => simp [bytesBE, Nat.mod_one]
  | succ k ih =>
    rw [bytesBE, List.foldl_cons, ih, BitVec.toNat_ofNat, pow_succ 256 k, Nat.mod_mul (x := n)]
    ring

theorem natBE_bytesBE (k n : Nat) : natBE (bytesBE k n) = n % 256 ^ k := by
  rw [natBE, foldl_bytesBE, zero_mul, zero_add]

theorem natBE_singleton (v : Byte) : natBE [v] = v.toNat := by
  rw [natBE, List.foldl_cons, List.foldl_nil, zero_mul, zero_add]

theorem natBE_crcBytes (c : BitVec 16) : natBE (crcBytes c) = c.toNat := by
  rw [crcBytes, natBE_bytesBE]
  exact Nat.mod_eq_of_lt c.isLt

theorem optZero_length (k : Nat) (v : Option Nat) : (optZero k v).length = k := bytesBE_length _ _

theorem optOnes_length (k : Nat) (v : Option Nat) : (optOnes k v).length = k := by
  cases v with
  | none => exact List.length_replicate
  | some n => exact bytesBE_length _ _

theorem crcBytes_length (c : BitVec 16) : (crcBytes c).length = 2 := bytesBE_length _ _

section
variable {b : List Byte} {i k n : Nat} {v : Byte}

theorem HoldsAt.field (h : HoldsAt b i (bytesBE k n)) : numberAt b i k = n % 256 ^ k := by
  rw [h.number (bytesBE_length _ _), natBE_bytesBE]

theorem HoldsAt.one (h : HoldsAt b i [v]) : numberAt b i 1 = v.toNat := by
  rw [h.number (k := 1) rfl, natBE_singleton]

theorem HoldsAt.at (h : HoldsAt b i [v]) : byteAt b i = v := h.byte (j := 0) Nat.one_pos

theorem HoldsAt.ofNat (h : HoldsAt b i [BitVec.ofNat 8 n]) : numberAt b i 1 = n % 256 := by
  rw [h.one, BitVec.toNat_ofNat]

end

/-! ### The bits of a byte of flags -/

/-- The four bits of a byte that carry arithmetic flags. -/
def FlagsIn (v : Byte) (f : ArithFlags) : Prop := v.getLsbD 3 = f.ovf ∧ v.getLsbD 2 = f.unf ∧ v.getLsbD 1 = f.dvz ∧ v.getLsbD 0 = f.rng

theorem endReasonCode_lt (e : Option EndReason) : endReasonCode e < 256 := by
  cases e with
  | none => decide
  | some e => cases e <;> decide

theorem flag_bits (f : ArithFlags) : let v : Byte := BitVec.ofNat 8 (flagNibble f)
    FlagsIn v f ∧ v.toNat < 16 := by
  obtain ⟨ovf, unf, dvz, rng⟩ := f
  unfold FlagsIn
  revert ovf unf dvz rng
  decide

theorem status_bits (c : ContributorStatus) (f : ArithFlags) : let v : Byte := BitVec.ofNat 8 (c.code * 64 + flagNibble f)
    FlagsIn v f ∧ v.toNat / 64 = c.code := by
  obtain ⟨ovf, unf, dvz, rng⟩ := f
  unfold FlagsIn
  cases c <;> revert ovf unf dvz rng <;> decide

theorem presence_bits (cut twist knot : Bool) :
    let v : Byte := BitVec.ofNat 8 ((if cut then 128 else 0) + (if twist then 64 else 0) + (if knot then 32 else 0))
    v.getLsbD 7 = cut ∧ v.getLsbD 6 = twist ∧ v.getLsbD 5 = knot ∧ v.toNat % 32 = 0 := by
  revert cut twist knot
  decide

theorem listed_bits (listed : Bool) (station : Station) : let v : Byte := BitVec.ofNat 8 ((if listed then 128 else 0) + station.val)
    v.getLsbD 7 = listed ∧ v.toNat % 128 = station.val := by
  revert listed station
  decide

/-! ### The lengths of the parts -/

theorem haltNoteBytes_length (h : HaltNote) : (haltNoteBytes h).length = 7 := by
  simp [haltNoteBytes, bytesBE_length]

theorem contributorBytes_length (c : Contributor) : (contributorBytes c).length = 4 := rfl

theorem twistPartBytes_length (t : TwistTotals) : (twistPartBytes t).length = 25 := by
  simp [twistPartBytes, bytesBE_length, optZero_length]

theorem knotPartBytes_length (k : KnotCounts) : (knotPartBytes k).length = 32 := by
  simp [knotPartBytes, bytesBE_length]

theorem headerFields_length (r : CoilRecord) : (headerFields r).length = 16 := by
  simp [headerFields, bytesBE_length]

theorem headerBytes_length (r : CoilRecord) : (headerBytes r).length = 32 := by
  simp [headerBytes, headerFields_length, crcBytes_length]

/-- The twist part of a record's body. -/
def CoilRecord.twistBytes (r : CoilRecord) : List Byte := (r.twist.map fun t => twistPartBytes t.totals).getD (List.replicate 25 0)

/-- The knot part of a record's body. -/
def CoilRecord.knotBytes (r : CoilRecord) : List Byte := (r.knot.map knotPartBytes).getD (List.replicate 32 0)

theorem twistBytes_length (r : CoilRecord) : r.twistBytes.length = 25 := by
  unfold CoilRecord.twistBytes
  cases r.twist with
  | none => exact List.length_replicate
  | some t => exact twistPartBytes_length _

theorem knotBytes_length (r : CoilRecord) : r.knotBytes.length = 32 := by
  unfold CoilRecord.knotBytes
  cases r.knot with
  | none => exact List.length_replicate
  | some k => exact knotPartBytes_length _

section
variable {r : CoilRecord} (h : RecordFits r)
include h

theorem haltList_length : (r.halts.flatMap haltNoteBytes).length ≤ 56 := by
  rw [flatMap_length haltNoteBytes_length]
  exact Nat.mul_le_mul_left 7 h.1

theorem spliceList_length : (r.splices.flatMap (bytesBE 4)).length ≤ 32 := by
  rw [flatMap_length (bytesBE_length 4)]
  exact Nat.mul_le_mul_left 4 h.2.1

theorem contributorList_length : (r.contributors.flatMap contributorBytes).length ≤ 60 := by
  rw [flatMap_length contributorBytes_length]
  exact Nat.mul_le_mul_left 4 h.2.2

theorem bodyFields_length : (bodyFields r).length = 221 := by
  have twist := twistBytes_length r
  have knot := knotBytes_length r
  unfold CoilRecord.twistBytes at twist
  unfold CoilRecord.knotBytes at knot
  simp only [bodyFields, List.length_append, List.length_cons, List.length_nil, bytesBE_length, optOnes_length, twist, knot,
    padTo_length (haltList_length h), padTo_length (spliceList_length h), padTo_length (contributorList_length h)]

theorem bodyBytes_length : (bodyBytes r).length = 224 := by
  simp only [bodyBytes, List.length_append, bodyFields_length h, crcBytes_length, List.length_singleton]

end

/-! ### Table 10-9 -/

section
variable {b : List Byte} {i : Nat}

theorem holdsAt_haltNote {h : HaltNote} (hb : HoldsAt b i (haltNoteBytes h)) : HoldsAt b i [h.code] ∧
    HoldsAt b (i + 1) [BitVec.ofNat 8 h.station.val] ∧ HoldsAt b (i + 2) (bytesBE 4 h.offset) ∧ HoldsAt b (i + 6) [boolByte h.stopped] := by
  obtain ⟨front, stopped⟩ := holdsAt_append.1 hb
  obtain ⟨front, offset⟩ := holdsAt_append.1 front
  obtain ⟨code, station⟩ := (holdsAt_append (x := [_])).1 front
  refine ⟨code, station, offset, ?_⟩
  rwa [List.length_append, bytesBE_length] at stopped

theorem holdsAt_contributor {c : Contributor} (hb : HoldsAt b i (contributorBytes c)) :
    HoldsAt b i [BitVec.ofNat 8 ((if c.listed then 128 else 0) + c.station.val)] ∧
    HoldsAt b (i + 1) [BitVec.ofNat 8 (c.status.code * 64 + flagNibble c.flags)] ∧ HoldsAt b (i + 2) [BitVec.ofNat 8 c.halts] ∧
    HoldsAt b (i + 3) [c.origin] := by
  obtain ⟨listed, rest⟩ := holdsAt_cons_cons.1 hb
  obtain ⟨status, rest⟩ := holdsAt_cons_cons.1 rest
  obtain ⟨halts, origin⟩ := holdsAt_cons_cons.1 rest
  exact ⟨listed, status, halts, origin⟩

/-- Where the parts of a header stand, and the fields that its check covers. -/
theorem header_layout {r : CoilRecord} {y : List Byte} (hb : b = headerBytes r ++ y) :
    HoldsAt b 0 (headerFields r) ∧ HoldsAt b 16 [0xFF] ∧ HoldsAt b 17 (crcBytes (crc (headerFields r ++ List.replicate 13 0xFF))) ∧
    HoldsAt b 19 (List.replicate 13 0xFF) ∧ HoldsAt b 32 y := by
  have all := hb ▸ holdsAt_self b
  rw [hb]
  simpa only [headerBytes, List.append_assoc, holdsAt_append, headerFields_length, crcBytes_length, List.length_singleton,
    List.length_replicate, Nat.reduceAdd] using all

theorem headerFields_layout {r : CoilRecord} (h : HoldsAt b 0 (headerFields r)) : HoldsAt b 0 [0xA5] ∧
    HoldsAt b 1 [BitVec.ofNat 8 r.station.val] ∧ HoldsAt b 2 [BitVec.ofNat 8 r.group] ∧ HoldsAt b 3 [if r.net then 2 else 1] ∧
    HoldsAt b 4 (bytesBE 4 r.coil) ∧ HoldsAt b 8 (bytesBE 4 r.startLength) ∧ HoldsAt b 12 (bytesBE 4 r.target) := by
  simpa only [headerFields, holdsAt_append, holdsAt_cons_cons, List.length_append, List.length_cons, List.length_nil, bytesBE_length,
    Nat.reduceAdd, and_assoc] using h

/-- The bytes that a header's check covers: its fields and the thirteen bytes after the check. -/
theorem header_covered {r : CoilRecord} (head : HoldsAt b 0 (headerFields r)) (tail : HoldsAt b 19 (List.replicate 13 0xFF)) :
    b.take 16 ++ (b.drop 19).take 13 = headerFields r ++ List.replicate 13 0xFF := by
  unfold HoldsAt at head tail
  rw [headerFields_length, List.drop_zero] at head
  rw [List.length_replicate] at tail
  rw [head, tail]

/-- Where the parts of a body stand, and the fields that its check covers. -/
theorem body_layout {r : CoilRecord} (h : RecordFits r) (hb : HoldsAt b 32 (bodyBytes r)) : HoldsAt b 32 (bodyFields r) ∧
    HoldsAt b 253 (crcBytes (crc (bodyFields r))) ∧ HoldsAt b 255 [sealedMarker] := by
  simpa only [bodyBytes, holdsAt_append, List.length_append, bodyFields_length h, crcBytes_length, Nat.reduceAdd, and_assoc] using hb

theorem bodyFields_layout {r : CoilRecord} (h : RecordFits r) (hb : HoldsAt b 32 (bodyFields r)) :
    (HoldsAt b 32 [BitVec.ofNat 8 (endReasonCode r.endReason)] ∧
      HoldsAt b 33 [BitVec.ofNat 8 ((if r.cutDriven then 128 else 0) + (if r.twist.isSome then 64 else 0) +
        (if r.knot.isSome then 32 else 0))] ∧ HoldsAt b 34 (optOnes 4 r.segment)) ∧
    (HoldsAt b 38 (bytesBE 2 r.haltCount) ∧ HoldsAt b 40 (bytesBE 2 r.spliceCount) ∧ HoldsAt b 42 (bytesBE 1 r.ownHalts) ∧
      HoldsAt b 43 (bytesBE 2 r.lateCount)) ∧
    (HoldsAt b 45 [BitVec.ofNat 8 (flagNibble r.flags)] ∧
      HoldsAt b 46 [BitVec.ofNat 8 (r.halts.length * 16 + r.splices.length)]) ∧
    (HoldsAt b 47 (padTo 56 (r.halts.flatMap haltNoteBytes)) ∧ HoldsAt b 103 (padTo 32 (r.splices.flatMap (bytesBE 4)))) ∧
    (HoldsAt b 135 r.twistBytes ∧ HoldsAt b 160 r.knotBytes) ∧
    HoldsAt b 192 [BitVec.ofNat 8 r.contributors.length] ∧ HoldsAt b 193 (padTo 60 (r.contributors.flatMap contributorBytes)) := by
  have fields : bodyFields r = [BitVec.ofNat 8 (endReasonCode r.endReason),
      BitVec.ofNat 8 ((if r.cutDriven then 128 else 0) + (if r.twist.isSome then 64 else 0) + (if r.knot.isSome then 32 else 0))] ++
    optOnes 4 r.segment ++ bytesBE 2 r.haltCount ++ bytesBE 2 r.spliceCount ++ bytesBE 1 r.ownHalts ++ bytesBE 2 r.lateCount ++
    [BitVec.ofNat 8 (flagNibble r.flags), BitVec.ofNat 8 (r.halts.length * 16 + r.splices.length)] ++
    padTo 56 (r.halts.flatMap haltNoteBytes) ++ padTo 32 (r.splices.flatMap (bytesBE 4)) ++ r.twistBytes ++ r.knotBytes ++
    [BitVec.ofNat 8 r.contributors.length] ++ padTo 60 (r.contributors.flatMap contributorBytes) := rfl
  rw [fields] at hb
  simpa only [holdsAt_append, holdsAt_cons_cons, List.length_append, List.length_cons, List.length_nil, bytesBE_length, optOnes_length,
    twistBytes_length, knotBytes_length, padTo_length (haltList_length h), padTo_length (spliceList_length h), Nat.reduceAdd,
    and_assoc] using hb

theorem twistBytes_layout {r : CoilRecord} {w : TwistMerge} (hw : r.twist = some w) (hb : HoldsAt b i r.twistBytes) :
    HoldsAt b i (bytesBE 4 w.windows) ∧ HoldsAt b (i + 4) (bytesBE 4 w.outOfBand) ∧ HoldsAt b (i + 8) (bytesBE 4 w.stalled) ∧
    HoldsAt b (i + 12) (bytesBE 4 w.layFaults) ∧ HoldsAt b (i + 16) (bytesBE 3 (w.minLay.getD 0)) ∧
    HoldsAt b (i + 19) (bytesBE 3 (w.maxLay.getD 0)) ∧
    HoldsAt b (i + 22) (bytesBE 3 (if w.layWindows = 0 then 0 else w.sumLay / w.layWindows)) := by
  have mean : w.totals.meanLay.getD 0 = if w.layWindows = 0 then 0 else w.sumLay / w.layWindows := by
    unfold TwistMerge.totals
    split <;> rfl
  rw [CoilRecord.twistBytes, hw, Option.map_some, Option.getD_some] at hb
  rw [← mean]
  simp only [twistPartBytes, optZero, holdsAt_append, List.length_append, bytesBE_length, Nat.reduceAdd, and_assoc] at hb
  exact hb

theorem knotBytes_layout {r : CoilRecord} {w : KnotCounts} (hw : r.knot = some w) (hb : HoldsAt b i r.knotBytes) :
    HoldsAt b i (bytesBE 4 w.sampledRows) ∧ HoldsAt b (i + 4) (bytesBE 4 w.unseenRows) ∧ HoldsAt b (i + 8) (bytesBE 4 w.inchRows) ∧
    HoldsAt b (i + 12) (bytesBE 4 w.missedKnots) ∧ HoldsAt b (i + 16) (bytesBE 4 w.headFaults) ∧
    HoldsAt b (i + 20) (bytesBE 4 w.meshWindows) ∧ HoldsAt b (i + 24) (bytesBE 4 w.meshOutOfBand) ∧
    HoldsAt b (i + 28) (bytesBE 4 w.meshFaults) := by
  rw [CoilRecord.knotBytes, hw] at hb
  simpa only [Option.map_some, Option.getD_some, knotPartBytes, holdsAt_append, List.length_append, bytesBE_length, Nat.reduceAdd,
    and_assoc] using hb

/-! ### What the parts carry -/

theorem HoldsAt.station {station : Station} (h : HoldsAt b i [BitVec.ofNat 8 station.val]) : numberAt b i 1 = station.val :=
  h.ofNat.trans (Nat.mod_eq_of_lt (station.isLt.trans (by decide)))

theorem HoldsAt.check {c : BitVec 16} (h : HoldsAt b i (crcBytes c)) : numberAt b i 2 = c.toNat :=
  (h.number (crcBytes_length _)).trans (natBE_crcBytes _)

theorem HoldsAt.bit {v : Byte} (h : HoldsAt b i [v]) (k : Nat) : (byteAt b i).getLsbD k = v.getLsbD k := congrArg (·.getLsbD k) h.at

theorem HoldsAt.flags {v : Byte} {f : ArithFlags} (h : HoldsAt b i [v]) (hv : FlagsIn v f) : FlagsIn (byteAt b i) f := h.at ▸ hv

theorem header_numbers {r : CoilRecord} (h : HoldsAt b 0 (headerFields r)) : numberAt b 0 1 = 0xA5 ∧ numberAt b 1 1 = r.station.val ∧
    numberAt b 2 1 = r.group % 256 ∧ numberAt b 3 1 = (if r.net = true then 2 else 1) ∧ numberAt b 4 4 = r.coil % 4294967296 ∧
    numberAt b 8 4 = r.startLength % 4294967296 ∧ numberAt b 12 4 = r.target % 4294967296 := by
  obtain ⟨magic, station, group, net, coil, start, target⟩ := headerFields_layout h
  refine ⟨magic.one, station.station, group.ofNat, net.one.trans ?_, coil.field, start.field, target.field⟩
  split <;> rfl

theorem haltNote_numbers {h : HaltNote} (hb : HoldsAt b (47 + 7 * i) (haltNoteBytes h)) : numberAt b (47 + 7 * i) 1 = h.code.toNat ∧
    numberAt b (48 + 7 * i) 1 = h.station.val ∧ numberAt b (49 + 7 * i) 4 = h.offset % 4294967296 ∧
    numberAt b (53 + 7 * i) 1 = if h.stopped = true then 1 else 0 := by
  obtain ⟨code, station, offset, stopped⟩ := holdsAt_haltNote hb
  have place (k : Nat) : 47 + 7 * i + k = 47 + k + 7 * i := by ring
  rw [place] at station offset stopped
  refine ⟨code.one, station.station, offset.field, stopped.one.trans ?_⟩
  cases h.stopped <;> rfl

theorem contributor_numbers {c : Contributor} (hb : HoldsAt b (193 + 4 * i) (contributorBytes c)) :
    ((byteAt b (193 + 4 * i)).getLsbD 7 = c.listed ∧ numberAt b (193 + 4 * i) 1 % 128 = c.station.val) ∧
    (numberAt b (194 + 4 * i) 1 / 64 = c.status.code ∧ FlagsIn (byteAt b (194 + 4 * i)) c.flags) ∧
    numberAt b (195 + 4 * i) 1 = c.halts % 256 ∧ byteAt b (196 + 4 * i) = c.origin := by
  obtain ⟨listed, status, halts, origin⟩ := holdsAt_contributor hb
  have place (k : Nat) : 193 + 4 * i + k = 193 + k + 4 * i := by ring
  rw [place] at status halts origin
  obtain ⟨listedBit, stationBits⟩ := listed_bits c.listed c.station
  obtain ⟨flagBits, statusBits⟩ := status_bits c.status c.flags
  exact ⟨⟨(listed.bit 7).trans listedBit, (congrArg (· % 128) listed.one).trans stationBits⟩,
    ⟨(congrArg (· / 64) status.one).trans statusBits, status.flags flagBits⟩, halts.ofNat, origin.at⟩

theorem twist_numbers {r : CoilRecord} {w : TwistMerge} (hw : r.twist = some w) (hb : HoldsAt b 135 r.twistBytes) :
    numberAt b 135 4 = w.windows % 4294967296 ∧ numberAt b 139 4 = w.outOfBand % 4294967296 ∧
    numberAt b 143 4 = w.stalled % 4294967296 ∧ numberAt b 147 4 = w.layFaults % 4294967296 ∧
    numberAt b 151 3 = w.minLay.getD 0 % 16777216 ∧ numberAt b 154 3 = w.maxLay.getD 0 % 16777216 ∧
    numberAt b 157 3 = if w.layWindows = 0 then 0 else w.sumLay / w.layWindows % 16777216 := by
  obtain ⟨windows, out, stalled, faults, least, greatest, mean⟩ := twistBytes_layout hw hb
  refine ⟨windows.field, out.field, stalled.field, faults.field, least.field, greatest.field, mean.field.trans ?_⟩
  split <;> rfl

theorem knot_numbers {r : CoilRecord} {w : KnotCounts} (hw : r.knot = some w) (hb : HoldsAt b 160 r.knotBytes) :
    numberAt b 160 4 = w.sampledRows % 4294967296 ∧ numberAt b 164 4 = w.unseenRows % 4294967296 ∧
    numberAt b 168 4 = w.inchRows % 4294967296 ∧ numberAt b 172 4 = w.missedKnots % 4294967296 ∧
    numberAt b 176 4 = w.headFaults % 4294967296 ∧ numberAt b 180 4 = w.meshWindows % 4294967296 ∧
    numberAt b 184 4 = w.meshOutOfBand % 4294967296 ∧ numberAt b 188 4 = w.meshFaults % 4294967296 := by
  obtain ⟨sampled, unseen, inch, missed, heads, windows, out, faults⟩ := knotBytes_layout hw hb
  exact ⟨sampled.field, unseen.field, inch.field, missed.field, heads.field, windows.field, out.field, faults.field⟩

/-- A part that is absent reads as noughts. -/
theorem absent_noughts {r : CoilRecord} (ht : HoldsAt b 135 r.twistBytes) (hk : HoldsAt b 160 r.knotBytes) :
    (r.twist = none → ∀ j, 135 ≤ j → j < 160 → byteAt b j = 0) ∧ (r.knot = none → ∀ j, 160 ≤ j → j < 192 → byteAt b j = 0) := by
  refine ⟨fun h => ?_, fun h => ?_⟩
  · rw [CoilRecord.twistBytes, h] at ht
    exact ht.replicate
  · rw [CoilRecord.knotBytes, h] at hk
    exact hk.replicate

theorem segment_number {r : CoilRecord} (h : HoldsAt b 34 (optOnes 4 r.segment)) :
    (∀ l, r.segment = some l → numberAt b 34 4 = l % 4294967296) ∧ (r.segment = none → ∀ j, 34 ≤ j → j < 38 → byteAt b j = 0xFF) := by
  refine ⟨fun l hl => ?_, fun hn => ?_⟩
  · rw [hl] at h
    exact h.field
  · rw [hn] at h
    exact h.replicate

/-- The bytes that a body's check covers. -/
theorem body_covered {r : CoilRecord} (fits : RecordFits r) (h : HoldsAt b 32 (bodyFields r)) : (b.drop 32).take 221 = bodyFields r := by
  rw [← bodyFields_length fits]
  exact h

end

end Sys2Proof.Machine
end

section
/-! SUPPORT. The search for a header's sector (R160), and an offer of the HELD slot's record (R161): what each case of the search
leaves, what FULL is judged by, and where the offer stands. -/

namespace Sys2Proof.Machine

-- One declaration at a time, as in the frames: side by side these proofs ask for more threads than the memory limit allows.
set_option Elab.async false

variable {s t : State}

/-! ### The judgments of a bank (R160) -/

/-- The bank that a header search judges first: the write pointer's where the pointer stands at its first sector, and else the next one. -/
def State.searchBank (s : State) : Nat :=
  if s.store.pointer % 16 = 0 then s.store.pointer / 16 else nextBank (s.store.pointer / 16)

/-- The write pointer's sector takes a header. -/
def State.takesHere (s : State) : Prop := s.store.pointer % 16 ≠ 0 ∧ s.sectorClass s.store.pointer = .erased

theorem forall_bankSectors {b : Nat} {P : Nat → Prop} : (∀ p ∈ bankSectors b, P p) ↔ ∀ i, i < 16 → P (16 * b + i) := by
  simp [bankSectors, List.mem_range'_1]
  exact ⟨fun h i hi => h _ (by omega) (by omega), fun h p hlo hhi => by
    have := h (p - 16 * b) (by omega)
    rwa [Nat.add_sub_cancel' hlo] at this⟩

theorem bankErased_iff {b : Nat} : s.bankErased b = true ↔ ∀ i, i < 16 → s.sectorClass (16 * b + i) = .erased := by
  rw [State.bankErased, List.all_eq_true, forall_bankSectors]
  simp only [beq_iff_eq]

theorem expendable_iff {e : SectorEntry} : expendable e = true ↔ e.cls = .erased ∨ e.cls = .void ∨ e.cls = .damaged ∨
    ((e.cls = .sealed ∨ e.cls = .lost) ∧ e.collected = true) := by
  unfold expendable
  cases e.cls <;> simp

theorem bankHoldsAnchor_iff {b : Nat} : s.bankHoldsAnchor b = true ↔
    ∃ r ∈ s.records, s.recordKept r = false ∧ ∃ q, r.anchor = some q ∧ q / 16 = b := by
  simp [State.bankHoldsAnchor, Option.any_eq_true]

theorem bankErasable_iff {b : Nat} : s.bankErasable b = true ↔
    (¬ ∃ r ∈ s.records, s.recordKept r = false ∧ ∃ q, r.anchor = some q ∧ q / 16 = b) ∧
      (s.store.wrap = true ∨ ∀ i, i < 16 → ((s.sectorEntry (16 * b + i)).cls = .erased ∨ (s.sectorEntry (16 * b + i)).cls = .void ∨
        (s.sectorEntry (16 * b + i)).cls = .damaged ∨
        (((s.sectorEntry (16 * b + i)).cls = .sealed ∨ (s.sectorEntry (16 * b + i)).cls = .lost) ∧
          (s.sectorEntry (16 * b + i)).collected = true))) := by
  rw [State.bankErasable, Bool.and_eq_true, Bool.or_eq_true, List.all_eq_true, forall_bankSectors, ← bankHoldsAnchor_iff]
  simp only [expendable_iff, Bool.not_eq_true', Bool.not_eq_true]

theorem pointerUsable_iff : s.pointerUsable = true ↔
    s.takesHere ∨ s.bankErased s.searchBank = true ∨ s.bankErasable s.searchBank = true := by
  simp [State.pointerUsable, State.takesHere, State.searchBank, or_assoc]

/-! ### The search (R160) -/

theorem searchSector_of_here (h : s.takesHere) : searchSector s = (placeAt s.store.pointer s, .program s.store.pointer) := if_pos h

section
variable (h : ¬ s.takesHere)
include h

theorem searchSector_eq_judgeBank : searchSector s = judgeBank 0 s.searchBank s := by
  rw [searchSector]
  exact if_neg h

theorem searchSector_of_erased (he : s.bankErased s.searchBank = true) :
    searchSector s = (placeAt (16 * s.searchBank) s, .program (16 * s.searchBank)) := by
  rw [searchSector_eq_judgeBank h]
  exact if_pos (by rw [he]; rfl)

theorem searchSector_of_erasable (he : s.bankErased s.searchBank = false) (hb : s.bankErasable s.searchBank = true) :
    searchSector s = (s.withStore { s.store with pointer := 16 * s.searchBank }, .erase s.searchBank 1) := by
  rw [searchSector_eq_judgeBank h]
  exact (if_neg (by rw [he]; decide)).trans (if_pos (by rw [hb]; rfl))

theorem searchSector_of_full (he : s.bankErased s.searchBank = false) (hb : s.bankErasable s.searchBank = false) :
    searchSector s = (s.withStore { s.store with pointer := 16 * s.searchBank, full := true }, .nothing) := by
  rw [searchSector_eq_judgeBank h]
  exact (if_neg (by rw [he]; decide)).trans (if_neg (by rw [hb]; decide))

end

theorem nextSector_of_bank {b : Nat} (h : b ≤ 15) : nextSector (16 * b) = 16 * b + 1 := by
  exact if_neg ((Nat.mul_le_mul_left 16 h).trans_lt (by decide)).ne

/-- A search sets FULL where the bank at the pointer can be neither used nor erased, and never clears it. -/
theorem searchSector_fullAfter (s : State) : (searchSector s).1.store.full = (s.store.full || !s.pointerUsable) := by
  have usable := pointerUsable_iff (s := s)
  by_cases here : s.takesHere
  · rw [searchSector_of_here here, usable.2 (.inl here)]
    exact (Bool.or_false _).symm
  · cases he : s.bankErased s.searchBank with
    | true =>
      rw [searchSector_of_erased here he, usable.2 (.inr (.inl he))]
      exact (Bool.or_false _).symm
    | false =>
      cases hb : s.bankErasable s.searchBank with
      | true =>
        rw [searchSector_of_erasable here he hb, usable.2 (.inr (.inr hb))]
        exact (Bool.or_false _).symm
      | false =>
        have none : s.pointerUsable = false := by simpa [here, he, hb] using usable.not
        rw [searchSector_of_full here he hb, none]
        exact (Bool.or_true _).symm

/-! ### The operations as they begin (R159) -/

theorem startNext_cons {op : StoreOp} (hop : ∀ b source, op ≠ .eraseBank b source) (ops : List StoreOp) (s : State) :
    startNext (op :: ops) s = beginOp op (s.withStore { s.store with waiting := ops }) := by
  cases op with
  | eraseBank b source => exact absurd rfl (hop b source)
  | _ => rfl

theorem withWaiting_same {ops : List StoreOp} (h : s.store.waiting = ops) : s.withStore { s.store with waiting := ops } = s := by
  rw [← h]
  rfl

/-- An operation handed to a store with nothing to do begins at once. -/
theorem enqueue_of_idle {op : StoreOp} (hop : ∀ b source, op ≠ .eraseBank b source) (hf : s.store.inFlight = none)
    (hw : s.store.waiting = []) : enqueue op s = beginOp op s := by
  rw [enqueue, if_pos (by rw [State.storeIdle, hf]; rfl), hw, List.nil_append, startNext_cons hop, withWaiting_same hw]

theorem enqueue_of_busy {op : StoreOp} {f : InFlight} (hf : s.store.inFlight = some f) :
    enqueue op s = s.withStore { s.store with waiting := s.store.waiting ++ [op] } :=
  if_neg (by rw [State.storeIdle, hf]; exact Bool.false_ne_true)

theorem firstStep_keep (coil : Nat) : (firstStep (.keep coil) s).1 = s ∨ (firstStep (.keep coil) s).1 = (searchSector s).1 := by
  unfold firstStep
  dsimp only
  split
  · exact .inl rfl
  · exact .inr rfl

/-- An operation that begins does not clear FULL. -/
theorem beginOp_full (op : StoreOp) (h : s.store.full = true) : (beginOp op s).store.full = true := by
  have search : (searchSector s).1.store.full = true := by rw [searchSector_fullAfter, h]; rfl
  cases op with
  | programHeader coil image => exact search
  | keep coil =>
    obtain first | first := firstStep_keep (s := s) coil
    · exact (congrArg (·.store.full) first).trans h
    · exact (congrArg (·.store.full) first).trans search
  | _ => exact h

theorem startNext_full (ops : List StoreOp) (h : s.store.full = true) : (startNext ops s).store.full = true := by
  induction ops generalizing s with
  | nil => exact h
  | cons op ops ih =>
    by_cases hop : ∃ b source, op = .eraseBank b source
    · obtain ⟨b, source, rfl⟩ := hop
      rw [startNext]
      split
      · exact ih (((sendReply_only s _ _ _).2 .store (by decide)).symm ▸ h)
      · exact h
    · rw [startNext_cons fun b source he => hop ⟨b, source, he⟩]
      exact beginOp_full op h

/-- A keep that begins where the bank at the pointer could be used or erased leaves FULL as it is. -/
theorem beginOp_keep_full (coil : Nat) (hu : s.pointerUsable = true) : (beginOp (.keep coil) s).store.full = s.store.full := by
  obtain first | first := firstStep_keep (s := s) coil
  · exact congrArg (·.store.full) first
  · refine (congrArg (·.store.full) first).trans ?_
    rw [searchSector_fullAfter, hu]
    exact Bool.or_false _

/-! ### The offer (R161) -/

section
variable {h : CoilRecord} (hh : s.coil.heldSlot = some h) (hk : s.recordKept h = false) (hw : StoreOp.keep h.coil ∉ s.store.waiting)
  (hf : ∀ f, s.store.inFlight = some f → f.op ≠ .keep h.coil)
include hh hk hw hf

theorem offerHeld_eq : s.offerHeld = offerInto s.store.waiting (.keep h.coil) := by
  have queued : s.store.waiting.any (fun o => o == .keep h.coil) = false := by
    rw [List.any_eq_false]
    exact fun o ho he => hw (beq_iff_eq.1 he ▸ ho)
  have flying : s.store.inFlight.any (fun f => f.op == .keep h.coil) = false := by
    rw [Option.any_eq_false]
    exact fun f hs => beq_eq_false_iff_ne.2 (hf f hs)
  simp only [State.offerHeld, hh, hk, State.keepPending, queued, flying, Bool.or_self, Bool.false_eq_true, if_false]

/-- A seal handed over behind an operation in flight: the offer, then the seal. -/
theorem handSeal_of_busy {f : InFlight} (hs : s.store.inFlight = some f) (coil : Nat) : (handSeal coil s).store =
    { s.store with waiting := offerInto s.store.waiting (.keep h.coil) ++ [.keep coil] } := by
  have offered : queueOffer s = s.withStore { s.store with waiting := offerInto s.store.waiting (.keep h.coil) } := by
    rw [queueOffer, offerHeld_eq hh hk hw hf]
    exact if_neg (by rw [State.storeIdle, hs]; exact Bool.false_ne_true)
  rw [handSeal, offered]
  exact congrArg (·.store)
    (enqueue_of_busy (s := s.withStore { s.store with waiting := offerInto s.store.waiting (.keep h.coil) }) hs)

/-- A seal handed to a store with nothing to do: the offer begins, and the seal waits. -/
theorem handSeal_of_idle (hs : s.store.inFlight = none) (he : s.store.waiting = []) (coil : Nat) :
    (handSeal coil s).store.waiting = [.keep coil] ∧ ∃ g, (handSeal coil s).store.inFlight = some g ∧ g.op = .keep h.coil := by
  have offered : queueOffer s = beginOp (.keep h.coil) s := by
    rw [queueOffer, offerHeld_eq hh hk hw hf, he]
    refine (if_pos (by rw [State.storeIdle, hs]; rfl)).trans ?_
    exact (startNext_cons (by simp) [] s).trans (by rw [withWaiting_same he])
  obtain ⟨⟨g, hg, hop⟩, waits⟩ := beginOp_inFlight s (.keep h.coil)
  rw [handSeal, offered, enqueue_of_busy hg]
  exact ⟨congrArg (· ++ [StoreOp.keep coil]) (waits.trans he), g, hg, hop⟩

end

/-! ### The end of an operation (R161) -/

/-- The node once no operation is in flight. -/
def flightEnded (s : State) : State := s.withStore { s.store with inFlight := none }

/-- The node once no operation is in flight and FULL is cleared. -/
def fullCleared (s : State) : State := s.withStore { s.store with inFlight := none, full := false }

theorem endOp_of_not_clearing (h : s.store.full = false ∨ s.pointerUsable = false) :
    endOp s = startNext s.store.waiting (flightEnded s) := by
  refine if_neg fun hc => ?_
  obtain ⟨full, usable⟩ := Bool.and_eq_true_iff.1 hc
  obtain h | h := h
  · exact Bool.false_ne_true (h.symm.trans full)
  · exact Bool.false_ne_true (h.symm.trans usable)

theorem endOp_of_clearing (hf : s.store.full = true) (hu : s.pointerUsable = true) :
    endOp s = startNext (fullCleared s).offerHeld (fullCleared s) := if_pos (Bool.and_eq_true_iff.2 ⟨hf, hu⟩)

theorem endOp_full (hf : s.store.full = true) (hu : s.pointerUsable = false) : (endOp s).store.full = true := by
  rw [endOp_of_not_clearing (.inr hu)]
  exact startNext_full _ hf

/-- A completion that clears FULL begins the keep of a record not kept and not offered (R161). -/
theorem endOp_offers {h : CoilRecord} (hh : s.coil.heldSlot = some h) (hk : s.recordKept h = false)
    (hw : StoreOp.keep h.coil ∉ s.store.waiting) (hf : s.store.full = true) (hu : s.pointerUsable = true)
    (hl : s.store.waiting.length < 4) : (endOp s).store.full = false ∧ (endOp s).store.waiting = s.store.waiting ∧
      ∃ g, (endOp s).store.inFlight = some g ∧ g.op = .keep h.coil := by
  have offer : (fullCleared s).offerHeld = .keep h.coil :: s.store.waiting := by
    rw [offerHeld_eq (s := fullCleared s) hh hk hw fun f hs => nomatch hs]
    exact if_pos hl
  rw [endOp_of_clearing hf hu, offer, startNext_cons (by simp)]
  obtain ⟨flight, waits⟩ := beginOp_inFlight
    ((fullCleared s).withStore { (fullCleared s).store with waiting := s.store.waiting }) (.keep h.coil)
  exact ⟨beginOp_keep_full h.coil hu, waits, flight⟩

/-! ### The open of a coil with the store at rest (R160) -/

theorem putStep_programHeader_store {n : Nat} {image : List Byte} {u : State} {step : StoreStep} (h : searchSector s = (u, step)) :
    (beginOp (.programHeader n image) s).store =
      { u.store with inFlight := some ⟨.programHeader n image, step, false, stepTime (.programHeader n image) step u⟩ } := by
  unfold beginOp firstStep
  rw [h]
  rfl

/-- A record just opened anchors nowhere, so the banks that hold an anchor stay the same. -/
theorem coilOpened_anchored {n b : Nat} (ho : s.coil.openSlot = none) :
    (∃ r ∈ (coilOpened n s).records, (coilOpened n s).recordKept r = false ∧ ∃ q, r.anchor = some q ∧ q / 16 = b) ↔
      ∃ r ∈ s.records, s.recordKept r = false ∧ ∃ q, r.anchor = some q ∧ q / 16 = b := by
  have store : (coilOpened n s).store = s.store := (convertFlag_only s _).2 .store (by decide)
  have kept (r : CoilRecord) : (coilOpened n s).recordKept r = s.recordKept r := by
    simp only [State.recordKept, State.sectorClass, State.sectorEntry, store]
  have records (r : CoilRecord) : r ∈ (coilOpened n s).records ↔ r = newRecord s n ∨ r ∈ s.records := by
    simp [State.records, coilOpened, ho]
  simp only [records, kept, or_and_right, exists_or, exists_eq_left]
  exact or_iff_right fun ⟨_, q, hq, _⟩ => nomatch hq

/-- What the open of a coil leaves of the judgments: a node whose store has nothing to do begins the header's search in its own banks. -/
structure HeaderBegins (n : Nat) (s u : State) : Prop where
  begins : exec .coilRunningEntry s =
    .next (beginOp (.programHeader n (headerBytes (newRecord (s.take .coilRunningEntry) n))) u)
  store : u.store = s.store
  memory : u.memory = s.memory
  slot : u.coil.openSlot = some (newRecord (s.take .coilRunningEntry) n)
  anchored : ∀ b, (∃ r ∈ u.records, u.recordKept r = false ∧ ∃ q, r.anchor = some q ∧ q / 16 = b) ↔
    ∃ r ∈ s.records, s.recordKept r = false ∧ ∃ q, r.anchor = some q ∧ q / 16 = b

theorem coilRunningEntry_headerBegins {n : Nat} (hb : s.begun = true) (hc : s.settings.coil = true) (ho : s.coil.openSlot = none)
    (hn : s.coil.next = some n) (hf : s.store.inFlight = none) (hw : s.store.waiting = []) :
    HeaderBegins n s (coilOpened n (s.take .coilRunningEntry)) := by
  set s0 := s.take .coilRunningEntry with hs0
  have store : (coilOpened n s0).store = s.store := (convertFlag_only s0 _).2 .store (by decide)
  refine ⟨?_, store, (convertFlag_only s0 _).2 .memory (by decide), rfl, fun b => coilOpened_anchored (s := s0) ho⟩
  rw [exec_coilRunningEntry hb, if_pos hc, if_pos (by rw [ho]; rfl), openCoil_of_some (s := s0) hn]
  exact congrArg _ (enqueue_of_idle (by simp) (by rw [store]; exact hf) (by rw [store]; exact hw))

/-! ### The commands that bring an offer (R161) -/

/-- The tally wait hands the store a seal, at a node with the same store and the same HELD slot. -/
theorem tallyWaitExpiry_hands {r : CoilRecord} (hr : s.coil.closingSlot = some r) (hg : r.state = .gathering) :
    ∃ v t, exec .tallyWaitExpiry s = .next t ∧ t.store = (handSeal r.coil v).store ∧ v.store = s.store ∧
      v.coil.heldSlot = s.coil.heldSlot := by
  set u := takeExpiry (s.due.contains .tallyWaitExpiry) 7 .delay (s.take .tallyWaitExpiry)
  have expired : Only [.due, .channels] s u := (take_only s .tallyWaitExpiry).after (takeExpiry_only _ _ _ _)
  exact ⟨clearStatus (u.setClosing (some (r.expire.sealedBy u))), _, exec_tallyWaitExpiry_gathering hr hg,
    (judgeAfterGathering_only _).2 .store (by decide), expired.2 .store (by decide), congrArg (·.heldSlot) expired.coil_eq⟩

/-- A check's completion ends its operation, at a node with the same store and the same slots. -/
theorem checkComplete_ends {first last : Nat} {source : Station} {left : Nat}
    (hf : s.store.inFlight = some ⟨.checkRange first last source, .work, false, left⟩) :
    ∃ u, exec .checkComplete s = .next (endOp u) ∧ u.store = s.store ∧ u.coil = s.coil := by
  set u := sendReply .check source ([Result.done.byte] ++
    crcBytes (crc (s.memory.readRange (sectorBase first) (256 * (last + 1 - first)))) ++ [byte1 first, byte1 last])
    (s.takeLike isCompletion) with hu
  have replied : Only [.due, .meter, .line] (s.takeLike isCompletion) u := sendReply_only _ _ _ _
  refine ⟨u, ?_, replied.2 .store (by decide), replied.coil_eq⟩
  change execCheckComplete s = _
  simp only [execCheckComplete, State.flight, hf]
  rfl

end Sys2Proof.Machine
end

section
/-! SUPPORT. Program steps and VOID-MARKs (R163) as the steps of a header and of a keep (R162, R164): what each leaves in the memory, the
sector table and the slots. -/

namespace Sys2Proof.Machine

-- One declaration at a time, as in the frames: side by side these proofs ask for more threads than the memory limit allows.
set_option Elab.async false

variable {s t u : State}

/-! ### The bytes of a program step (R158, R163) -/

section
variable {wear : Wear} {bytes : List Byte} {m : Memory} {a : Nat}

/-- Over erased bytes each byte takes the value written, or the one that its wear names. -/
theorem Memory.read_burnAll_in (h : m.wf) (he : ∀ i, i < bytes.length → m.read (a + i) = erasedByte) :
    ∀ i, i < bytes.length → (m.burnAll wear a bytes).read (a + i) = (wear.lookup (a + i)).getD (byteAt bytes i) := by
  induction bytes generalizing m a with
  | nil => exact fun i hi => absurd hi (Nat.not_lt_zero i)
  | cons v vs ih =>
    intro i hi
    rw [Memory.burnAll]
    cases i with
    | zero =>
      have first := he 0 (Nat.succ_pos _)
      change m.read a = erasedByte at first
      change ((m.burn wear a v).burnAll wear (a + 1) vs).read a = (wear.lookup a).getD v
      rw [Memory.read_burnAll_out _ _ _ _ (by omega), Memory.burn, Memory.read_write_self _ _ h, burnt, first]
      cases wear.lookup a with
      | none => exact BitVec.allOnes_and
      | some w => exact BitVec.allOnes_and
    | succ i =>
      have rest := ih (Memory.burn_wf wear a v h) (a := a + 1) (fun j hj => ?_) i (Nat.lt_of_succ_lt_succ hi)
      · rwa [Nat.add_right_comm, Nat.add_assoc] at rest
      · rw [Memory.burn, Memory.read_write_ne _ _ (by omega), Nat.add_assoc, Nat.add_comm 1]
        exact he (j + 1) (Nat.succ_lt_succ hj)

theorem readRange_eq_of_bytes {k : Nat} (hk : bytes.length = k) (h : ∀ i, i < k → m.read (a + i) = byteAt bytes i) :
    m.readRange a k = bytes := by
  subst hk
  refine List.ext_getElem (Memory.readRange_length _ _ _) fun i hi hb => ?_
  have here := h i hb
  rw [← byteAt_readRange m a hb] at here
  simpa [byteAt, hi, hb] using here

end

section
variable {wear : Wear} {bytes : List Byte} {a : Nat}

/-- The node once bytes are programmed, however they read back. -/
def burntNow (wear : Wear) (a : Nat) (bytes : List Byte) (s : State) : State := { s with memory := s.memory.burnAll wear a bytes }

theorem blank_all (he : ∀ i, i < bytes.length → s.memory.read (a + i) = erasedByte) :
    (s.memory.readRange a bytes.length).all (· == erasedByte) = true := Memory.readRange_erased_iff.2 he

section
variable (h : s.memory.wf) (he : ∀ i, i < bytes.length → s.memory.read (a + i) = erasedByte)
include h he

theorem programNow_good (hw : ∀ i, i < bytes.length → wear.lookup (a + i) = none) :
    programNow wear a bytes s = (burntNow wear a bytes s, .good) := by
  have back : (s.memory.burnAll wear a bytes).readRange a bytes.length = bytes :=
    readRange_eq_of_bytes rfl fun i hi => by rw [Memory.read_burnAll_in h he i hi, hw i hi, Option.getD_none]
  simp only [programNow, Memory.program, blank_all he, if_true, back]
  rfl

theorem programNow_worn {i : Nat} {v : Byte} (hi : i < bytes.length) (hv : v ≠ byteAt bytes i) :
    programNow [(a + i, v)] a bytes s = (countStep .dataError (burntNow [(a + i, v)] a bytes s), .dataError) := by
  have back : (s.memory.burnAll [(a + i, v)] a bytes).readRange a bytes.length ≠ bytes := by
    intro same
    have here := Memory.read_burnAll_in (wear := [(a + i, v)]) h he i hi
    rw [← byteAt_readRange _ _ hi, same] at here
    exact hv (by simpa [List.lookup] using here.symm)
  simp only [programNow, Memory.program, blank_all he, if_true, if_neg back]
  rfl

end

theorem programNow_blocked {i : Nat} (hi : i < bytes.length) (he : s.memory.read (a + i) ≠ erasedByte) :
    programNow wear a bytes s = (countStep .addressError s, .addressError) := by
  rw [programNow, Memory.program_address_error wear bytes s.memory a i hi he]

end

/-! ### The steps of an operation, one after another -/

section
variable {wear : Wear} {f : InFlight} {n p : Nat} {x : StepResult}

theorem runSteps_done {good : Bool} (h : endStep wear f s = (t, .done good)) : runSteps wear (n + 1) f s = (t, good) := by
  rw [runSteps, h]

theorem runSteps_next {step : StoreStep} {retry : Bool} (h : endStep wear f s = (t, .next step retry)) :
    runSteps wear (n + 1) f s = runSteps wear n { f with step := step, retry := retry } t := by
  rw [runSteps, h]

variable {op : StoreOp} {retry : Bool} {left : Nat}

theorem endStep_good (h : programNow wear (programmed op p s).1 (programmed op p s).2 s = (t, .good)) :
    endStep wear ⟨op, .program p, retry, left⟩ s = (entered op p t, .done true) := by
  change endProgram wear ⟨op, .program p, retry, left⟩ p s = _
  unfold endProgram
  dsimp only
  rw [h]

/-- A program step that fails is followed by a VOID-MARK of its sector, but for a commit's. -/
theorem endStep_failed (hop : ∀ image source, op ≠ .commit image source) (hx : x ≠ .good)
    (h : programNow wear (programmed op p s).1 (programmed op p s).2 s = (t, x)) :
    endStep wear ⟨op, .program p, retry, left⟩ s = (t, .next (.void p) retry) := by
  change endProgram wear ⟨op, .program p, retry, left⟩ p s = _
  unfold endProgram
  dsimp only
  rw [h]
  cases op with
  | commit image source => exact absurd rfl (hop image source)
  | _ => cases x with
    | good => exact absurd rfl hx
    | _ => rfl

end

/-! ### A change of every record -/

/-- A change of the record in each slot that holds one. -/
def CoilBuilder.mapSlots (f : CoilRecord → CoilRecord) (c : CoilBuilder) : CoilBuilder :=
  { c with openSlot := c.openSlot.map f, closingSlot := c.closingSlot.map f, heldSlot := c.heldSlot.map f }

section
variable {f g : CoilRecord → CoilRecord}

theorem records_of_mapSlots (h : t.coil = s.coil.mapSlots f) : t.records = s.records.map f := by
  simp only [State.records, h, CoilBuilder.mapSlots, Option.toList_map, List.map_append]

theorem mem_records_iff {r : CoilRecord} :
    r ∈ s.records ↔ s.coil.openSlot = some r ∨ s.coil.closingSlot = some r ∨ s.coil.heldSlot = some r := by
  simp [State.records]

theorem mapSlots_congr (h : ∀ r ∈ s.records, f r = g r) : s.coil.mapSlots f = s.coil.mapSlots g := by
  have slots (o : Option CoilRecord) (ho : ∀ r, o = some r → r ∈ s.records) : o.map f = o.map g := by
    cases o with
    | none => rfl
    | some r => exact congrArg some (h r (ho r rfl))
  unfold CoilBuilder.mapSlots
  rw [slots _ fun r hr => mem_records_iff.2 (.inl hr), slots _ fun r hr => mem_records_iff.2 (.inr (.inl hr)),
    slots _ fun r hr => mem_records_iff.2 (.inr (.inr hr))]

theorem mapSlots_mapSlots (c : CoilBuilder) : (c.mapSlots f).mapSlots g = c.mapSlots (fun r => g (f r)) := by
  simp only [CoilBuilder.mapSlots, Option.map_map]
  rfl

theorem mapSlots_same (h : ∀ r ∈ s.records, f r = r) : s.coil.mapSlots f = s.coil := by
  rw [mapSlots_congr (g := id) h]
  simp only [CoilBuilder.mapSlots, Option.map_id_fun, id]

end

/-! ### A VOID-MARK (R163) -/

/-- A record that loses its anchor at a sector. -/
def CoilRecord.unanchored (p : Nat) (r : CoilRecord) : CoilRecord := if r.anchor = some p then { r with anchor := none } else r

theorem unanchored_anchor (p : Nat) (r : CoilRecord) : (r.unanchored p).anchor ≠ some p := by
  unfold CoilRecord.unanchored
  split
  · exact nofun
  · assumption

theorem unanchored_coil (p : Nat) (r : CoilRecord) : (r.unanchored p).coil = r.coil := by
  unfold CoilRecord.unanchored
  split <;> rfl

theorem headedEntry_cls (m : Memory) (p : Nat) (c : SectorClass) : (headedEntry m p c).cls = c := by
  unfold headedEntry
  split <;> rfl

/-- What a VOID-MARK leaves where the marker is taken: the marker alone in the memory, an entry VOID or DAMAGED alone in the store, and no
record anchored at the sector. -/
structure VoidMarked (p : Nat) (s t : State) : Prop where
  wf : t.memory.wf
  marker : t.memory.read (256 * p + 255) = 0
  others : ∀ x, x ≠ 256 * p + 255 → t.memory.read x = s.memory.read x
  store : ∃ e : SectorEntry, (e.cls = .void ∨ e.cls = .damaged) ∧ t.store = { s.store with table := s.store.table.set (p - 16) e }
  coil : t.coil = s.coil.mapSlots (CoilRecord.unanchored p)

/-- The node after a VOID-MARK whose marker is taken. -/
def voidMarkedNow (m : Memory) (p : Nat) (s : State) : State :=
  { s with
    memory := m
    store := { s.store with table := s.store.table.set (p - 16) (headedEntry m p (if headerValid m p then .void else .damaged)) }
    coil := s.coil.mapSlots (CoilRecord.unanchored p) }

theorem voidMark_marked {wear : Wear} {p : Nat} (h : s.memory.wf) (hw : wear.lookup (256 * p + 255) = none) :
    VoidMarked p s (voidMark wear p s) := by
  set m := s.memory.burn wear (256 * p + 255) voidMarker with hm
  have taken : m.read (256 * p + 255) = voidMarker := by
    rw [hm, Memory.burn, Memory.read_write_self _ _ h, burnt, hw]
    exact BitVec.and_zero
  have now : voidMark wear p s = voidMarkedNow m p s := by
    unfold voidMark
    dsimp only
    rw [sectorBase_eq, ← hm, if_pos taken, decide_eq_true taken, Bool.and_true]
    rfl
  have class_of (c : Prop) [Decidable c] : let k : SectorClass := if c then .void else .damaged
      (headedEntry m p k).cls = .void ∨ (headedEntry m p k).cls = .damaged := by
    intro k
    rw [headedEntry_cls]
    exact iteInduction (motive := fun k : SectorClass => k = .void ∨ k = .damaged) (fun _ => .inl rfl) fun _ => .inr rfl
  rw [now]
  exact ⟨Memory.burn_wf wear _ _ h, taken, fun x hx => Memory.read_write_ne _ _ hx, ⟨_, class_of _, rfl⟩, rfl⟩

/-! ### What the end of an operation leaves (R159) -/

/-- The table, the counts of errors and FAULT stand as they were. -/
structure BooksKept (s t : State) : Prop where
  table : t.store.table = s.store.table
  addressErrors : t.store.addressErrors = s.store.addressErrors
  dataErrors : t.store.dataErrors = s.store.dataErrors
  fault : t.store.fault = s.store.fault

namespace BooksKept

theorem trans (h : BooksKept s t) (k : BooksKept t u) : BooksKept s u :=
  ⟨k.table.trans h.table, k.addressErrors.trans h.addressErrors, k.dataErrors.trans h.dataErrors, k.fault.trans h.fault⟩

theorem of_store (h : t.store = s.store) : BooksKept s t := by
  constructor <;> rw [h]

theorem sectorEntry (h : BooksKept s t) (p : Nat) : t.sectorEntry p = s.sectorEntry p := by rw [State.sectorEntry, h.table]; rfl

end BooksKept

theorem judgeBank_books (n b : Nat) (s : State) : BooksKept s (judgeBank n b s).1 := by
  unfold judgeBank placeAt
  split
  · exact ⟨rfl, rfl, rfl, rfl⟩
  · split
    · exact ⟨rfl, rfl, rfl, rfl⟩
    · exact ⟨rfl, rfl, rfl, rfl⟩

theorem searchSector_books (s : State) : BooksKept s (searchSector s).1 := by
  unfold searchSector
  dsimp only
  split
  · exact ⟨rfl, rfl, rfl, rfl⟩
  · exact judgeBank_books _ _ s

theorem beginOp_books (op : StoreOp) (s : State) : BooksKept s (beginOp op s) := by
  have put (x : State) (y : InFlight) : BooksKept x (x.withStore { x.store with inFlight := some y }) := ⟨rfl, rfl, rfl, rfl⟩
  cases op with
  | programHeader coil image => exact (searchSector_books s).trans (put _ _)
  | keep coil =>
    obtain first | first := firstStep_keep (s := s) coil
    · exact (BooksKept.of_store (congrArg (·.store) first)).trans (put _ _)
    · exact ((searchSector_books s).trans (.of_store (congrArg (·.store) first))).trans (put _ _)
  | _ => exact put _ _

theorem startNext_books (ops : List StoreOp) (s : State) : BooksKept s (startNext ops s) := by
  induction ops generalizing s with
  | nil => exact ⟨rfl, rfl, rfl, rfl⟩
  | cons op ops ih =>
    have begins (x : StoreOp) : BooksKept s (beginOp x (s.withStore { s.store with waiting := ops })) :=
      (BooksKept.mk rfl rfl rfl rfl : BooksKept s (s.withStore { s.store with waiting := ops })).trans (beginOp_books x _)
    by_cases hop : ∃ b source, op = .eraseBank b source
    · obtain ⟨b, source, rfl⟩ := hop
      rw [startNext]
      split
      · exact (BooksKept.of_store ((sendReply_only s _ _ _).2 .store (by decide))).trans (ih _)
      · exact begins _
    · rw [startNext_cons fun b source he => hop ⟨b, source, he⟩]
      exact begins op

/-- The end of an operation begins what waits, at a node where nothing but FULL and the flight differ. -/
theorem endOp_eq_startNext (s : State) : ∃ ops v, endOp s = startNext ops v ∧ BooksKept s v ∧ v.due = s.due := by
  by_cases hc : s.store.full = true ∧ s.pointerUsable = true
  · exact ⟨_, fullCleared s, endOp_of_clearing hc.1 hc.2, ⟨rfl, rfl, rfl, rfl⟩, rfl⟩
  · rw [not_and_or, Bool.not_eq_true, Bool.not_eq_true] at hc
    exact ⟨_, flightEnded s, endOp_of_not_clearing hc, ⟨rfl, rfl, rfl, rfl⟩, rfl⟩

theorem endOp_books (s : State) : BooksKept s (endOp s) := by
  obtain ⟨ops, v, hv, books, -⟩ := endOp_eq_startNext s
  rw [hv]
  exact books.trans (startNext_books ops v)

theorem endOp_due_subset (s : State) : s.due ⊆ (endOp s).due := by
  obtain ⟨ops, v, hv, -, due⟩ := endOp_eq_startNext s
  rw [hv, ← due]
  exact (startNext_kept v ops).1

theorem endOp_memory (s : State) : (endOp s).memory = s.memory := (endOp_only s).2 .memory (by decide)

theorem endOp_coil (s : State) : (endOp s).coil = s.coil := (endOp_only s).coil_eq

end Sys2Proof.Machine
end

section
/-! SUPPORT. The completions of a header and of a keep (R160, R162 to R164), step by step, and the claim about headers and bodies. -/

namespace Sys2Proof.Machine

-- One declaration at a time, as in the frames: side by side these proofs ask for more threads than the memory limit allows.
set_option Elab.async false

variable {s t u : State}

/-! ### The end of a completion -/

/-- What the end of an operation leaves of the node that its steps have made. -/
structure Finished (u t : State) : Prop extends BooksKept u t where
  memory : t.memory = u.memory
  coil : t.coil = u.coil

theorem endOp_finished (u : State) : Finished u (endOp u) := ⟨endOp_books u, endOp_memory u, endOp_coil u⟩

theorem endOp_emit_finished (u : State) (e : Instr) : Finished u (endOp (u.emit [e])) ∧ e ∈ (endOp (u.emit [e])).due :=
  ⟨⟨(BooksKept.of_store (s := u) (t := u.emit [e]) rfl).trans (endOp_books (u.emit [e])), endOp_memory (u.emit [e]),
    endOp_coil (u.emit [e])⟩,
    endOp_due_subset _ (List.mem_append_right _ (List.mem_singleton_self e))⟩

section
variable {coil : Nat} {image : List Byte} {wear : Wear} {step : StoreStep} {retry kept : Bool} {left : Nat} {r : CoilRecord}

theorem exec_programHeaderComplete (hf : s.store.inFlight = some ⟨.programHeader coil image, step, retry, left⟩) :
    exec (.programHeaderComplete wear) s =
      .next (endOp (runOp wear ⟨.programHeader coil image, step, retry, left⟩ (s.takeLike isCompletion)).1) := by
  change execProgramHeaderComplete wear s = _
  simp only [execProgramHeaderComplete, State.flight, hf]

theorem exec_keepComplete (hf : s.store.inFlight = some ⟨.keep coil, step, retry, left⟩) (hr : s.findRecord coil = some r)
    (hrun : runOp wear ⟨.keep coil, step, retry, left⟩ (s.takeLike isCompletion) = (u, kept)) :
    exec (.keepComplete wear) s = .next (endOp (u.emit [.keepReport (BitVec.ofNat 32 coil) kept])) := by
  change execKeepComplete wear s = _
  simp only [execKeepComplete, State.flight, hf, hr, hrun]

end

/-! ### A record anchored (R162, R164) -/

/-- A record anchored at a sector, if it carries a coil number. -/
def CoilRecord.anchoredTo (coil p : Nat) (q : CoilRecord) : CoilRecord := if q.coil = coil then { q with anchor := some p } else q

/-- What a program step that succeeds makes of the node: the sector's entry and the record's anchor alone. -/
structure EnteredAs (e : SectorEntry) (coil p : Nat) (s t : State) : Prop where
  memory : t.memory = s.memory
  store : t.store = { s.store with table := s.store.table.set (p - 16) e }
  coil : t.coil = s.coil.mapSlots (CoilRecord.anchoredTo coil p)

theorem entered_programHeader (coil p : Nat) (image : List Byte) (s : State) :
    EnteredAs (recordEntry .openOnly s.station coil) coil p s (entered (.programHeader coil image) p s) := ⟨rfl, rfl, rfl⟩

theorem entered_keep {coil : Nat} {r : CoilRecord} (p : Nat) (hr : s.findRecord coil = some r) :
    EnteredAs (recordEntry .sealed r.station coil) coil p s (entered (.keep coil) p s) := by
  unfold entered
  dsimp only
  rw [hr]
  exact ⟨rfl, rfl, rfl⟩

theorem findRecord_of_mapSlots {f : CoilRecord → CoilRecord} (h : t.coil = s.coil.mapSlots f) (hf : ∀ r, (f r).coil = r.coil) (coil : Nat) :
    t.findRecord coil = (s.findRecord coil).map f := by
  rw [State.findRecord, records_of_mapSlots h, List.find?_map]
  simp only [Function.comp_def, hf]
  rfl

/-! ### The sector table -/

section
variable {p q : Nat} {e : SectorEntry}

theorem sectorEntry_of_set (h : t.store = { s.store with table := s.store.table.set (p - 16) e }) (hp : 16 ≤ p) (hq : 16 ≤ q)
    (hl : p - 16 < s.store.table.length) : t.sectorEntry q = if p = q then e else s.sectorEntry q := by
  rw [← State.setEntry_sectorEntry s p q e hp hq hl, State.sectorEntry, h]
  rfl

end

/-! ### The bytes that a step leaves -/

section
variable {wear : Wear} {bytes : List Byte} {a : Nat}

theorem burntNow_readRange (h : s.memory.wf) (he : ∀ i, i < bytes.length → s.memory.read (a + i) = erasedByte)
    (hw : ∀ i, i < bytes.length → wear.lookup (a + i) = none) : (burntNow wear a bytes s).memory.readRange a bytes.length = bytes :=
  readRange_eq_of_bytes rfl fun i hi => by rw [burntNow, Memory.read_burnAll_in h he i hi, hw i hi, Option.getD_none]

theorem burntNow_outside {x : Nat} (hx : x < a ∨ a + bytes.length ≤ x) : (burntNow wear a bytes s).memory.read x = s.memory.read x :=
  Memory.read_burnAll_out wear bytes s.memory a hx

theorem burntNow_wf (h : s.memory.wf) : (burntNow wear a bytes s).memory.wf := Memory.burnAll_wf wear bytes a h

end

/-! ### A header (R162) -/

section
variable {coil p left : Nat} {image : List Byte} {wear : Wear} {x : StepResult}

theorem runOp_header_good (h : s.memory.wf) (he : ∀ i, i < image.length → s.memory.read (256 * p + i) = erasedByte) :
    runOp [] ⟨.programHeader coil image, .program p, false, left⟩ s =
      (entered (.programHeader coil image) p (burntNow [] (256 * p) image s), true) := by
  refine runSteps_done (n := 39) (endStep_good ?_)
  rw [programmed, sectorBase_eq]
  exact programNow_good h he fun _ _ => rfl

theorem runOp_header_failed (hx : x ≠ .good) (h : programNow wear (256 * p) image s = (t, x)) :
    runOp wear ⟨.programHeader coil image, .program p, false, left⟩ s = (voidMark wear p t, false) := by
  refine (runSteps_next (n := 39) (endStep_failed (by simp) hx (by rwa [programmed, sectorBase_eq]))).trans ?_
  exact runSteps_done (n := 38) rfl

end

/-! ### A keep (R164) -/

theorem recordBytes_unanchored (p : Nat) (r : CoilRecord) : recordBytes (r.unanchored p) = recordBytes r := by
  unfold CoilRecord.unanchored
  split <;> rfl

/-- Lists that are padded are never shorter than their places. -/
theorem le_padTo_length (n : Nat) (b : List Byte) : n ≤ (padTo n b).length := by
  rw [padTo, List.length_append, List.length_replicate]
  omega

theorem le_recordBytes_length (r : CoilRecord) : 256 ≤ (recordBytes r).length := by
  have halts := le_padTo_length 56 (r.halts.flatMap haltNoteBytes)
  have splices := le_padTo_length 32 (r.splices.flatMap (bytesBE 4))
  have contributors := le_padTo_length 60 (r.contributors.flatMap contributorBytes)
  have twist := twistBytes_length r
  have knot := knotBytes_length r
  unfold CoilRecord.twistBytes at twist
  unfold CoilRecord.knotBytes at knot
  simp only [recordBytes, bodyBytes, bodyFields, headerBytes_length, List.length_append, List.length_cons, List.length_nil, bytesBE_length,
    optOnes_length, crcBytes_length, twist, knot]
  omega

theorem bodyBytes_length_of_record {r : CoilRecord} (h : (recordBytes r).length = 256) : (bodyBytes r).length = 224 := by
  rw [recordBytes, List.length_append, headerBytes_length] at h
  omega

section
variable {r : CoilRecord} {p q left : Nat} {retry : Bool} {wear : Wear} {x : StepResult}

theorem programmed_whole (hr : s.findRecord r.coil = some r) (ha : r.anchor ≠ some p) :
    programmed (.keep r.coil) p s = (256 * p, recordBytes r) := by
  simp only [programmed, hr, if_neg ha, sectorBase_eq]

theorem programmed_body (hr : s.findRecord r.coil = some r) (ha : r.anchor = some p) :
    programmed (.keep r.coil) p s = (256 * p + 32, bodyBytes r) := by
  simp only [programmed, hr, if_pos ha, sectorBase_eq]

/-- A keep whose program step takes every byte, be it of the body or of the whole record. -/
theorem runOp_keep_good {a : Nat} {bytes : List Byte} (hb : programmed (.keep r.coil) p s = (a, bytes)) (h : s.memory.wf)
    (he : ∀ i, i < bytes.length → s.memory.read (a + i) = erasedByte) :
    runOp [] ⟨.keep r.coil, .program p, retry, left⟩ s = (entered (.keep r.coil) p (burntNow [] a bytes s), true) := by
  refine runSteps_done (n := 39) (endStep_good ?_)
  rw [hb]
  exact programNow_good h he fun _ _ => rfl

/-- A keep's second failure (R164). -/
theorem runOp_keep_lost (hx : x ≠ .good)
    (h : programNow wear (programmed (.keep r.coil) p s).1 (programmed (.keep r.coil) p s).2 s = (t, x)) :
    runOp wear ⟨.keep r.coil, .program p, true, left⟩ s =
      ((voidMark wear p t).withStore { (voidMark wear p t).store with fault := true }, false) :=
  (runSteps_next (n := 39) (endStep_failed (by simp) hx h)).trans (runSteps_done (n := 38) rfl)

/-- Nobody else is anchored where the record's keep fails, so a VOID-MARK there takes no other record's anchor. -/
theorem unanchored_of_alone (ha : ∀ q ∈ s.records, q ≠ r → q.anchor ≠ some p)
    {c : CoilRecord} (hc : c ∈ s.records) (hn : c.coil ≠ r.coil) : c.unanchored p = c :=
  if_neg (ha c hc fun h => hn (h ▸ rfl))

/-- The anchor of a keep's retry takes the place of the one that the VOID-MARK has taken. -/
theorem mapSlots_retried (ha : ∀ q ∈ s.records, q ≠ r → q.anchor ≠ some p) :
    (s.coil.mapSlots (CoilRecord.unanchored p)).mapSlots (CoilRecord.anchoredTo r.coil q) =
      s.coil.mapSlots (CoilRecord.anchoredTo r.coil q) := by
  rw [mapSlots_mapSlots]
  refine mapSlots_congr fun c hc => ?_
  by_cases hn : c.coil = r.coil
  · simp only [CoilRecord.anchoredTo, unanchored_coil, if_pos hn]
    unfold CoilRecord.unanchored
    split <;> rfl
  · rw [unanchored_of_alone ha hc hn]

/-- A keep whose first program step has failed, and whose retry at another sector takes every byte: the marker in the sector that failed,
the record at the other one. -/
structure KeepRetried (r : CoilRecord) (p q : Nat) (s s1 u : State) : Prop where
  marker : u.memory.read (256 * p + 255) = 0
  others : ∀ x, x ≠ 256 * p + 255 → x < 256 * q ∨ 256 * q + 256 ≤ x → u.memory.read x = s1.memory.read x
  failed : u.sectorClass p = .void ∨ u.sectorClass p = .damaged
  bytes : u.memory.readRange (256 * q) 256 = recordBytes r
  entry : u.sectorEntry q = recordEntry .sealed r.station r.coil
  coil : u.coil = s.coil.mapSlots (CoilRecord.anchoredTo r.coil q)
  addressErrors : u.store.addressErrors = s1.store.addressErrors
  dataErrors : u.store.dataErrors = s1.store.dataErrors
  fault : u.store.fault = s1.store.fault

section
variable {s1 : State} (hp : 16 ≤ p ∧ p ≤ 255) (hq : 16 ≤ q ∧ q ≤ 255) (hne : p ≠ q) (hr : r ∈ s.records)
  (hu : ∀ q ∈ s.records, q.coil = r.coil → q = r) (ha : ∀ q ∈ s.records, q ≠ r → q.anchor ≠ some p)
  (hanchor : r.anchor = none ∨ r.anchor = some p) (hx : x ≠ .good)
  (hfail : programNow wear (programmed (.keep r.coil) p s).1 (programmed (.keep r.coil) p s).2 s = (s1, x))
  (hcoil : s1.coil = s.coil) (hwf : s1.memory.wf) (hlen : s1.store.table.length = 240) (hpointer : s1.store.pointer = q)
  (hfirst : q % 16 ≠ 0) (herased : s1.sectorClass q = .erased)
  (hblank : ∀ i, i < 256 → s1.memory.read (256 * q + i) = erasedByte) (hsize : (recordBytes r).length = 256)
  (hwp : wear.lookup (256 * p + 255) = none) (hwq : ∀ i, i < 256 → wear.lookup (256 * q + i) = none)
include hp hq hne hr hu ha hanchor hx hfail hcoil hwf hlen hpointer hfirst herased hblank hsize hwp hwq

theorem runOp_keep_retried : ∃ u, runOp wear ⟨.keep r.coil, .program p, false, left⟩ s = (u, true) ∧ KeepRetried r p q s s1 u := by
  obtain ⟨image, himage⟩ : ∃ b, b = recordBytes r := ⟨_, rfl⟩
  rw [← himage] at hsize
  set v := voidMark wear p s1 with hv
  obtain ⟨vwf, marker, others, ⟨e, hclass, vstore⟩, vcoil⟩ := voidMark_marked (s := s1) hwf hwp
  rw [← hv] at vwf marker others vstore vcoil
  rw [hcoil] at vcoil
  have ventry {i : Nat} (hi : 16 ≤ i) : v.sectorEntry i = if p = i then e else s1.sectorEntry i :=
    sectorEntry_of_set vstore hp.1 hi (by omega)
  have vpointer : v.store.pointer = q := by rw [vstore]; exact hpointer
  have here : v.takesHere := by
    rw [State.takesHere, vpointer, State.sectorClass, ventry hq.1, if_neg hne]
    exact ⟨hfirst, herased⟩
  have found : searchSector v = (placeAt q v, .program q) := by rw [searchSector_of_here here, vpointer]
  set w := placeAt q v with hw
  have record : w.findRecord r.coil = some (r.unanchored p) := by
    rw [findRecord_of_mapSlots (s := s) (t := w) vcoil (unanchored_coil p), findRecord_of_unique hr hu]
    rfl
  have bytes : programmed (.keep r.coil) q w = (256 * q, image) := by
    have free : (r.unanchored p).anchor ≠ some q := by
      unfold CoilRecord.unanchored
      obtain h | h := hanchor <;> simp [h]
    have whole := programmed_whole (r := r.unanchored p) (s := w) (by rw [unanchored_coil]; exact record) free
    rwa [unanchored_coil, recordBytes_unanchored, ← himage] at whole
  have blank : ∀ i, i < image.length → w.memory.read (256 * q + i) = erasedByte := by
    intro i hi
    rw [hsize] at hi
    exact (others (256 * q + i) (by omega)).trans (hblank i hi)
  have taken : programNow wear (256 * q) image w = (burntNow wear (256 * q) image w, .good) :=
    programNow_good vwf blank fun i hi => hwq i (hi.trans_eq hsize)
  have written := burntNow_readRange (s := w) (wear := wear) vwf blank fun i hi => hwq i (hi.trans_eq hsize)
  have beside {i : Nat} (hi : i < 256 * q ∨ 256 * q + 256 ≤ i) :
      (burntNow wear (256 * q) image w).memory.read i = v.memory.read i := burntNow_outside (s := w) (by omega)
  have record' : (burntNow wear (256 * q) image w).findRecord r.coil = some (r.unanchored p) := record
  have ystore : (burntNow wear (256 * q) image w).store = { v.store with pointer := nextSector q } := rfl
  have ycoil : (burntNow wear (256 * q) image w).coil = v.coil := rfl
  rw [hsize] at written
  generalize burntNow wear (256 * q) image w = y at taken written beside record' ystore ycoil
  obtain ⟨memory, store, coil⟩ := entered_keep q record'
  have ytable : y.store.table = v.store.table := by rw [ystore]
  have entry {i : Nat} (hi : 16 ≤ i) : (entered (.keep r.coil) q y).sectorEntry i =
      if q = i then recordEntry .sealed (r.unanchored p).station r.coil else v.sectorEntry i := by
    rw [sectorEntry_of_set store hq.1 hi (by rw [ytable, vstore, List.length_set]; omega), State.sectorEntry, ytable]
    rfl
  refine ⟨entered (.keep r.coil) q y, ?_, ?_, fun i hi ho => ?_, ?_, ?_, ?_, ?_, ?_, ?_, ?_⟩
  · have void : endStep wear ⟨.keep r.coil, .void p, false, left⟩ s1 = (w, .next (.program q) true) := by
      change endVoid wear ⟨.keep r.coil, .void p, false, left⟩ p s1 = _
      unfold endVoid
      dsimp only
      rw [← hv, found]
    refine (runSteps_next (n := 39) (endStep_failed (by simp) hx hfail)).trans ((runSteps_next (n := 38) void).trans ?_)
    refine runSteps_done (n := 37) (endStep_good ?_)
    rw [bytes]
    exact taken
  · rw [memory, beside (by omega)]
    exact marker
  · rw [memory, beside (by omega)]
    exact others i hi
  · rw [State.sectorClass, entry hp.1, if_neg hne.symm, ventry hp.1, if_pos rfl]
    exact hclass
  · rw [memory, ← himage]
    exact written
  · rw [entry hq.1, if_pos rfl]
    unfold CoilRecord.unanchored
    split <;> rfl
  · rw [coil, ycoil, vcoil]
    exact mapSlots_retried ha
  · rw [store, ystore, vstore]
  · rw [store, ystore, vstore]
  · rw [store, ystore, vstore]

end

end

/-! ### A bank erased for a header (R160, R165) -/

/-- Entries replaced one after another: each sector named has its new one, every other keeps its own. -/
theorem foldl_setEntry (e : Nat → SectorEntry) (l : List Nat) (s : State) (hl : ∀ p ∈ l, 16 ≤ p ∧ p - 16 < s.store.table.length) :
    let t := l.foldl (fun t p => t.setEntry p (e p)) s
    (∃ table, table.length = s.store.table.length ∧ t.store = { s.store with table := table }) ∧
      ∀ q, 16 ≤ q → t.sectorEntry q = if q ∈ l then e q else s.sectorEntry q := by
  induction l generalizing s with
  | nil => exact ⟨⟨s.store.table, rfl, rfl⟩, fun q _ => rfl⟩
  | cons p l ih =>
    have length : (s.setEntry p (e p)).store.table.length = s.store.table.length := List.length_set
    obtain ⟨⟨table, same, store⟩, entries⟩ := ih (s.setEntry p (e p)) fun q hq => length ▸ hl q (List.mem_cons_of_mem _ hq)
    obtain ⟨hp, hlen⟩ := hl p List.mem_cons_self
    refine ⟨⟨table, same.trans length, store⟩, fun q hq => ?_⟩
    rw [List.foldl_cons, entries q hq, State.setEntry_sectorEntry s p q (e p) hp hq hlen]
    by_cases hm : q ∈ l
    · rw [if_pos hm, if_pos (List.mem_cons_of_mem _ hm)]
    · by_cases hqp : p = q
      · rw [if_neg hm, if_pos hqp, if_pos (hqp ▸ List.mem_cons_self), hqp]
      · rw [if_neg hm, if_neg hqp, if_neg fun h => (List.mem_cons.1 h).elim (fun h => hqp h.symm) hm]

/-- What the erase of a ring bank leaves where every byte is taken: its sectors ERASED, and the rest of the store as it was. -/
structure BankErased (b : Nat) (s t : State) : Prop where
  memory : t.memory = s.memory.eraseBank [] b
  coil : t.coil = s.coil
  startRec : t.startRec = s.startRec
  store : ∃ table, table.length = 240 ∧ t.store = { s.store with table := table }
  entries : ∀ i, i < 16 → t.sectorClass (16 * b + i) = .erased

theorem eraseBankNow_erased {b : Nat} (hb : 1 ≤ b ∧ b ≤ 15) (h : s.memory.wf) (hl : s.store.table.length = 240) :
    BankErased b s (eraseBankNow [] b s) := by
  set m := s.memory.eraseBank [] b with hm
  have wiped {i : Nat} (hi : i < 16) : erasedEntry m (16 * b + i) = .blank := by
    refine if_pos ((Memory.sectorErased_iff (Memory.eraseBank_wf [] b h) _).2 fun x hlo hhi => ?_)
    rw [sectorBase_eq] at hlo hhi
    exact Memory.read_eraseBank_in _ _ (by omega) rfl
  have only := eraseBankNow_only s [] b
  obtain ⟨store, entries⟩ := foldl_setEntry (erasedEntry m) (bankSectors b) { s with memory := m } fun p hp => by
    have inside := List.mem_range'_1.1 hp
    change 16 ≤ p ∧ p - 16 < s.store.table.length
    omega
  have now : eraseBankNow [] b s = (bankSectors b).foldl (fun t p => t.setEntry p (erasedEntry m p)) { s with memory := m } := by
    have ring : b ≠ 0 := by omega
    exact if_neg ring
  rw [← now] at store entries
  refine ⟨eraseBankNow_memory [] b, only.coil_eq, only.startRec_eq, ?_, fun i hi => ?_⟩
  · obtain ⟨table, length, same⟩ := store
    exact ⟨table, length.trans hl, same⟩
  · have inside : 16 * b + i ∈ bankSectors b := List.mem_range'_1.2 (by omega)
    rw [State.sectorClass, entries _ (by omega), if_pos inside, wiped hi]
    rfl

theorem runOp_header_erased {b coil left : Nat} {image : List Byte} (hb : 1 ≤ b ∧ b ≤ 15) (h : s.memory.wf)
    (hl : s.store.table.length = 240) (hi : image.length = 32) :
    runOp [] ⟨.programHeader coil image, .erase b 1, false, left⟩ s =
      (entered (.programHeader coil image) (16 * b)
        (burntNow [] (256 * (16 * b)) image (placeAt (16 * b) (eraseBankNow [] b s))), true) := by
  have erased := eraseBankNow_erased hb h hl
  have wiped : (eraseBankNow [] b s).sectorClass (16 * b) = .erased := erased.entries 0 (by omega)
  have found : endStep [] ⟨.programHeader coil image, .erase b 1, false, left⟩ s =
      (placeAt (16 * b) (eraseBankNow [] b s), .next (.program (16 * b)) false) := by
    have ring : b ≠ 0 := by omega
    unfold endStep searchOn
    dsimp only
    rw [if_neg ring, if_pos wiped]
  refine (runSteps_next (n := 39) found).trans (runSteps_done (n := 38) (endStep_good ?_))
  rw [programmed, sectorBase_eq]
  refine programNow_good ?_ (fun i (hlt : i < image.length) => ?_) fun _ _ => rfl
  · change (eraseBankNow [] b s).memory.wf
    rw [erased.memory]
    exact Memory.eraseBank_wf [] b h
  · change (eraseBankNow [] b s).memory.read _ = _
    rw [erased.memory]
    exact Memory.read_eraseBank_in _ _ (by omega) rfl

end Sys2Proof.Machine
end

section
/-! SUPPORT. The completions of a header and of a keep, each case of the claim about headers and bodies, and the claim itself. -/

namespace Sys2Proof.Machine

-- One declaration at a time, as in the frames: side by side these proofs ask for more threads than the memory limit allows.
set_option Elab.async false

variable {s t u v : State} {p : Nat}

/-! ### What a finished operation shows -/

namespace Finished

theorem records (h : Finished u t) : t.records = u.records := by rw [State.records, h.coil]; rfl

theorem sectorClass (h : Finished u t) (p : Nat) : t.sectorClass p = u.sectorClass p :=
  congrArg SectorEntry.cls (h.toBooksKept.sectorEntry p)

end Finished

/-- The sector and the anchors after a VOID-MARK. -/
theorem VoidMarked.sector (h : VoidMarked p s v) (hp : 16 ≤ p ∧ p ≤ 255) (hl : s.store.table.length = 240) :
    (v.sectorClass p = .void ∨ v.sectorClass p = .damaged) ∧ ∀ q ∈ v.records, q.anchor ≠ some p := by
  obtain ⟨e, hclass, store⟩ := h.store
  refine ⟨?_, fun q hq => ?_⟩
  · rw [State.sectorClass, sectorEntry_of_set store hp.1 hp.1 (by omega), if_pos rfl]
    exact hclass
  · rw [records_of_mapSlots h.coil] at hq
    obtain ⟨c, -, rfl⟩ := List.mem_map.1 hq
    exact unanchored_anchor p c

theorem exists_not_blank {m : Memory} {lo hi : Nat} (h : ¬ ∀ i, lo ≤ i → i < hi → m.read i = 0xFF) :
    ∃ i, i < hi - lo ∧ m.read (lo + i) ≠ erasedByte := by
  by_contra hn
  refine h fun i hlo hhi => ?_
  by_contra hb
  exact hn ⟨i - lo, by omega, by rwa [Nat.add_sub_cancel' hlo]⟩

theorem lookup_singleton (x a : Nat) (b : Byte) : List.lookup x [(a, b)] = if x = a then some b else none := by
  by_cases h : x = a
  · simp [List.lookup, h]
  · simp [List.lookup, beq_eq_false_iff_ne.2 h, h]

/-! ### The completion of a header (R162, R163) -/

section
variable {coil left : Nat} {image : List Byte} (hl : s.store.table.length = 240)
include hl

/-- A header whose program step fails: the sector is VOID-marked, and nobody is anchored there. -/
theorem header_failed {wear : Wear} {x : StepResult} {s1 : State} (hp : 16 ≤ p ∧ p ≤ 255) (hx : x ≠ .good)
    (h : programNow wear (256 * p) image (s.takeLike isCompletion) = (s1, x)) (hwf1 : s1.memory.wf)
    (htable : s1.store.table = s.store.table) (hw : wear.lookup (256 * p + 255) = none)
    (hf : s.store.inFlight = some ⟨.programHeader coil image, .program p, false, left⟩) :
    Completes (.programHeaderComplete wear) s fun t => t.memory.read (256 * p + 255) = 0 ∧
      (∀ a, a ≠ 256 * p + 255 → t.memory.read a = s1.memory.read a) ∧ (t.sectorClass p = .void ∨ t.sectorClass p = .damaged) ∧
      (∀ q ∈ t.records, q.anchor ≠ some p) ∧ t.store.addressErrors = s1.store.addressErrors ∧
      t.store.dataErrors = s1.store.dataErrors := by
  have marked := voidMark_marked hwf1 hw
  have done := endOp_finished (voidMark wear p s1)
  obtain ⟨failed, anchors⟩ := marked.sector hp (htable ▸ hl)
  obtain ⟨e, -, store⟩ := marked.store
  refine ⟨_, exec_programHeaderComplete hf, ?_⟩
  rw [runOp_header_failed hx h]
  refine ⟨?_, fun a ha => ?_, ?_, ?_, ?_, ?_⟩
  · rw [done.memory, marked.marker]
  · rw [done.memory, marked.others a ha]
  · rw [done.sectorClass]
    exact failed
  · rw [done.records]
    exact anchors
  · rw [done.addressErrors, store]
  · rw [done.dataErrors, store]

variable (hwf : s.memory.wf)
include hwf

theorem header_taken (hp : 16 ≤ p ∧ p ≤ 255) (hb : ∀ i, i < 32 → s.memory.read (256 * p + i) = erasedByte) (hi : image.length = 32)
    (hf : s.store.inFlight = some ⟨.programHeader coil image, .program p, false, left⟩) :
    Completes (.programHeaderComplete []) s fun t => t.memory.readRange (256 * p) 32 = image ∧
      KeepsOutside (256 * p) (256 * p + 32) s t ∧ t.sectorEntry p = ⟨.openOnly, s.station, coil, false⟩ ∧
      t.coil = s.coil.mapSlots (CoilRecord.anchoredTo coil p) := by
  set s0 := s.takeLike isCompletion with hs0
  have blank : ∀ i, i < image.length → s0.memory.read (256 * p + i) = erasedByte := fun i hlt => hb i (hi ▸ hlt)
  obtain ⟨memory, store, slots⟩ := entered_programHeader coil p image (burntNow [] (256 * p) image s0)
  refine ⟨_, exec_programHeaderComplete hf, ?_⟩
  rw [runOp_header_good (s := s0) hwf blank]
  have done := endOp_finished (entered (.programHeader coil image) p (burntNow [] (256 * p) image s0))
  have bytes := burntNow_readRange (s := s0) (wear := []) hwf blank fun _ _ => rfl
  rw [hi] at bytes
  refine ⟨by rw [done.memory, memory, bytes], fun x hx => ?_, ?_, by rw [done.coil, slots]; rfl⟩
  · rw [done.memory, memory]
    exact burntNow_outside (s := s0) (by omega)
  · rw [done.sectorEntry, sectorEntry_of_set store hp.1 hp.1 (by change p - 16 < s.store.table.length; omega), if_pos rfl]
    rfl

theorem header_blocked {i : Nat} (hp : 16 ≤ p ∧ p ≤ 255) (hlt : i < image.length) (he : s.memory.read (256 * p + i) ≠ erasedByte)
    (hf : s.store.inFlight = some ⟨.programHeader coil image, .program p, false, left⟩) :
    Completes (.programHeaderComplete []) s fun t => t.store.addressErrors = holdInc 65535 s.store.addressErrors ∧
      KeepsOutside (256 * p + 255) (256 * p + 256) s t ∧ t.memory.read (256 * p + 255) = 0 ∧
      (t.sectorClass p = .void ∨ t.sectorClass p = .damaged) ∧ ∀ q ∈ t.records, q.anchor ≠ some p := by
  have failed := header_failed (wear := []) hl hp (by simp) (programNow_blocked (s := s.takeLike isCompletion) hlt he) hwf rfl rfl hf
  refine failed.imp fun t ⟨marker, others, class_, anchors, counted, _⟩ => ⟨counted, fun x hx => ?_, marker, class_, anchors⟩
  exact others x (by omega)

theorem header_worn {i : Nat} {b : Byte} (hp : 16 ≤ p ∧ p ≤ 255) (hlt : i < 32) (hv : b ≠ byteAt image i)
    (hb : ∀ i, i < 32 → s.memory.read (256 * p + i) = erasedByte) (hi : image.length = 32)
    (hf : s.store.inFlight = some ⟨.programHeader coil image, .program p, false, left⟩) :
    Completes (.programHeaderComplete [(256 * p + i, b)]) s fun t => t.store.dataErrors = holdInc 65535 s.store.dataErrors ∧
      t.store.addressErrors = s.store.addressErrors ∧
      (∀ j, j < 32 → t.memory.read (256 * p + j) = if 256 * p + j = 256 * p + i then b else byteAt image j) ∧
      (∀ x, x < 256 * p ∨ 256 * p + 32 ≤ x → x ≠ 256 * p + 255 → t.memory.read x = s.memory.read x) ∧
      t.memory.read (256 * p + 255) = 0 ∧ (t.sectorClass p = .void ∨ t.sectorClass p = .damaged) ∧
      ∀ q ∈ t.records, q.anchor ≠ some p := by
  set s0 := s.takeLike isCompletion with hs0
  have blank : ∀ j, j < image.length → s0.memory.read (256 * p + j) = erasedByte := fun j hj => hb j (hi ▸ hj)
  have unworn : List.lookup (256 * p + 255) [(256 * p + i, b)] = none := by
    rw [lookup_singleton, if_neg (by omega)]
  have failed := header_failed hl hp (by simp) (programNow_worn (s := s0) hwf blank (by omega) hv) (burntNow_wf (s := s0) hwf) rfl unworn hf
  refine failed.imp fun t ⟨marker, others, class_, anchors, addressErrors, counted⟩ =>
    ⟨counted, addressErrors, fun j hj => ?_, fun x hx hne => ?_, marker, class_, anchors⟩
  · have written := Memory.read_burnAll_in (m := s0.memory) (wear := [(256 * p + i, b)]) hwf blank j (hi ▸ hj)
    rw [others (256 * p + j) (by omega)]
    refine written.trans ?_
    rw [lookup_singleton]
    split <;> rfl
  · rw [others x hne]
    exact burntNow_outside (s := s0) (by omega)

theorem header_erased {b : Nat} (hb : 1 ≤ b ∧ b ≤ 15) (hi : image.length = 32)
    (hf : s.store.inFlight = some ⟨.programHeader coil image, .erase b 1, false, left⟩) :
    Completes (.programHeaderComplete []) s fun t => KeepsOutside (4096 * b) (4096 * b + 4096) s t ∧
      t.memory.readRange (4096 * b) 32 = image ∧ (∀ a, 4096 * b + 32 ≤ a → a < 4096 * b + 4096 → t.memory.read a = 0xFF) ∧
      t.sectorEntry (16 * b) = ⟨.openOnly, s.station, coil, false⟩ ∧ t.coil = s.coil.mapSlots (CoilRecord.anchoredTo coil (16 * b)) ∧
      (∀ i, 1 ≤ i → i < 16 → t.sectorClass (16 * b + i) = .erased) ∧
      (s.store.full = false → s.store.waiting = [] → t.store.pointer = 16 * b + 1) := by
  set s0 := s.takeLike isCompletion with hs0
  obtain ⟨wiped, coil0, start0, ⟨table, length, store0⟩, entries⟩ := eraseBankNow_erased (s := s0) hb hwf hl
  set e := eraseBankNow [] b s0 with he
  have place : 256 * (16 * b) = 4096 * b := by ring
  obtain ⟨memory, store, slots⟩ := entered_programHeader coil (16 * b) image (burntNow [] (4096 * b) image (placeAt (16 * b) e))
  have ran := runOp_header_erased (s := s0) (coil := coil) (left := left) hb hwf hl hi
  rw [place, ← he] at ran
  have erasedWf : (placeAt (16 * b) e).memory.wf := by
    change e.memory.wf
    rw [wiped]
    exact Memory.eraseBank_wf [] b hwf
  have blank {x : Nat} (hlo : 4096 * b ≤ x) (hhi : x < 4096 * b + 4096) : (placeAt (16 * b) e).memory.read x = erasedByte := by
    change e.memory.read x = _
    rw [wiped]
    exact Memory.read_eraseBank_in _ _ (by omega) rfl
  refine ⟨_, exec_programHeaderComplete hf, ?_⟩
  rw [ran]
  have done := endOp_finished (entered (.programHeader coil image) (16 * b) (burntNow [] (4096 * b) image (placeAt (16 * b) e)))
  have entry {i : Nat} (h16 : 16 ≤ i) := sectorEntry_of_set store (by omega : 16 ≤ 16 * b) h16 (by
    change 16 * b - 16 < e.store.table.length
    rw [store0]
    change 16 * b - 16 < table.length
    omega)
  refine ⟨fun x hx => ?_, ?_, fun x hlo hhi => ?_, ?_, ?_, fun i hlo hhi => ?_, fun hfull hwaiting => ?_⟩
  · rw [done.memory, memory, burntNow_outside (by omega)]
    change e.memory.read x = _
    rw [wiped]
    exact Memory.read_eraseBank_out _ _ (by omega)
  · have bytes := burntNow_readRange (a := 4096 * b) (bytes := image) (wear := []) erasedWf
      (fun i hlt => blank (by omega) (by omega)) fun _ _ => rfl
    rw [done.memory, memory]
    rwa [hi] at bytes
  · rw [done.memory, memory, burntNow_outside (by omega)]
    exact blank (by omega) hhi
  · rw [done.sectorEntry, entry (by omega), if_pos rfl]
    change recordEntry .openOnly e.station coil = _
    rw [State.station, start0]
    rfl
  · rw [done.coil, slots]
    change e.coil.mapSlots _ = _
    rw [coil0]
    rfl
  · have other : 16 * b ≠ 16 * b + i := by omega
    rw [done.sectorClass, State.sectorClass, entry (by omega), if_neg other]
    exact entries i hhi
  · have books : (entered (.programHeader coil image) (16 * b) (burntNow [] (4096 * b) image (placeAt (16 * b) e))).store.waiting =
        s.store.waiting ∧ (entered (.programHeader coil image) (16 * b)
          (burntNow [] (4096 * b) image (placeAt (16 * b) e))).store.full = s.store.full := by
      rw [store]
      change e.store.waiting = _ ∧ e.store.full = _
      rw [store0]
      exact ⟨rfl, rfl⟩
    obtain ⟨waiting, full⟩ := books
    rw [hwaiting] at waiting
    rw [hfull] at full
    rw [endOp_of_not_clearing (.inl full), waiting]
    exact nextSector_of_bank hb.2

end

/-! ### The completion of a keep (R163, R164) -/

section
variable {r : CoilRecord} {retry : Bool} {left : Nat}

/-- A completion that comes where no sector was found (R160). -/
theorem header_nowhere {coil : Nat} {image : List Byte} (hf : s.store.inFlight = some ⟨.programHeader coil image, .nothing, false, left⟩) :
    Completes (.programHeaderComplete []) s (Only [.due, .meter, .line, .store] s) := by
  have ran : runOp [] ⟨.programHeader coil image, .nothing, false, left⟩ (s.takeLike isCompletion) = (s.takeLike isCompletion, false) :=
    runSteps_done (n := 39) rfl
  refine ⟨_, exec_programHeaderComplete hf, ?_⟩
  rw [ran]
  exact (takeLike_only s isCompletion).after (endOp_only _)

/-- The record's own anchor, taken again, changes no slot. -/
theorem mapSlots_anchored (hu : ∀ q ∈ s.records, q.coil = r.coil → q = r) (ha : r.anchor = some p) :
    s.coil.mapSlots (CoilRecord.anchoredTo r.coil p) = s.coil := by
  refine mapSlots_same fun c hc => ?_
  unfold CoilRecord.anchoredTo
  split
  · rw [hu c hc ‹_›, ← ha]
  · rfl

/-- A keep over a byte that is not erased, be it in the body of its anchor or in the whole sector, writes nothing. -/
theorem keep_blocked {wear : Wear} (hr : s.findRecord r.coil = some r)
    (hfails : if r.anchor = some p then ¬ ∀ i, 256 * p + 32 ≤ i → i < 256 * p + 256 → s.memory.read i = 0xFF
      else ¬ ∀ i, 256 * p ≤ i → i < 256 * p + 256 → s.memory.read i = 0xFF) :
    programNow wear (programmed (.keep r.coil) p s).1 (programmed (.keep r.coil) p s).2 s = (countStep .addressError s, .addressError) := by
  have whole := le_recordBytes_length r
  by_cases ha : r.anchor = some p
  · rw [if_pos ha] at hfails
    obtain ⟨i, hi, he⟩ := exists_not_blank hfails
    have body : i < (bodyBytes r).length := by
      rw [recordBytes, List.length_append, headerBytes_length] at whole
      omega
    rw [programmed_body hr ha]
    exact programNow_blocked body he
  · rw [if_neg ha] at hfails
    obtain ⟨i, hi, he⟩ := exists_not_blank hfails
    have inside : i < (recordBytes r).length := by omega
    rw [programmed_whole hr ha]
    exact programNow_blocked inside he

variable (hr : r ∈ s.records) (hu : ∀ q ∈ s.records, q.coil = r.coil → q = r)
include hr hu

theorem keep_nowhere (hf : s.store.inFlight = some ⟨.keep r.coil, .nothing, retry, left⟩) :
    Completes (.keepComplete []) s fun t => Only [.due, .meter, .line, .store] s t ∧
      Instr.keepReport (BitVec.ofNat 32 r.coil) false ∈ t.due := by
  have ran : runOp [] ⟨.keep r.coil, .nothing, retry, left⟩ (s.takeLike isCompletion) = (s.takeLike isCompletion, false) :=
    runSteps_done (n := 39) rfl
  refine ⟨_, exec_keepComplete hf (findRecord_of_unique hr hu) ran, ?_, (endOp_emit_finished _ _).2⟩
  exact (takeLike_only s isCompletion).after ((emit_only _ _).after (endOp_only _))

/-- A keep whose bytes are all taken, be it the body at the anchor or the whole record. -/
theorem keep_taken {a : Nat} {bytes : List Byte} (hp : 16 ≤ p ∧ p ≤ 255) (hl : s.store.table.length = 240) (hwf : s.memory.wf)
    (hb : programmed (.keep r.coil) p s = (a, bytes)) (he : ∀ i, i < bytes.length → s.memory.read (a + i) = erasedByte)
    (hf : s.store.inFlight = some ⟨.keep r.coil, .program p, retry, left⟩) :
    Completes (.keepComplete []) s fun t => t.memory.readRange a bytes.length = bytes ∧ KeepsOutside a (a + bytes.length) s t ∧
      t.sectorEntry p = ⟨.sealed, r.station, r.coil, false⟩ ∧ t.coil = s.coil.mapSlots (CoilRecord.anchoredTo r.coil p) ∧
      Instr.keepReport (BitVec.ofNat 32 r.coil) true ∈ t.due := by
  set s0 := s.takeLike isCompletion with hs0
  have found : s0.findRecord r.coil = some r := findRecord_of_unique hr hu
  have ran := runOp_keep_good (s := s0) (retry := retry) (left := left) hb hwf he
  obtain ⟨memory, store, slots⟩ := entered_keep p (s := burntNow [] a bytes s0) found
  obtain ⟨done, reported⟩ := endOp_emit_finished (entered (.keep r.coil) p (burntNow [] a bytes s0))
    (.keepReport (BitVec.ofNat 32 r.coil) true)
  refine ⟨_, exec_keepComplete hf found ran, ?_, fun x hx => ?_, ?_, ?_, reported⟩
  · rw [done.memory, memory]
    exact burntNow_readRange (s := s0) hwf he fun _ _ => rfl
  · rw [done.memory, memory]
    exact burntNow_outside (s := s0) hx
  · rw [done.sectorEntry, sectorEntry_of_set store hp.1 hp.1 (by change p - 16 < s.store.table.length; omega), if_pos rfl]
    rfl
  · rw [done.coil, slots]
    rfl

/-- A keep's second failure (R164): FAULT, and the report of a record not kept. -/
theorem keep_lost (hwf : s.memory.wf) (hanchor : r.anchor = none) (ha : ∀ q ∈ s.records, q ≠ r → q.anchor ≠ some p)
    (hfails : if r.anchor = some p then ¬ ∀ i, 256 * p + 32 ≤ i → i < 256 * p + 256 → s.memory.read i = 0xFF
      else ¬ ∀ i, 256 * p ≤ i → i < 256 * p + 256 → s.memory.read i = 0xFF)
    (hf : s.store.inFlight = some ⟨.keep r.coil, .program p, true, left⟩) :
    Completes (.keepComplete []) s fun t => t.store.fault = true ∧ t.coil = s.coil ∧ t.memory.read (256 * p + 255) = 0 ∧
      KeepsOutside (256 * p + 255) (256 * p + 256) s t ∧ Instr.keepReport (BitVec.ofNat 32 r.coil) false ∈ t.due := by
  set s0 := s.takeLike isCompletion with hs0
  have found : s0.findRecord r.coil = some r := findRecord_of_unique hr hu
  have ran := runOp_keep_lost (left := left) (by simp) (keep_blocked (s := s0) (wear := []) found hfails)
  have marked := voidMark_marked (s := countStep .addressError s0) (wear := []) (p := p) hwf rfl
  obtain ⟨done, reported⟩ := endOp_emit_finished ((voidMark [] p (countStep .addressError s0)).withStore
    { (voidMark [] p (countStep .addressError s0)).store with fault := true }) (.keepReport (BitVec.ofNat 32 r.coil) false)
  refine ⟨_, exec_keepComplete hf found ran, done.fault, ?_, ?_, fun x hx => ?_, reported⟩
  · refine done.coil.trans (marked.coil.trans ?_)
    refine mapSlots_same (s := s) fun c hc => if_neg fun h => ?_
    by_cases hcr : c = r
    · rw [hcr, hanchor] at h
      cases h
    · exact ha c hc hcr h
  · exact (congrArg (·.read (256 * p + 255)) done.memory).trans marked.marker
  · exact (congrArg (·.read x) done.memory).trans (marked.others x (by omega))

end

theorem KeepRetried.finished {r : CoilRecord} {q : Nat} {s1 : State} (h : KeepRetried r p q s s1 u) (d : Finished u t)
    (hs : v.coil = s.coil) : KeepRetried r p q v s1 t where
  marker := by rw [d.memory, h.marker]
  others x hx hq := by rw [d.memory, h.others x hx hq]
  failed := by rw [d.sectorClass]; exact h.failed
  bytes := by rw [d.memory, h.bytes]
  entry := by rw [d.sectorEntry, h.entry]
  coil := by rw [d.coil, h.coil, hs]
  addressErrors := by rw [d.addressErrors, h.addressErrors]
  dataErrors := by rw [d.dataErrors, h.dataErrors]
  fault := by rw [d.fault, h.fault]

section
variable {r : CoilRecord} {q left : Nat} (hp : 16 ≤ p ∧ p ≤ 255) (hq : 16 ≤ q ∧ q ≤ 255) (hne : p ≠ q) (hr : r ∈ s.records)
  (hu : ∀ q ∈ s.records, q.coil = r.coil → q = r) (ha : ∀ q ∈ s.records, q ≠ r → q.anchor ≠ some p)
  (hwf : s.memory.wf) (hlen : s.store.table.length = 240) (hpointer : s.store.pointer = q) (hfirst : q % 16 ≠ 0)
  (herased : s.sectorClass q = .erased) (hblank : ∀ i, i < 256 → s.memory.read (256 * q + i) = erasedByte)
  (hsize : (recordBytes r).length = 256) (hf : s.store.inFlight = some ⟨.keep r.coil, .program p, false, left⟩)
include hp hq hne hr hu ha hwf hlen hpointer hfirst herased hblank hsize hf

theorem keep_retried_blocked (hanchor : r.anchor = none ∨ r.anchor = some p)
    (hfails : if r.anchor = some p then ¬ ∀ i, 256 * p + 32 ≤ i → i < 256 * p + 256 → s.memory.read i = 0xFF
      else ¬ ∀ i, 256 * p ≤ i → i < 256 * p + 256 → s.memory.read i = 0xFF) :
    Completes (.keepComplete []) s fun t => KeepRetried r p q s (countStep .addressError (s.takeLike isCompletion)) t ∧
      Instr.keepReport (BitVec.ofNat 32 r.coil) true ∈ t.due := by
  set s0 := s.takeLike isCompletion with hs0
  have found : s0.findRecord r.coil = some r := findRecord_of_unique hr hu
  obtain ⟨u, ran, retried⟩ := runOp_keep_retried (s := s0) (left := left) hp hq hne hr hu ha hanchor (by simp)
    (keep_blocked (wear := []) found hfails) rfl hwf hlen hpointer hfirst herased hblank hsize rfl fun _ _ => rfl
  obtain ⟨done, reported⟩ := endOp_emit_finished u (.keepReport (BitVec.ofNat 32 r.coil) true)
  exact ⟨_, exec_keepComplete hf found ran, retried.finished (v := s) done rfl, reported⟩

theorem keep_retried_worn {i : Nat} {b : Byte} (hanchor : r.anchor = some p)
    (hbody : ∀ i, i < 224 → s.memory.read (256 * p + 32 + i) = erasedByte) (hi : i < 223) (hv : b ≠ byteAt (bodyBytes r) i) :
    Completes (.keepComplete [(256 * p + 32 + i, b)]) s fun t =>
      (KeepRetried r p q s (countStep .dataError
        (burntNow [(256 * p + 32 + i, b)] (256 * p + 32) (bodyBytes r) (s.takeLike isCompletion))) t ∧
        t.memory.read (256 * p + 32 + i) = b) ∧ Instr.keepReport (BitVec.ofNat 32 r.coil) true ∈ t.due := by
  set s0 := s.takeLike isCompletion with hs0
  have found : s0.findRecord r.coil = some r := findRecord_of_unique hr hu
  have body := bodyBytes_length_of_record hsize
  obtain ⟨image, himage⟩ : ∃ b, b = bodyBytes r := ⟨_, rfl⟩
  rw [← himage] at body hv ⊢
  have blank : ∀ j, j < image.length → s0.memory.read (256 * p + 32 + j) = erasedByte := fun j hj => hbody j (body ▸ hj)
  have worn : programNow [(256 * p + 32 + i, b)] (programmed (.keep r.coil) p s0).1 (programmed (.keep r.coil) p s0).2 s0 =
      (countStep .dataError (burntNow [(256 * p + 32 + i, b)] (256 * p + 32) image s0), .dataError) := by
    rw [programmed_body found hanchor, ← himage]
    exact programNow_worn (s := s0) hwf blank (by omega) hv
  have beside {x : Nat} (hx : x < 256 * p + 32 ∨ 256 * p + 256 ≤ x) :
      (countStep .dataError (burntNow [(256 * p + 32 + i, b)] (256 * p + 32) image s0)).memory.read x = s.memory.read x :=
    burntNow_outside (s := s0) (by omega)
  have unworn {x : Nat} (hx : x ≠ 256 * p + 32 + i) : List.lookup x [(256 * p + 32 + i, b)] = none := by
    rw [lookup_singleton, if_neg hx]
  obtain ⟨u, ran, retried⟩ := runOp_keep_retried (s := s0) (left := left) hp hq hne hr hu ha (.inr hanchor) (by simp) worn rfl
    (burntNow_wf (s := s0) hwf) hlen hpointer hfirst herased (fun j hj => (beside (by omega)).trans (hblank j hj)) hsize
    (unworn (by omega)) fun j hj => unworn (by omega)
  obtain ⟨done, reported⟩ := endOp_emit_finished u (.keepReport (BitVec.ofNat 32 r.coil) true)
  have finished := retried.finished (v := s) done rfl
  refine ⟨_, exec_keepComplete hf found ran, ⟨finished, (finished.others _ (by omega) (by omega)).trans ?_⟩, reported⟩
  have written := Memory.read_burnAll_in (m := s0.memory) (wear := [(256 * p + 32 + i, b)]) hwf blank i (by omega)
  rw [lookup_singleton, if_pos rfl] at written
  exact written

end

/-- Settles O55: the bytes of a record's sector, the search for a header's, the offers of the HELD slot's record, and the completions of
headers and keeps. -/
theorem headersAndBodiesAreProgrammed : Obligations.HeadersAndBodiesAreProgrammed := by
  refine ⟨fun r fits => ?bytes, fun n s hb hc ho hn hf hw => ?search, fun h r f left s hh hk hnew => ?offers,
    fun r image left s hwf hl hr hu hi => ?completions⟩
  case bytes =>
    intro b n bit ones noughts flagged
    have whole : b = headerBytes r ++ bodyBytes r := rfl
    clear_value b
    obtain ⟨head, free, check, tail, body⟩ := header_layout whole
    obtain ⟨magic, station, group, net, coil, start, target⟩ := header_numbers head
    obtain ⟨all, bodyCheck, marker⟩ := body_layout fits body
    obtain ⟨⟨reason, presence, segment⟩, ⟨halts, splices, own, late⟩, ⟨flags, counts⟩, ⟨haltPart, splicePart⟩, ⟨twist, knot⟩, entries,
      contributorPart⟩ := bodyFields_layout fits all
    obtain ⟨haltList, haltRest⟩ := haltPart.padTo (haltList_length fits)
    obtain ⟨spliceList, spliceRest⟩ := splicePart.padTo (spliceList_length fits)
    obtain ⟨contributors, rest⟩ := contributorPart.padTo (contributorList_length fits)
    rw [flatMap_length haltNoteBytes_length] at haltRest
    rw [flatMap_length (bytesBE_length 4)] at spliceRest
    rw [flatMap_length contributorBytes_length] at rest
    obtain ⟨segmented, unsegmented⟩ := segment_number segment
    obtain ⟨twistless, knotless⟩ := absent_noughts twist knot
    obtain ⟨cutBit, twistBit, knotBit, noBit⟩ := presence_bits r.cutDriven r.twist.isSome r.knot.isSome
    obtain ⟨flagBits, fewFlags⟩ := flag_bits r.flags
    have reasonCode : n 32 1 = endReasonCode r.endReason := reason.ofNat.trans (Nat.mod_eq_of_lt (endReasonCode_lt _))
    have reasonOf {e : Option EndReason} (h : r.endReason = e) : n 32 1 = endReasonCode e := h ▸ reasonCode
    have countsOf : n 46 1 = (r.halts.length * 16 + r.splices.length) % 256 := counts.ofNat
    have headCheck : n 17 2 = (crc (b.take 16 ++ (b.drop 19).take 13)).toNat := by
      rw [header_covered head tail]
      exact check.check
    have allCheck : n 253 2 = (crc ((b.drop 32).take 221)).toNat := by
      rw [body_covered fits all]
      exact bodyCheck.check
    have size : b.length = 256 := by rw [whole, List.length_append, headerBytes_length, bodyBytes_length fits]
    have front : headerBytes r = b.take 32 := by
      rw [whole]
      exact (List.take_left' (headerBytes_length r)).symm
    obtain ⟨fewHalts, fewSplices, fewContributors⟩ := fits
    refine ⟨front, size, magic, station, group, net, coil, start, target, free.one, headCheck, tail.replicate, reasonOf, reasonOf, reasonOf,
      reasonOf, (presence.bit 7).trans cutBit, (presence.bit 6).trans twistBit, (presence.bit 5).trans knotBit,
      (congrArg (· % 32) presence.one).trans noBit, segmented, unsegmented, halts.field, splices.field, own.field, late.field,
      flags.flags flagBits, flags.one.trans_lt fewFlags, by omega, by omega,
      fun i h hi => haltNote_numbers (haltList.entry haltNoteBytes_length hi), haltRest,
      fun i l hi => (spliceList.entry (bytesBE_length 4) hi).field, spliceRest, twistless, fun w hw => twist_numbers hw twist, knotless,
      fun w hw => knot_numbers hw knot, entries.ofNat.trans (Nat.mod_eq_of_lt (by omega)), fun i c hi => ?_, rest, allCheck, marker.one⟩
    obtain ⟨⟨listed, station⟩, ⟨status, flags⟩, halts, origin⟩ :=
      contributor_numbers (contributors.entry contributorBytes_length hi)
    have statusOf {k : ContributorStatus} (h : c.status = k) : n (194 + 4 * i) 1 / 64 = k.code := h ▸ status
    exact ⟨listed, station, statusOf, statusOf, statusOf, flags, halts, origin⟩
  case search =>
    intro p b here erased spent anchored erasable
    obtain ⟨begins, store, memory, slot, anchors⟩ := coilRunningEntry_headerBegins hb hc ho hn hf hw
    set s0 := s.take .coilRunningEntry
    set u := coilOpened n s0
    have entry (q : Nat) : u.sectorEntry q = s.sectorEntry q := by rw [State.sectorEntry, store]; rfl
    have bank : u.searchBank = b := by rw [State.searchBank, store]; rfl
    have takes : u.takesHere ↔ here := by simp only [State.takesHere, State.sectorClass, entry, store]; rfl
    have wiped : u.bankErased b = true ↔ erased := by simp only [bankErased_iff, State.sectorClass, entry]; rfl
    have wipes : u.bankErasable b = true ↔ erasable := by
      rw [bankErasable_iff, anchors]
      simp only [entry, store]
      rfl
    have used (h : ¬ erased) : u.bankErased u.searchBank = false := bank ▸ Bool.eq_false_iff.2 (mt wiped.1 h)
    have opens : (beginOp (.programHeader n (headerBytes (newRecord s0 n))) u).coil = u.coil := (beginOp_only u _).coil_eq
    refine ⟨_, begins, headerBytes (newRecord s0 n), headerBytes_length _, ((beginOp_only u _).2 .memory (by decide)).trans memory,
      ⟨newRecord s0 n, by rw [opens, slot], rfl, rfl⟩, fun hx => ?_, fun hx hlo hhi he => ?_, fun hx he hr => ?_, fun hx he hr => ?_⟩
    · rw [putStep_programHeader_store (searchSector_of_here (takes.2 hx)), placeAt, State.withStore_store, store]
      rfl
    · rw [putStep_programHeader_store (searchSector_of_erased (mt takes.1 hx) (bank ▸ wiped.2 he)), placeAt, State.withStore_store, store,
        bank, nextSector_of_bank hhi]
      rfl
    · rw [putStep_programHeader_store (searchSector_of_erasable (mt takes.1 hx) (used he) (bank ▸ wipes.2 hr)), State.withStore_store,
        store, bank]
      rfl
    · rw [putStep_programHeader_store (searchSector_of_full (mt takes.1 hx) (used he) (bank ▸ Bool.eq_false_iff.2 (mt wipes.1 hr))),
        State.withStore_store, store, bank]
      rfl
  case offers =>
    intro p b spent anchored usable
    have kept {v : State} (hv : v.store = s.store) (q : CoilRecord) : v.recordKept q = s.recordKept q := by
      simp only [State.recordKept, State.sectorClass, State.sectorEntry, hv]
    refine ⟨fun hr hg hfl hop => ?_, fun hr hg hfl he => ?_, fun first last source hfl hfull => ?_⟩
    · obtain ⟨v, t, ht, handed, hv, held⟩ := tallyWaitExpiry_hands hr hg
      have other : ∀ g, v.store.inFlight = some g → g.op ≠ .keep h.coil := by
        rw [hv, hfl]
        rintro g ⟨⟩
        exact hop
      refine ⟨t, ht, ?_⟩
      dsimp only
      rw [handed, handSeal_of_busy (held.trans hh) ((kept hv h).trans hk) (hv ▸ hnew) other (hv ▸ hfl) r.coil, hv]
      exact ⟨hfl, rfl⟩
    · obtain ⟨v, t, ht, handed, hv, held⟩ := tallyWaitExpiry_hands hr hg
      have none : v.store.inFlight = none := hv ▸ hfl
      refine ⟨t, ht, ?_⟩
      dsimp only
      rw [handed]
      exact handSeal_of_idle (held.trans hh) ((kept hv h).trans hk) (hv ▸ hnew) (fun g hg => by rw [none] at hg; cases hg) none (hv ▸ he)
        r.coil
    · obtain ⟨u, ran, store, coil⟩ := checkComplete_ends hfl
      have entry (q : Nat) : u.sectorEntry q = s.sectorEntry q := by simp only [State.sectorEntry, store]
      have bank : u.searchBank = b := by rw [State.searchBank, store]; rfl
      have records : u.records = s.records := by rw [State.records, coil]; rfl
      have judged : u.pointerUsable = true ↔ usable := by
        rw [pointerUsable_iff, bankErased_iff, bankErasable_iff, bank]
        simp only [State.takesHere, State.sectorClass, entry, store, kept store, records]
        rfl
      refine ⟨endOp u, ran, fun _ _ hn => ?_, fun _ _ hu hl => ?_⟩
      · exact endOp_full (store ▸ hfull) (Bool.eq_false_iff.2 (mt judged.1 hn))
      · have offers := endOp_offers (s := u) (coil ▸ hh) ((kept store h).trans hk) (store ▸ hnew) (store ▸ hfull) (judged.2 hu) (store ▸ hl)
        rwa [store] at offers
  case completions =>
    intro blank report put anchoredAt alone parts fails
    have erased {lo k : Nat} (hb : blank lo (lo + k)) : ∀ i, i < k → s.memory.read (lo + i) = erasedByte :=
      fun i hi => hb (lo + i) (by omega) (by omega)
    refine ⟨fun p hlo hhi hf => ⟨?_, fun a v hal hah hv hb => ?_⟩, fun b hlo hhi hf => ?_, fun hf => header_nowhere hf,
      fun p hlo hhi ha hf hb hsize => ?_, fun p retry hlo hhi ha hf hb hsize => ?_,
      fun p q hplo hphi hqlo hqhi hne hanchor ha hf hfails hpointer hfirst hclass hb hsize => ?_,
      fun p q a v hplo hphi hqlo hqhi hne hanchor ha hf hbody hal hah hv hpointer hfirst hclass hb hsize => ?_,
      fun p hlo hhi hanchor hf hfails ha => ?_, fun retry hanchor hf => keep_nowhere hr hu hf⟩
    · obtain ⟨t, ht, only⟩ := programHeaderComplete_only s []
      refine ⟨t, ht, only, fun hb => ?_, fun hb => ?_⟩
      · exact (header_taken hl hwf ⟨hlo, hhi⟩ (erased hb) hi hf).of_exec ht
      · obtain ⟨i, hlt, he⟩ := exists_not_blank hb
        exact (header_blocked hl hwf ⟨hlo, hhi⟩ (by omega) he hf).of_exec ht
    · obtain ⟨i, rfl⟩ := Nat.exists_eq_add_of_le hal
      rw [Nat.add_sub_cancel_left] at hv
      exact (programHeaderComplete_only s _).and (header_worn hl hwf ⟨hlo, hhi⟩ (by omega) hv (erased hb) hi hf)
    · exact (programHeaderComplete_only s []).and (header_erased hl hwf ⟨hlo, hhi⟩ hi hf)
    · have taken := keep_taken (s := s) hr hu ⟨hlo, hhi⟩ hl hwf
        (programmed_body (s := s.takeLike isCompletion) (findRecord_of_unique hr hu) ha) (by rw [hsize]; exact erased hb) hf
      rw [hsize, mapSlots_anchored hu ha] at taken
      exact (keepComplete_only s []).and taken
    · have taken := keep_taken (s := s) hr hu ⟨hlo, hhi⟩ hl hwf
        (programmed_whole (s := s.takeLike isCompletion) (findRecord_of_unique hr hu) (by simp [ha])) (by rw [hsize]; exact erased hb) hf
      rw [hsize] at taken
      exact (keepComplete_only s []).and taken
    · have retried := keep_retried_blocked ⟨hplo, hphi⟩ ⟨hqlo, hqhi⟩ hne hr hu ha hwf hl hpointer hfirst hclass (erased hb) hsize hf hanchor
        hfails
      refine ((keepComplete_only s []).and retried).imp fun t ⟨only, done, reported⟩ => ?_
      exact ⟨only, done.addressErrors, done.marker, done.failed, done.bytes, done.entry, done.coil, done.fault, reported⟩
    · obtain ⟨i, rfl⟩ := Nat.exists_eq_add_of_le hal
      rw [Nat.add_sub_cancel_left] at hv
      have retried := keep_retried_worn ⟨hplo, hphi⟩ ⟨hqlo, hqhi⟩ hne hr hu ha hwf hl hpointer hfirst hclass (erased hb) hsize hf hanchor
        (erased hbody) (by omega) hv
      refine ((keepComplete_only s _).and retried).imp fun t ⟨only, ⟨done, worn⟩, reported⟩ => ?_
      exact ⟨only, done.dataErrors, done.addressErrors, worn, done.marker, done.failed, done.bytes, done.entry, done.coil, reported⟩
    · exact (keepComplete_only s []).and (keep_lost hr hu hwf hanchor ha hfails hf)

end Sys2Proof.Machine
end
